-- ==== Sys2Proof/Word.lean ====
section
/-! DEFINITION. The word types of the Driant (R6: little-endian, bit 0 least significant) and sparse
tables. Spec file 00_scope.md. -/

namespace Sys2Proof

/-- One byte of data, 8 bits (R6). -/
abbrev Byte := BitVec 8

/-- One 32-bit register word (R474). -/
abbrev W32 := BitVec 32

/-- A 32-bit counter that saturates at 0xFFFF_FFFF (R101, R135, R166 and the other counter rules). -/
abbrev Cnt := BitVec 32

/-- A sparse table: pairs of an index and a value, indices strictly rising, and no value equal to
the value an unlisted index holds. -/
abbrev Tab (α : Type) := List (Nat × α)

/-- A byte memory, sparse: pairs of an address and a byte. -/
abbrev Mem := Tab Byte

end Sys2Proof
end

