-- ==== Sys2Proof/Syntax.lean ====
section
/-! DEFINITION. The commands: one constructor for each row of the table of operations. A command is what
happens to the block from outside or by its own clocks at a moment: a write or a read of a register, a
descriptor that starts, a cell or slot that arrives, a timer that runs out, a step of one of its engines.
The first operand t of every command is the time in ns at which it happens; m is the identifier of a master
(12 R372). A command whose condition the state does not meet changes nothing but the time. -/

namespace Sys2Proof

/-- What a memory or datapath fault does to a read of the command (13 R392, R393, 04 R104, R106): an
event outside the machine that a command carries (DESIGN CHOICE: log entry 9). -/
inductive Flaw where
  /-- no fault -/
  | none
  /-- one symbol of the row read is wrong and is corrected -/
  | corrected
  /-- two symbols of the row read are wrong -/
  | uncorrectable
  /-- two symbols of a row of a Caldera die's landing or magma banks are wrong: bank 384 to 511 and row -/
  | shared (bank row : Nat)
  /-- so many accesses in a row to a GDDR7 device fail their EDC or command/address parity -/
  | edc (n : Nat)
  /-- a header byte changed: its parity differs -/
  | parity
  /-- a payload byte changed where no check of its own covers it -/
  | payload
  /-- the scrim link word that was read -/
  | link (w : Nat)
  /-- an adder's result changed: its residue differs -/
  | residue
  deriving DecidableEq, Repr

/-- The snoops of CXL.cache that the host sends for a doorbell line, 0 to 2,047 (12 R350). -/
inductive Snoop where
  /-- SnpInv: a store of the host -/
  | inv (line : Nat)
  /-- SnpData -/
  | data (line : Nat)
  /-- SnpCur -/
  | cur (line : Nat)
  deriving DecidableEq, Repr

/-- The line of a snoop. -/
def Snoop.line : Snoop → Nat
  | .inv line | .data line | .cur line => line

/-- How a slot meets uncorrectable codewords (03 R69, R101): how many end in it, and whether it overlaps one. -/
structure Spoiled where
  ended : Nat
  overlaps : Bool
  deriving DecidableEq, Repr

/-- The commands, in the order of the table. -/
inductive Instr where
  /-- PACKAGE_RESET (R52). Power-on, or PKG_RST_N held low for 100 ns or more, resets every die and holds
  H_RST_N low; only the image store is kept. Operands: pin: PKG_RST_N fell, otherwise power-on. -/
  | packageReset (t : Nat) (pin : Bool)
  /-- PWR_OK_FALL (R37). A PWR_OK input other than PWR_OK[0] falls while out of reset: Float stops all work,
  ramps every rail group down and holds the package in reset. Operands: k: rail group 1 to 8. -/
  | pwrOkFall (t k : Nat)
  /-- PWR_OK0_FALL (R37). PWR_OK[0] falls: TD stops at once and every output is released within 1 µs. -/
  | pwrOk0Fall (t : Nat)
  /-- BRING_UP_START (R56). At time zero TD leaves reset, runs TD_CORE from VT_OSC and starts its Vent
  collector; the phase is ROM. -/
  | bringUpStart (t : Nat)
  /-- TD_PLL_LOCK (R56). TD's PLLs lock on CREF0 and TD_CORE moves to its PLL. -/
  | tdPllLock (t : Nat)
  /-- IMAGES_VERIFIED (R456). The ROM completes PUF reconstruction and verification of the boot header, the
  security-version record, the LMS state and the firmware images, then runs TD firmware, or stops in
  BOOT_HALT. Operands: puf: the 1,024 bits that TD reads from its PUF, none where it answers nothing; eraseA,
  eraseB: erase counts the dies report. -/
  | imagesVerified (t : Nat) (puf : Option (List Byte)) (eraseA eraseB : Nat)
  /-- DIES_RELEASED (R56). TD.S0 and TD.S1 train and the die resets are released in order, with clocks
  rising by die clock steps; the phase is DIES. Operands: absent: dies that do not answer. -/
  | diesReleased (t : Nat) (absent : List Nat)
  /-- DIE_RECORDS_VERIFIED (R32). The die records are verified and the PUF derivations compared, which
  completes TR_DIE_STATUS. Operands: pufs: die number and the 1,024 bits read from its PUF. -/
  | dieRecordsVerified (t : Nat) (pufs : List (Nat × List Byte))
  /-- CONFIG_APPLIED (R56). The start-up configuration image is verified and applied, or defaults are used;
  H_RST_N rises and lanes begin training. -/
  | configApplied (t : Nat)
  /-- MEMORY_TRAINED (R56). The GDDR7 devices are trained and zeroed, or re-entered from self-refresh, and
  the skim pass starts; the phase is MEMORY. Operands: bad: GDDR7 devices that fail training. -/
  | memoryTrained (t : Nat) (bad : List Nat)
  /-- PHASE_READY (R56). Bring-up reaches phase READY and ownership claims are accepted. -/
  | phaseReady (t : Nat)
  /-- HOST_MODULE_TRAINED (R20). H.A or H.B completes UCIe training, and the CXL link is carried on H.A, or
  on H.B when only H.B trains. Operands: b: module B; half: at half rate; cache: CXL.cache came up. -/
  | hostModuleTrained (t : Nat) (b half cache : Bool)
  /-- ATTACH_TIMEOUT (R20). Neither host module has trained 500 ms after H_RST_N rises, so attach_failed is
  set and operation continues without a host. -/
  | attachTimeout (t : Nat)
  /-- WARM_PACKAGE_RESET (R52). Owner reset kind 0x1 resets every die except IS0 and IS1, optionally keeping
  GDDR7 contents and the host-site die, and repeats bring-up. Operands: keepMem, keepHost: R54. -/
  | warmPackageReset (t m : Nat) (keepMem keepHost : Bool)
  /-- HOST_SITE_RESET (R52). Owner reset kind 0x2 holds H_RST_N low for 1 ms and resets both host attach
  units. Operands: m: master. -/
  | hostSiteReset (t m : Nat)
  /-- DIE_RESET (R53). Owner reset kind 0x3 resets one tile, plane, Caldera die or lane die after the
  BAD_TARGET and BUSY checks. Operands: die: R54. -/
  | dieReset (t m die : Nat)
  /-- PORT_GROUP_RESET (R96). Owner reset kind 0x4 resets a lane die's lanes and ports and applies its
  pending width map, or is refused for an invalid map. Operands: die: R54. -/
  | portGroupReset (t m die : Nat)
  /-- PORT_RESET (R52). Owner reset kind 0x5 retrains one port. Operands: die, index: R54. -/
  | portReset (t m die index : Nat)
  /-- ENGINE_RESET (R53). Owner reset kind 0x6 resets one Caldera engine, or is refused with BUSY or
  RESIDUE. Operands: die, index: R54. -/
  | engineReset (t m die index : Nat)
  /-- RESET_COMPLETE (R55). An owner reset finishes: TR_RESET_STATUS records DONE and the elapsed time, and
  go clears. -/
  | resetComplete (t : Nat)
  /-- FLOAT_GRANT (R38). A waiting current change is granted once its rise or fall bucket holds the charge,
  in the order of R40. -/
  | floatGrant (t : Nat)
  /-- ENGINE_START (R42). Float starts an idle engine for an invocation, in ascending engine order, at least
  8 ticks after the previous start and with a full rise bucket. -/
  | engineStart (t : Nat)
  /-- ENGINE_STOP (R42). When no invocation is adding on an engine any longer, Float stops it through the
  fall bucket. Operands: e: physical engine. -/
  | engineStop (t e : Nat)
  /-- ADMISSION_STEP (R44). A tile's admitted ingress rate is stepped up or down by 1/32 of full rate,
  withholding credits or processing fill cells meanwhile. Operands: tile: 0 to 15; up: a step up. -/
  | admissionStep (t tile : Nat) (up : Bool)
  /-- CLOCK_CHECK_WINDOW (R51). At the end of each window of 4,096 VT_OSC cycles the Vent collector compares
  its die's clocks and raises CLK_LOSS for an absent or far-off clock. Operands: d: die number; bad: the
  clocks found absent or far off; parity: a configuration register of the die fails its parity (R391). -/
  | clockCheckWindow (t d : Nat) (bad : List Nat) (parity : Bool := false)
  /-- THERMAL_SAMPLE (R28). Every 1 ms TD reads every die sensor and applies the THERM_N, THERM_HIGH,
  THERM_TRIP and THERM_SENSOR thresholds. Operands: readings: die number and temperature in 1/16 degree,
  none where the sensor cannot be read. -/
  | thermalSample (t : Nat) (readings : List (Nat × Option Int))
  /-- H_THERM_N_CHANGE (R28). The host-site die drives or releases H_THERM_N, which asserts or releases
  THERM_N. Operands: low: the new level. -/
  | hThermNChange (t : Nat) (low : Bool)
  /-- PORT_ENABLE (R74). A port enabled in LN_PORT_MAP on a lane die in use leaves OFF for DETECT, with each
  lane enabled through Float. Operands: p: port (its first lane, 0 to 511). -/
  | portEnable (t p : Nat)
  /-- SIGNAL_DETECT (R74). An input of 100 mV or more for 1 ms on a lane moves the lane from DETECT to
  COARSE. Operands: l: lane 0 to 511. -/
  | signalDetect (t l : Nat)
  /-- NO_SIGNAL_TIMEOUT (R74). After 100 ms in DETECT without a signal the reason NO_SIGNAL is shown.
  Operands: p: port (its first lane, 0 to 511). -/
  | noSignalTimeout (t p : Nat)
  /-- COARSE_CONVERGED (R74). The receiver's clock recovery and adaptation converge and the lane enters
  ALIGN. Operands: l: lane 0 to 511. -/
  | coarseConverged (t l : Nat)
  /-- FRAME_RECEIVED (R72). A FRAME ordered set is received and used for frame lock, polarity correction and
  time beacons. Operands: l: lane; pos: raw-bit position of the marker; frac: 1/65,536 ns beyond t;
  inverted: the marker is inverted; slot: 264 bytes; corr, unc: codewords that end in the slot and were corrected or
  are uncorrectable. -/
  | frameReceived (t l pos frac : Nat) (inverted : Bool) (slot : List Byte) (corr unc : Nat := 0)
  /-- LOCK_LOST (R77). Three consecutive missing markers mean lost lock, and an active port leaves with
  reason LOCK_LOST, sends LINK_DOWN and retrains. Operands: l: lane 0 to 511. -/
  | lockLost (t l : Nat)
  /-- TS1_RECEIVED (R75). A TS1 is received in ALIGN or EQUALIZE and its coefficient request is applied
  within 1 µs and reported in coeff_status. Operands: l: lane; slot: 264 bytes; sat: the receiver is
  satisfied; want: the coeff_req it asks for; corr, unc: as for FRAME_RECEIVED. -/
  | ts1Received (t l : Nat) (slot : List Byte) (sat : Bool) (want : Byte) (corr unc : Nat := 0)
  /-- TS2_RECEIVED (R76). A TS2 is received in CONFIG, and the port passes CONFIG when the lane map, width
  and credits agree, or fails with LANE_MAP. Operands: l: lane 0 to 511; slot: the 264 bytes of the control
  slot; corr, unc: as for FRAME_RECEIVED. -/
  | ts2Received (t l : Nat) (slot : List Byte) (corr unc : Nat := 0)
  /-- IDENT_RECEIVED (R79). The partner's IDENT is checked for version and compared with the wiring map,
  giving ACTIVE, QUARANTINE or DOWN. Operands: p: port (its first lane, 0 to 511); slot: the 264 bytes of
  the control slot; corr, unc: as for FRAME_RECEIVED. -/
  | identReceived (t p : Nat) (slot : List Byte) (corr unc : Nat := 0)
  /-- TRAINING_TIMEOUT (R74). A training state times out, and the failed attempt returns the port to DETECT,
  or to HOLDOFF on every third failure. Operands: p: port (its first lane, 0 to 511). -/
  | trainingTimeout (t p : Nat)
  /-- HOLDOFF_EXPIRY (R74). After 1 s in HOLDOFF the port returns to DETECT. Operands: p: port (its first
  lane, 0 to 511). -/
  | holdoffExpiry (t p : Nat)
  /-- QUIESCE_RECEIVED (R73). QUIESCE from a partner on lane index 0 puts the port in QUIESCED, and
  forwarding treats it as down. Operands: p: port (its first lane, 0 to 511). -/
  | quiesceReceived (t p : Nat)
  /-- QUIESCE_END (R73). A whole frame of IDLE_OS from the partner returns a QUIESCED port to ACTIVE or
  QUARANTINE, rerunning the wiring comparison if the entry changed. Operands: p: port (its first lane, 0 to
  511). -/
  | quiesceEnd (t p : Nat)
  /-- LINK_DOWN_RECEIVED (R77). LINK_DOWN on any lane of an active port makes it retrain with reason
  PARTNER_DOWN. Operands: l: lane 0 to 511. -/
  | linkDownReceived (t l : Nat)
  /-- PARTNER_RESTART (R81). The partner loses frame lock for 1 ms or more and then sends TS1 again, so a
  port held DOWN for VERSION_REFUSED trains once more. Operands: p: port (its first lane, 0 to 511). -/
  | partnerRestart (t p : Nat)
  /-- CELL_RECEIVED (R89). A cell is received: it is accepted in order, discarded as a duplicate or out of
  order, or it starts retry error state, and its credit report is applied. Operands: l: lane; cell: 264
  bytes; corr: codewords that end in the slot and were corrected; unc: the uncorrectable ones. -/
  | cellReceived (t l : Nat) (cell : List Byte) (corr : Nat) (unc : Spoiled)
  /-- CONTROL_SLOT_RECEIVED (R70). A control slot is received; its acknowledgement, nak and credit snapshot
  are applied, or it is ignored on an os_crc failure. Operands: l: lane 0 to 511; slot: the 264 bytes of the
  control slot; corr, unc: codewords that end in the slot and were corrected or are uncorrectable. -/
  | controlSlotReceived (t l : Nat) (slot : List Byte) (corr unc : Nat)
  /-- RETRY_TIMEOUT (R91). No acknowledgement advances for 10 µs, so the sender resends from the oldest
  unacknowledged cell, or retrains after eight resends with RETRY_EXHAUSTED. Operands: p: port (its first
  lane, 0 to 511). -/
  | retryTimeout (t p : Nat)
  /-- MODULE_FAILURE (R16). A die-to-die module stays unusable after lane repair, retiring a plane, downing
  lanes, failing over the host attach or switching the management path. Operands: d: die number; u: module
  of it. -/
  | moduleFailure (t d u : Nat)
  /-- LN_COMMIT (R100). A write of LN_COMMIT.commit applies a lane die's pending wiring entries and reruns
  the wiring comparison. Operands: m: master; n: lane die 0 to 31. -/
  | lnCommit (t m n : Nat)
  /-- INGRESS_LOOKUP (R110). The ingress tile checks a packet's header, increments hops, looks up its route,
  chooses the egress and sends cells into the fabric, or discards the packet. Operands: id: the packet;
  flaw: what the reads find. -/
  | ingressLookup (t id : Nat) (flaw : Flaw)
  /-- INGRESS_FINAL_CHECK (R139). When a packet's last cell arrives, checks 3, 5 and 6 are settled and the
  last cell carries the verdict. Operands: id: the packet. -/
  | ingressFinalCheck (t id : Nat)
  /-- PORT_HOLD_EXPIRY (R122). A port's hold timer reaches port_hold, and every packet queued for the
  unavailable port is discarded as hold_drop. Operands: p: port (its first lane, 0 to 511). -/
  | portHoldExpiry (t p : Nat)
  /-- WRITE_ENTRIES (R118). A ROUTE_UPDATE writes 1 to 1,024 consecutive route entries for a slice on all
  tiles. Operands: host: the bytes the host returns for the address the body names. -/
  | writeEntries (t : Nat) (host : List Byte)
  /-- WRITE_SET (R118). A ROUTE_UPDATE writes one set for a slice on all tiles. Operands: host: the bytes
  the host returns for the address the body names. -/
  | writeSet (t : Nat) (host : List Byte)
  /-- COPY_REGION (R118). A ROUTE_UPDATE copies n entries from one index to another for a slice. -/
  | copyRegion (t : Nat)
  /-- COMMIT_SLICE (R120). A ROUTE_UPDATE replaces a slice's descriptor after checking the region, with all
  tiles switching within 1 µs. Operands: host: the bytes the host returns for the address the body names. -/
  | commitSlice (t : Nat) (host : List Byte)
  /-- CLEAR_SLICE (R118). A ROUTE_UPDATE sets a slice's valid bit to 0. -/
  | clearSlice (t : Nat)
  /-- PREV_DESCRIPTOR_EXPIRY (R394). 10 µs after a COMMIT_SLICE each tile drops the slice's previous
  descriptor, and waiting writes to the old region proceed. Operands: sl: slice. -/
  | prevDescriptorExpiry (t sl : Nat)
  /-- PT_COMMIT (R133). A write of PT_COMMIT.commit applies every pending shadowed field of a tile, or
  refuses them all with a detail code. Operands: m: master; tile: 0 to 15. -/
  | ptCommit (t m tile : Nat)
  /-- FABRIC_SLOT (R139). In each fabric slot a fabric port sends its oldest eligible staged cell that holds
  a credit to the plane of the fixed pattern. Operands: f: fabric port 0 to 23. -/
  | fabricSlot (t f : Nat)
  /-- PLANE_CELL_RECEIVE (R141). A plane writes an arriving cell into its transit latch, or discards it and
  raises FAB_CREDIT when the latch is full. Operands: p: plane 0 to 7. -/
  | planeCellReceive (t p : Nat)
  /-- PLANE_SLOT (R140). In each plane slot every output takes one cell from its latches in the cyclic
  priority order, or sends EMPTY with credits, and returns credits. Operands: p: plane 0 to 7. -/
  | planeSlot (t p : Nat)
  /-- FABRIC_CELL_ARRIVAL (R147). A fabric cell reaches its destination tile; fcrc is checked, buffers are
  taken and admitted under Hod, and the cell is written. Operands: tile: 0 to 15; corrupt: the cell check
  fails; flaw: what the reads find. -/
  | fabricCellArrival (t tile : Nat) (corrupt : Bool) (flaw : Flaw)
  /-- PACKET_RELEASE (R149). A complete PASS packet is released to its output queue in rel_seq order once
  every lower number is resolved, after route confirmation and the class G check. Operands: tile: 0 to 15;
  src: source fabric port; vc; flaw: what the reads find. -/
  | packetRelease (t tile src vc : Nat) (flaw : Flaw)
  /-- REASSEMBLY_TIMEOUT (R150). A packet still incomplete 2 µs after its first cell is discarded and
  counted in reasm_timeout. Operands: tile: 0 to 15; src: source fabric port; vc; rel: rel_seq. -/
  | reassemblyTimeout (t tile src vc rel : Nat)
  /-- SEQ_GAP_TIMEOUT (R150). A rel_seq missing 2 µs after a higher number arrived is resolved as discarded
  and counted in seq_skip. Operands: tile: 0 to 15; src: source fabric port; vc. -/
  | seqGapTimeout (t tile src vc : Nat)
  /-- PLANE_RETIRE (R151). FP_CTL.retire, Vent isolation or module failure retires a plane; every fabric
  port drops its credits for it within 1 µs. Operands: m: master; p: plane 0 to 7. -/
  | planeRetire (t m p : Nat)
  /-- PLANE_REJOIN (R152). FP_CTL.rejoin after a die reset makes a retired plane rejoin at its next plane
  slot with K mod 24 = 0, or is refused. Operands: m: master; p: plane 0 to 7. -/
  | planeRejoin (t m p : Nat)
  /-- POOL_REBUILD (R158). PT_HOD_CTL.rebuild starts re-threading a quarantined pool's scrim, or is refused
  while buffers are in use. Operands: m: master; tile: 0 to 15; k: pool 0 to 3. -/
  | poolRebuild (t m tile k : Nat)
  /-- POOL_REBUILD_DONE (R158). A pool's scrim rebuild completes and the quarantine clears. Operands: tile:
  0 to 15. -/
  | poolRebuildDone (t tile : Nat)
  /-- CREDIT_FREE (R160). Held link credits are freed to the partner once the over image clears, within 400
  ns and in held order. Operands: p: port; pair: credit pair 0 to 15. -/
  | creditFree (t p pair : Nat)
  /-- CELL_OPPORTUNITY (R173). At each cell opportunity the port's scheduler chooses one cell by rank
  (strict caps, calendar, DWRR, fallback, idle) and sends it. Operands: p: port (its first lane, 0 to 511);
  flaw: what the reads find. -/
  | cellOpportunity (t p : Nat) (flaw : Flaw)
  /-- WHEEL_SLOT_DUE (R181). A timing wheel slot comes due; level 0 entries become eligible and higher-level
  entries are re-entered. Operands: tile: 0 to 15. -/
  | wheelSlotDue (t tile : Nat)
  /-- LAUNCH_HOLD_END (R333). A held lc = 1 packet becomes eligible when the FTC reaches launch_count or
  launch_max has passed. Operands: p: port (its first lane, 0 to 511). -/
  | launchHoldEnd (t p : Nat)
  /-- FUMAROLE_PERIOD (R184). At the start of a sample class period Fumarole samples the class's flow queues
  and writes records to a ring or the history. Operands: tile: 0 to 15; c: sample class 1 to 3. -/
  | fumarolePeriod (t tile c : Nat)
  /-- HWM_READ (R187). A read of a high-water mark returns it and resets it to the current level. Operands:
  m: master; tile: 0 to 15; which: 0 POOL, 1 PORT, 2 Q; i: index. -/
  | hwmRead (t m tile which i : Nat)
  /-- CALDERA_CELL_LANDING (R269). A cell reaching a Caldera die takes a landing place, or its packet is
  discarded as intake_drop; over bits are updated. Operands: die: Caldera die 0 to 7; corrupt: the cell
  check fails. -/
  | calderaCellLanding (t die : Nat) (corrupt : Bool)
  /-- INTAKE_CHECK (R270). A complete landed packet is checked for fcrc, verdict, pay_crc and the message
  checks, then handled by its message type. Operands: die: Caldera die 0 to 7; id: the packet; flaw: what
  the reads find. -/
  | intakeCheck (t die id : Nat) (flaw : Flaw)
  /-- LANDING_TIMEOUT (R270). A landed packet incomplete 2 µs after its first cell is discarded as
  reasm_timeout. Operands: die: Caldera die 0 to 7; id: the packet. -/
  | landingTimeout (t die id : Nat)
  /-- CONTRIB (R239). A member's CONTRIB segment is checked against the group records and counts toward its
  segment, or is discarded. Operands: die: Caldera die 0 to 7; id: the packet. -/
  | contrib (t die id : Nat)
  /-- SLOT_RESERVATION_DONE (R266). All engines of the plan answer the slot reservation, taking the
  invocation record or refusing with INVOC_LIMIT BASIN. Operands: k: invocation, die * 128 + record. -/
  | slotReservationDone (t k : Nat)
  /-- PARTIAL (R252). A child switch's PARTIAL segment or part is checked and counts when all its parts have
  arrived. Operands: die: Caldera die 0 to 7; id: the packet. -/
  | partialMsg (t die id : Nat)
  /-- COUNT (R243). A COUNT from a member or child switch is checked and collected; a non-apex switch sends
  its COUNT and the apex decides the count or aborts. Operands: die: Caldera die 0 to 7; id: the packet. -/
  | count (t die id : Nat)
  /-- COUNT_RESULT (R243). A switch receiving COUNT_RESULT forwards it to its members and child switches and
  moves to REDUCE. Operands: die: Caldera die 0 to 7; id: the packet. -/
  | countResult (t die id : Nat)
  /-- CREDIT (R236). A CREDIT from the parent raises the highest segment that this switch may send.
  Operands: die: Caldera die 0 to 7; id: the packet. -/
  | credit (t die id : Nat)
  /-- STATUS (R247). An aborting STATUS for a held invocation aborts it here and is forwarded to all but its
  sender. Operands: die: Caldera die 0 to 7; id: the packet. -/
  | status (t die id : Nat)
  /-- PARTICIPATION (R253). A child switch's PARTICIPATION block is combined into this switch's digest, full
  bitmap and counts. Operands: die: Caldera die 0 to 7; id: the packet. -/
  | participation (t die id : Nat)
  /-- INVOCATION_LAUNCH (R334). An invocation leaves ARMED at the latest of its launch count, the end of
  STEP e and creation; timers start and engines are started. Operands: k: invocation, die * 128 + record. -/
  | invocationLaunch (t k : Nat)
  /-- SEGMENT_ADD (R272). A verified segment is added into the basin once its child's token arrives, and the
  token passes to the next segment's engine. Operands: die: Caldera die 0 to 7; id: the packet; flaw: what
  the reads find. -/
  | segmentAdd (t die id : Nat) (flaw : Flaw)
  /-- MAGMA_RECORD_GRANT (R279). A promotion waiting for a magma record takes one when an element of the die
  is produced. Operands: die: Caldera die 0 to 7; flaw: what the reads find. -/
  | magmaRecordGrant (t die : Nat) (flaw : Flaw := .none)
  /-- MAGMA_WAIT_EXPIRY (R279). An add has waited magma_wait for a record, and its invocation aborts with
  MAGMA_FULL. Operands: die: Caldera die 0 to 7; id: the packet. -/
  | magmaWaitExpiry (t die id : Nat)
  /-- SEGMENT_PRODUCE (R240). When every child is settled for a segment, it is rounded, encoded and sent as
  PARTIAL, RESULT or to turnaround; PARTICIPATION follows the last PARTIAL. Operands: k: invocation, die *
  128 + record; j: segment; flaw: what the reads find. -/
  | segmentProduce (t k j : Nat) (flaw : Flaw := .none)
  /-- SLOT_FREE (R275). A working slot is freed when the last packet of its segment has left the die,
  advancing the front. Operands: k: invocation, die * 128 + record; j: segment. -/
  | slotFree (t k j : Nat)
  /-- CREDIT_SEND (R267). The lead engine sends a CREDIT to an unsettled child when the front advances, at
  most one per child per 500 ns. Operands: k: invocation, die * 128 + record; i: child. -/
  | creditSend (t k i : Nat)
  /-- MEMBER_TIMER_EXPIRY (R245). A child's timer runs out: under ABORT the invocation aborts, under DROP
  the token holder is frozen. Operands: k: invocation, die * 128 + record; i: child. -/
  | memberTimerExpiry (t k i : Nat)
  /-- FREEZE_REPLY (R273). The token holder replies to a freeze, and the child is dropped with d = t or the
  drop is cancelled. Operands: k: invocation, die * 128 + record; i: child. -/
  | freezeReply (t k i : Nat)
  /-- AUDIT_WRITE (R254). The audit record is written to the completion ring when there is room, and the
  invocation goes to DONE or FREE. Operands: k: invocation, die * 128 + record. -/
  | auditWrite (t k : Nat)
  /-- ENGINE_LOSS (R280). An engine is lost: its invocations abort with CALDERA_LOST and its logical number
  is remapped to a spare or invalidated. Operands: e: physical engine. -/
  | engineLoss (t e : Nat)
  /-- CALDERA_DIE_LOSS (R281). A Caldera die is lost, with all eight engines lost, its fabric port stopped
  and its parity contents lost. Operands: c: Caldera die 0 to 7. -/
  | calderaDieLoss (t c : Nat)
  /-- ENGINE_MAP_WRITE (R282). An owner write of PK_ENGINE_MAP[k] updates the map and the tile copies, or is
  dropped. Operands: m: master; k: logical engine; w: value written. -/
  | engineMapWrite (t m k w : Nat)
  /-- GROUP_INSTALL (R229). A descriptor installs or replaces a group record after the GROUP_BAD,
  VERSION_REFUSED and COUNTER_RESIDUE checks. Operands: host: the bytes the host returns for the address the
  body names. -/
  | groupInstall (t : Nat) (host : List Byte)
  /-- PLAN_LOAD (R230). A descriptor loads a plan record for a group after checking it against itself and
  the group record. Operands: host: the bytes the host returns for the address the body names. -/
  | planLoad (t : Nat) (host : List Byte)
  /-- RESYNC (R258). A descriptor sets a group's expected STEP, first aborting any open invocation with
  STEP_SKEW. -/
  | resync (t : Nat)
  /-- SIGNAL_STEP (R309). A plan's SIGNAL step signals a local counter or sends a SIGNAL message to
  target_ep. Operands: k: invocation, die * 128 + record. -/
  | signalStep (t k : Nat)
  /-- WAIT_STEP (R310). A plan's WAIT step issues a wait on its counter, or aborts with WAIT_TIMEOUT if the
  identifier no longer resolves. Operands: k: invocation, die * 128 + record. -/
  | waitStep (t k : Nat)
  /-- SIGNAL (R313). A SIGNAL message addressed to this switch is checked at the lead engine and forwarded
  to the counter's engine, or discarded. Operands: die: Caldera die 0 to 7; id: the packet. -/
  | signal (t die id : Nat)
  /-- SIGNAL_APPLY (R301). A signal reaches its counter's engine and increments the counter, saturating with
  COUNTER_OVF, and satisfies listed waiters. Operands: c: counter, engine * 48 + index. -/
  | signalApply (t c : Nat)
  /-- WAIT_TIMER_EXPIRY (R310). A wait's timer expires; the wait is withdrawn and the invocation aborts with
  WAIT_TIMEOUT. Operands: k: invocation, die * 128 + record. -/
  | waitTimerExpiry (t k : Nat)
  /-- COUNTER_CLEAR (R322). An owner write of CA_CTR_CLR clears counters' values and overflow bits and re-
  tests binding. Operands: m: master; e: physical engine; mask: 48 bits. -/
  | counterClear (t m e mask : Nat)
  /-- CTR_XLAT_WRITE (R306). An owner write of PK_CTR_XLAT[s, v] is applied, or dropped under R306.
  Operands: m: master; slice; v: virtual counter; w: 16 bits written. -/
  | ctrXlatWrite (t m slice v w : Nat)
  /-- FENCE_SIGNAL_ARRIVAL (R315). A SIGNAL for an endpoint-facing port is passed, passed with fence_broken,
  or held on its fence entry. Operands: tile: 0 to 15. -/
  | fenceSignalArrival (t tile : Nat)
  /-- FENCE_TIMEOUT (R316). A held signal is released with fence_broken after timeout_us, a port exit from
  ACTIVE or removal of its vc. Operands: p: port (its first lane, 0 to 511). -/
  | fenceTimeout (t p : Nat)
  /-- FENCE_EVICT (R317). A fence entry with no signal and an unchanged count for 10 × timeout_us is freed
  and counted in evicted. Operands: p: port; src: source endpoint; vc: virtual channel. -/
  | fenceEvict (t p src vc : Nat)
  /-- FTC_SYNC_EDGE (R329). A rising edge of FTC_SYNC on a root loads load_value, is ignored, or is steered
  out by rate correction. -/
  | ftcSyncEdge (t : Nat)
  /-- SOURCE_REEVALUATION (R330). Every 1 ms the Driant re-evaluates eligible time source ports and may
  change its source. -/
  | sourceReevaluation (t : Nat)
  /-- HOLDOVER_EXPIRY (R331). After holdover_ms in HOLDOVER the FTC state goes to FREE. -/
  | holdoverExpiry (t : Nat)
  /-- FTC_COPY_COMPARE (R326). Every 1 ms each die's FTC copy is compared with TD's. Operands: d: die
  number; off: offset in 1/256 ns. -/
  | ftcCopyCompare (t d : Nat) (off : Int)
  /-- FTC_NOW_READ (R343). A read of PK_FTC_NOW low word latches the high word. Operands: m: master. -/
  | ftcNowRead (t m : Nat)
  /-- PK_DET_COMMIT (R340). A write of PK_DET_COMMIT applies det_strict to covered slices. Operands: m:
  master. -/
  | pkDetCommit (t m : Nat)
  /-- ADAPTIVE_REPORT (R339). An adaptive choice on a collective packet reaches the lead engine and is added
  to the invocation or to PK_NDET_SLICE. -/
  | adaptiveReport (t : Nat)
  /-- DOORBELL_SNOOP (R359). A host store invalidates a doorbell line, and the Driant reads it again with
  RdShared within 100 ns. Operands: k: the snoop and its line (R350). -/
  | doorbellSnoop (t : Nat) (k : Snoop)
  /-- DOORBELL_LINE_READ (R359). A doorbell line read returns and each ring whose word changed is woken.
  Operands: line: doorbell line; words: its 8 words. -/
  | doorbellLineRead (t line : Nat) (words : List Nat)
  /-- DOORBELL_POLL (R351). With CXL.cache disabled, every db_poll_us the Driant reads each enabled ring's
  doorbell line by CXL.io. -/
  | doorbellPoll (t : Nat)
  /-- DESCRIPTOR_FETCH (R360). A woken submission ring's descriptors are read, up to 16 slots, after
  reserving completion slots. -/
  | descriptorFetch (t : Nat)
  /-- DESCRIPTOR_READ_DONE (R360). A descriptor read completes and the descriptors are handed to execution,
  or a failed read stops the ring with HOST_READ_ERR. Operands: r: ring; good: no read error; bytes: what
  was read. -/
  | descriptorReadDone (t r : Nat) (good : Bool) (bytes : List Byte)
  /-- TAIL_CONFIRM (R354). The read-back of a tail word completes, confirming the records it covers.
  Operands: r: ring; tail: the word read back. -/
  | tailConfirm (t r tail : Nat)
  /-- MSIX_COALESCE_TIMEOUT (R370). coalesce_us passes since the first unsignalled record and the ring's
  MSI-X vector is sent. Operands: r: ring 0 to 16,383. -/
  | msixCoalesceTimeout (t r : Nat)
  /-- PORT_CTL_RESET (R366). PORT_CTL op RESET applies a port reset to a port. -/
  | portCtlReset (t : Nat)
  /-- PORT_CTL_WIRE (R366). PORT_CTL op WIRE writes a wiring entry and commits LN_COMMIT. -/
  | portCtlWire (t : Nat)
  /-- PORT_SET (R366). PORT_CTL op PORT_SET writes a PT_PORT_SH image and commits PT_COMMIT. Operands: host:
  the bytes the host returns for the address the body names. -/
  | portSet (t : Nat) (host : List Byte)
  /-- PORT_CTL_WIDTH (R366). PORT_CTL op WIDTH stages a width map and applies a port-group reset. -/
  | portCtlWidth (t : Nat)
  /-- SHAPER_SET (R366). A descriptor writes a flow queue, port scheduler or calendar image and commits
  PT_COMMIT. Operands: host: the bytes the host returns for the address the body names. -/
  | shaperSet (t : Nat) (host : List Byte)
  /-- WIRING_ACCEPT (R79). A descriptor writes the partner's observed serial and port into the wiring entry
  in EXPECT mode and commits. -/
  | wiringAccept (t : Nat)
  /-- KEY_INSTALL (R463). A descriptor unwraps a secured blob and installs a link, slice or management key,
  or is refused with KEY_REFUSED. Operands: host: the bytes the host returns for the address the body names. -/
  | keyInstall (t : Nat) (host : List Byte)
  /-- TELEM_SNAP (R366). A descriptor copies records from a tile's telemetry history share to host memory. Operands:
  flaw: what the reads find. -/
  | telemSnap (t : Nat) (flaw : Flaw := .none)
  /-- ATTEST (R459). A descriptor carries one SPDM request and returns its response. Operands: host: the
  request; badA, badB: the LMS write to that copy fails. -/
  | attest (t : Nat) (host : List Byte) (badA badB : Bool)
  /-- SPDM_HEARTBEAT_EXPIRY (R459). An SPDM session's heartbeat expires and the session ends. Operands: id:
  session. -/
  | spdmHeartbeatExpiry (t id : Nat)
  /-- OWNER_HANDOVER (R379). A descriptor names a successor owner, or cancels or is refused. -/
  | ownerHandover (t : Nat)
  /-- NOP (R365). A NOP descriptor completes when it starts. -/
  | nop (t : Nat)
  /-- DEFINE (R425). PARITY_GROUP op DEFINE defines a parity group from its member table. Operands: host:
  the bytes the host returns for the address the body names. -/
  | define (t : Nat) (host : List Byte)
  /-- OPEN_EPOCH (R425). PARITY_GROUP op OPEN_EPOCH takes a new epoch sequence, records the live list and
  starts allocating and clearing the region. -/
  | openEpoch (t : Nat)
  /-- EPOCH_OPEN_DONE (R425). The directory entries of the new region are written and the epoch becomes
  FOLDING, completing the descriptor. -/
  | epochOpenDone (t : Nat)
  /-- CLOSE_EPOCH (R425). PARITY_GROUP op CLOSE_EPOCH ends folding, making the epoch COMPLETE or INCOMPLETE
  and posting FOLD_DONE. -/
  | closeEpoch (t : Nat)
  /-- RELEASE (R425). PARITY_GROUP op RELEASE frees both regions and the group definition. -/
  | release (t : Nat)
  /-- REBUILD (R431). A REBUILD descriptor declares the member failed and takes a rebuild slot, restarts a
  fill or is refused. -/
  | rebuild (t : Nat)
  /-- FOLD_RECEIVED (R288). A FOLD packet passing its checks is XORed into its parity block and the
  directory entry updated. Operands: die: Caldera die 0 to 7; id: the packet; flaw: what the reads find. -/
  | foldReceived (t die id : Nat) (flaw : Flaw := .none)
  /-- INTERVAL_BUCKET_EXPIRY (R430). A failure-count bucket expires and the interval is recomputed. -/
  | intervalBucketExpiry (t : Nat)
  /-- MEMBER_FAILED (R429). A member's port has been out of ACTIVE for fail_hold_ms, so the member is
  declared failed and an automatic rebuild may start. Operands: g: parity group, 0xFF for a spare; m: member
  or spare index. -/
  | memberFailed (t g m : Nat)
  /-- AUTO_REBUILD_START (R431). A waiting automatic rebuild starts once a slot and a free spare exist. -/
  | autoRebuildStart (t : Nat)
  /-- REBUILD_WINDOW_START (R432). Home dies load and check the window's accumulators and FEED_REQ is sent
  to each surviving member. Operands: k: rebuild slot 0 to 3; flaws: what the read of each block of the window finds. -/
  | rebuildWindowStart (t k : Nat) (flaws : List Flaw := [])
  /-- FEED_RECEIVED (R290). A FEED block is XORed into its accumulator, and a finished accumulator is sent
  as REBUILT to the spare. Operands: die: Caldera die 0 to 7; id: the packet; flaw: what the reads find. -/
  | feedReceived (t die id : Nat) (flaw : Flaw := .none)
  /-- FEED_TIMEOUT (R432). No FEED counts for feed_ms while blocks remain, ending the rebuild with
  FEED_TIMEOUT. Operands: k: rebuild slot 0 to 3. -/
  | feedTimeout (t k : Nat)
  /-- LEDGER_HEARTBEAT (R437). Every hb_ms a heartbeat ledger entry is written and sent to the buddy. -/
  | ledgerHeartbeat (t : Nat)
  /-- LEDGER (R439). A LEDGER packet from mirror_src_ep is stored in the mirror and clears buddy_silent.
  Operands: die: Caldera die 0 to 7; id: the packet. -/
  | ledger (t die id : Nat)
  /-- BUDDY_SILENT (R439). No LEDGER arrives for 3 × hb_ms, so the mirror freezes and MEMBER_FAILED is
  posted. -/
  | buddySilent (t : Nat)
  /-- RING_ENABLE (R358). A write of HA_RING.enable = 1 reads the doorbell word and initialises the ring's
  head or tail, or sets err. Operands: m: master; r: ring; word: its doorbell word. -/
  | ringEnable (t m r word : Nat)
  /-- RING_DISABLE (R358). A write of enable = 0 stops fetching on a submission ring. Operands: m: master;
  r: ring. -/
  | ringDisable (t m r : Nat)
  /-- FUNCTION_LEVEL_RESET (R352). A function level reset disables every ring and clears the MSI-X table. -/
  | functionLevelReset (t : Nat)
  /-- SWITCH (R355). The owner's write of HA_CTL.switch moves the host attach between T0 and T8. Operands:
  m: master. -/
  | switch (t m : Nat)
  /-- FAILOVER (R355). H.A not retrained in 100 µs, or T0 lost, makes the T8 unit active and abandons reads
  in flight. -/
  | failover (t : Nat)
  /-- FAILOVER_REPLAY (R355). When H.B carries CXL the unit rewrites unconfirmed records, rereads doorbells
  and sends FAILOVER on vector 0. -/
  | failoverReplay (t : Nat)
  /-- OWNER_CLAIM (R377). A write of PK_OWN_CLAIM.claim enters or opens an election, renews or reclaims, or
  is refused. Operands: m: master. -/
  | ownerClaim (t m : Nat)
  /-- ELECTION_WINDOW_END (R377). The 10 ms election window ends and the highest-priority claimant becomes
  owner. -/
  | electionWindowEnd (t : Nat)
  /-- LEASE_RENEW (R378). The owner's write of PK_OWN_LEASE.renew restarts the 1,000 ms lease. Operands: m:
  master. -/
  | leaseRenew (t m : Nat)
  /-- LEASE_LAPSED (R378). The lease reaches 0; the Driant has no owner, LEASE_LAPSED goes out on vector 0
  and pending shadow writes are discarded. -/
  | leaseLapsed (t : Nat)
  /-- HANDOVER_WRITE (R379). An owner write of PK_OWN_HANDOVER names, replaces or cancels a successor.
  Operands: m: master; x: successor. -/
  | handoverWrite (t m x : Nat)
  /-- HANDOVER_EXPIRY (R379). A successor has not claimed within 1,000 ms and the pending handover ends. -/
  | handoverExpiry (t : Nat)
  /-- MAILBOX_GO (R375). A write of PK_MBOX.go executes the mailbox descriptor, or is dropped while busy.
  Operands: m: master. -/
  | mailboxGo (t m : Nat)
  /-- MGMT_READ (R374). A verified READ management packet reads register words and answers with a RESPONSE. -/
  | mgmtRead (t : Nat)
  /-- MGMT_WRITE (R374). A verified WRITE management packet writes register words and answers with a
  RESPONSE. -/
  | mgmtWrite (t : Nat)
  /-- MGMT_DESC (R374). A verified DESC management packet executes a descriptor and returns its completion
  record. -/
  | mgmtDesc (t : Nat)
  /-- REGISTER_WRITE (R474). A write to a register without its own behaviour is applied, dropped for
  ownership, range or reachability, and counted. Operands: m: HOST or BMC; off: from HOST the BAR0 offset, and from
  0x4000_0000 on an offset in BAR2/3 or configuration space; from BMC the offset word of an I3C private write, bit 31
  of which is set for a write (R373); bytes: what is written, or none for a read; x: the doorbell word an enable reads; rd:
  the bytes that HOST reads; be: HOST's byte enables are all set. -/
  | registerWrite (t m off : Nat) (bytes : List Byte) (x : Nat) (rd : Nat := 0) (be : Bool := true)
  /-- STICKY_CLEAR (R403). An owner W1C write to VT_LOCAL sticky bits clears them and stops their timers.
  Operands: m: master; d: die number; mask: 64 bits. -/
  | stickyClear (t m d mask : Nat)
  /-- VENT_ENABLE_WRITE (R404). A write of VT_LOCAL enables starts or stops the timers of sources whose bits
  are set. Operands: m: master; d: die number; hi: enable_hi; v: value written. -/
  | ventEnableWrite (t m d : Nat) (hi : Bool) (v : Nat)
  /-- VENT_INJECT (R414). A write of VT_LOCAL.inject sets sticky bits as if raised. Operands: m: master; d:
  die number; mask: 64 bits. -/
  | ventInject (t m d mask : Nat)
  /-- VENT_TIMER_EXPIRY (R405). An enabled source's timer reaches window_us, starting isolation of its unit
  or the safe state. Operands: d: die number; src: source. -/
  | ventTimerExpiry (t d src : Nat)
  /-- ISOLATION_ACK (R405). The unit acknowledges its isolation and VENT ISOLATED is posted. Operands: d:
  die number; idx: R417 unit index. -/
  | isolationAck (t d idx : Nat)
  /-- ISOLATION_TIMEOUT (R405). The unit does not acknowledge within iso_us and the package enters the safe
  state. Operands: d: die number; idx: R417 unit index. -/
  | isolationTimeout (t d idx : Nat)
  /-- VT_SELF (R407). A mismatch between the true and complemented Vent copies raises VT_SELF and enters the
  safe state at once. Operands: d: die number; bit: the bit of one copy that changes, in the order of Die.copyDiff. -/
  | vtSelf (t d : Nat) (bit : Nat := 0)
  /-- AGG_LOST (R402). TD sees no heartbeat from a die for 100 µs and raises AGG_LOST. Operands: d: die
  number. -/
  | aggLost (t d : Nat)
  /-- ENTER_SAFE (R409). The owner's write of VT_CTL.enter_safe enters the safe state. Operands: m: master. -/
  | enterSafe (t m : Nat)
  /-- SAFE_RECORD_WRITE (R412). The 64-byte safe record is appended to the image-store log and
  record_written is set. Operands: badA, badB: the copy does not read back. -/
  | safeRecordWrite (t : Nat) (badA badB : Bool := false)
  /-- SKIM_READ (R399). The skim pass reads a row in a free cycle, corrects a single symbol or reports an
  uncorrectable row, and checks parity blocks. Operands: d: die number; where_: memory; row: of it; flaw: what
  the read finds; hit: traffic writes the row in the cycle of the write-back; edc: tries of a read of GDDR7 whose EDC or
  parity fails. -/
  | skimRead (t d where_ row : Nat) (flaw : Flaw) (hit : Bool) (edc : Nat)
  /-- IS_UPD_WRITE (R469). TR_IS_UPD op WRITE programs a chunk of an image-store region from staging.
  Operands: m: master; b: copy B; region, off, len: R471. -/
  | isUpdWrite (t m : Nat) (b : Bool) (region off len : Nat)
  /-- SEAL (R469). TR_IS_UPD op SEAL verifies a whole region copy and erases it on failure. Operands: m:
  master; b: copy B; region: R471. -/
  | seal (t m : Nat) (b : Bool) (region : Nat)
  /-- ERASE (R469). TR_IS_UPD op ERASE erases a region of one copy. Operands: m: master; b: copy B; region:
  R471. -/
  | erase (t m : Nat) (b : Bool) (region : Nat)
  /-- IS_UPD_COMPLETE (R471). An image-store operation finishes and its result is posted. Operands: good:
  the read-back succeeds; maxErase: erase count the die reports. -/
  | isUpdComplete (t : Nat) (good : Bool) (maxErase : Nat)
  /-- DEBUG_APPLY (R470). TR_DEBUG.apply checks a debug token and, if accepted, clears keys and opens the
  scope. Operands: m: master; badA, badB: an erased copy of the operator key record does not read back. -/
  | debugApply (t m : Nat) (badA badB : Bool := false)
  /-- CONTROL_SLOT_SEND (R71). At each control-slot position of a lane's transmit frame the Driant sends an
  ordered set: FRAME with its timestamps, IDLE_OS, TS1, TS2, IDENT, QUIESCE or LINK_DOWN, carrying ack_seq,
  nak and the credit snapshot, and a port that has sent LINK_DOWN for one frame then returns to DETECT.
  Operands: l: lane; frac: 1/65,536 ns beyond t. -/
  | controlSlotSend (t l frac : Nat)
  /-- HOST_MODULE_DOWN (R355). H.A (or the active host module) leaves its active state, which starts the 100
  µs retrain window that leads to failover, and a_trained clears. Operands: b: module B. -/
  | hostModuleDown (t : Nat) (b : Bool)
  /-- VENT_HEARTBEAT (R402). Every 16 µs each die's Vent collector pulses VT_ALERT_N low for 4 VT_OSC
  cycles, which restarts TD's 100 µs watch for that die. Operands: d: die number. -/
  | ventHeartbeat (t d : Nat)
  /-- VT_OSC_CALIBRATION (R402). Every 1 ms each Vent collector calibrates its VT_OSC count against the
  die's MG_CSR clock, or keeps its last calibration while that clock is absent. Operands: d: die number;
  count: cycles for each ms, none while MG_CSR is absent. -/
  | vtOscCalibration (t d : Nat) (count : Option Nat)
  deriving DecidableEq, Repr

end Sys2Proof
end

