-- ==== Sys2Proof/Decode.lean ====
section
/-! DEFINITION. Words and commands. The table of operations gives its rows no bits, so that no word spells a
command. -/

namespace Sys2Proof

/-- The command that a word of nbits bits spells by the table's bits: none, since no row has any. -/
def decodeTableWord (nbits w : Nat) : Option Instr :=
  match nbits, w with
  | _, _ => none

end Sys2Proof
end

