-- ==== Sys2Proof/Config.lean ====
section
/-! DEFINITION. What an implementation fixes and the spec leaves open: free values and the functions
whose results the spec takes from other standards or gives no number for. Each is opaque: nothing can
evaluate it, so a claim holds whatever it is (DESIGN CHOICE: log entries 4, 112, 128, 196, 234, 235, 237 and 250). -/

namespace Sys2Proof

/-- The free values of DESIGN CHOICE, log entry 4: the n-th value the spec leaves open in a run. -/
opaque Config.freeWord : Nat → BitVec 64

/-- Byte k of a segment to which EXPAND contributions were reduced, which the spec does not state: group, STEP and
segment, the contributions by child, and k (DESIGN CHOICE, log entry 196). -/
opaque Config.openByte : List Nat → Tab (List Byte) → Nat → Byte

/-- What configuration space and the CXL component registers hold beside what the spec fixes, by offset (12 R352;
DESIGN CHOICE, log entry 237). -/
opaque Config.cfgWord : Nat → BitVec 32

/-- FREE VALUE. Where the CXL capability of the device cache stands in configuration space (12 R351).
PRESUMED: log entry 272. -/
opaque Config.cxlDvsec : Nat

/-- What a fence count holds of a sum outside its 41 signed bits (10 R314; DESIGN CHOICE, log entry 235). -/
opaque Config.fenceOver : Int → BitVec 41

/-- Rows of 64 bytes that a tile's route, set and slice tables take, and that a lane die's PCS and replay buffers take
(13 R392, R399; DESIGN CHOICE, log entry 261). -/
opaque Config.tableRows : Nat
opaque Config.pcsRows : Nat

/-- What the memory controllers use where the key of a row has been cleared (DESIGN CHOICE, log entry 234). -/
opaque Config.clearedKey : BitVec 512

/-- The randomizer of an LMS signature: level, 0 the top tree, and leaf number (15 R451, R458; DESIGN CHOICE, log
entry 250). -/
opaque Config.hssRandom : Nat → Nat → List Byte

/-- The digests that the boot ROM holds of the four Gulvohan keys: 0 image ECDSA, 1 image LMS/HSS,
2 manufacturing ECDSA, 3 manufacturing LMS/HSS (15 R450). -/
opaque Config.romDigest : Nat → List Byte

/-- The k-th public key that a boot header holds, in the order of Config.romDigest (15 R450, R452). -/
opaque Config.bootKey : List Byte → Nat → List Byte

/-- The digest of the TD boot ROM, measurement index 1 (15 R461). -/
opaque Config.romImageDigest : List Byte

/-- The public keys of an operator key record: 0 ECDSA, 1 LMS/HSS (15 R455). -/
opaque Config.opKey : List Byte → Nat → List Byte

/-- The seq of an operator key record (15 R455). -/
opaque Config.opSeq : List Byte → Nat

/-- The cfg_min_svn of an operator key record (15 R455). -/
opaque Config.opMinSvn : List Byte → Nat

/-- The signed bytes, the ECDSA signature and the LMS/HSS signature that an operator key record holds (15 R451,
R455). -/
opaque Config.opParts : List Byte → List Byte × List Byte × List Byte

/-- The 1,024 bits that a PUF readout and its helper data lead to (15 R457; DESIGN CHOICE, log entry 273). -/
opaque Config.pufDecode : List Byte → List Byte → List Byte

/-- The application data of a secured message, or none where its authentication fails: session key, record sequence
number, message (15 R463). -/
opaque Config.unwrap : BitVec 256 → Nat → List Byte → Option (List Byte)

/-- A secured message: session identifier, key, record sequence number, application data (15 R459). -/
opaque Config.wrap : Nat → BitVec 256 → Nat → List Byte → List Byte

/-- The length that a secured message states (15 R463). -/
opaque Config.blobLen : List Byte → Nat

/-- What an SPDM request asks of the Driant (15 R459, R460). -/
inductive SpdmKind where
  /-- an ERROR response: its code and data -/
  | error (code data : Nat)
  /-- answered with no effect on what the Driant keeps -/
  | plain
  /-- CHALLENGE or a signed GET_MEASUREMENTS: the response signs a digest -/
  | signs
  /-- KEY_EXCHANGE: its response signs a digest and a session starts -/
  | keyExchange
  /-- FINISH: the session is open -/
  | finish (id : Nat)
  /-- HEARTBEAT in a session -/
  | heartbeat (id : Nat)
  /-- KEY_UPDATE in a session: of the request direction, of the response direction too, or of neither -/
  | keyUpdate (id : Nat) (req rsp : Bool)
  /-- END_SESSION -/
  | endSession (id : Nat)
  /-- GET_HSS_SIG over a digest -/
  | hssSig (digest : List Byte)
  deriving DecidableEq, Repr, Inhabited

/-- The ERROR code and data with which SPDM 1.3 itself turns a request away, out of its order or malformed: the messages
of the connection so far, the session it came in, the request (15 R459; DESIGN CHOICE, log entry 128). -/
opaque Config.spdmError : List (List Byte) → Option Nat → List Byte → Option (Nat × Nat)

/-- The digest that the response to a request signs: the messages of the connection so far, the request and a free value
for what the Driant draws (15 R460; DESIGN CHOICE, log entry 128). -/
opaque Config.spdmDigest : List (List Byte) → List Byte → BitVec 64 → List Byte

/-- The handshake keys of the session that a KEY_EXCHANGE starts, request and response direction, and the heartbeat
period that its response names, in seconds (15 R459; DESIGN CHOICE, log entry 128). -/
opaque Config.spdmSession : List (List Byte) → List Byte → BitVec 64 → BitVec 256 × BitVec 256 × Nat

/-- The key that follows a session's key: at its FINISH (0) or at a KEY_UPDATE (1) (15 R459; DESIGN CHOICE, log entry
128). -/
opaque Config.spdmNextKey : BitVec 256 → List (List Byte) → Nat → BitVec 256

/-- What follows the first two bytes of a response that this spec does not lay down: the package's ECDSA private key and
the package identity record, the messages of the connection so far, the request, what the Driant draws, and the
measurement blocks (15 R457, R459, R461; DESIGN CHOICE, log entry 128). -/
opaque Config.spdmBody : Nat × List Byte → List (List Byte) → List Byte → BitVec 64 → Tab (List Byte) → List Byte

/-- What a body of the start-up configuration image holds (15 R452): the values that the chapters say it
loads, without the layout in which it holds them, which the spec does not give. -/
structure StartImage where
  /-- by lane die: number, start_map, enable, marked in use (01 R25, 03 R95, R96) -/
  lanes : List (Nat × BitVec 16 × BitVec 16 × Bool)
  /-- words of LN_WIRE_SH: lane die, offset within the group, value (03 R100) -/
  wires : List (Nat × Nat × BitVec 32)
  /-- initial credits: port, pair, count (03 R83) -/
  credits : List (Nat × Nat × Nat)
  /-- self_ep (04 R131) -/
  selfEp : BitVec 16
  /-- words of the tiles' shadowed groups: tile, offset, value (02 R483) -/
  words : List (Nat × Nat × BitVec 32)
  /-- pool counts n_0 to n_3 by tile (05 R155) -/
  pools : List (Nat × List Nat)
  /-- initial route regions (04 R134): slice descriptors of 16 bytes, sets (owning slice and members),
  route entries -/
  slices : List (Nat × List Byte)
  sets : List (Nat × BitVec 8 × BitVec 512)
  routes : List (Nat × BitVec 32)
  /-- PK_ENGINE_MAP: logical engine, physical engine, valid (09 R260) -/
  engines : List (Nat × BitVec 6 × Bool)
  /-- device bytes of parity epochs A and B, reservoir and history (09 R283) -/
  partitions : Nat × Nat × Nat × Nat
  /-- counter mode DIRECT (10 R304) -/
  direct : Bool
  /-- words of PK_REC_CTL: offset, value (14 R444) -/
  recCtl : List (Nat × BitVec 32)
  deriving DecidableEq, Repr, Inhabited

/-- The values that a body of the start-up configuration image holds. -/
opaque Config.startImage : List Byte → StartImage

/-- The gains of the time loop that the spec leaves open (11 R331): the rate correction, in 2^-32 ns
for each ns, from the previous integral part and theta in 2^-32 ns; and the new integral part. -/
opaque Config.loopRate : Int → Int → Int

opaque Config.loopIntegral : Int → Int → Int

end Sys2Proof
end

