-- ==== Sys2Proof/Machine/Tab.lean ====
section
/-! DEFINITION. Reading and writing the sparse tables and byte memories of Sys2Proof.Word in their one
canonical form: indices strictly rising, no entry equal to what an unlisted index holds. -/

namespace Sys2Proof

/-- The value at index k; d where the table lists none. -/
def tget {α : Type} (d : α) : Tab α → Nat → α
  | [], _ => d
  | (j, v) :: t, k => if j = k then v else tget d t k

/-- The table without index k. -/
def tdel {α : Type} : Tab α → Nat → Tab α
  | [], _ => []
  | (j, v) :: t, k => if j = k then tdel t k else (j, v) :: tdel t k

/-- The table with v at index k, in rising order. -/
def tput {α : Type} : Tab α → Nat → α → Tab α
  | [], k, v => [(k, v)]
  | (j, w) :: t, k, v =>
    if k < j then (k, v) :: (j, w) :: t
    else if k = j then (k, v) :: t
    else (j, w) :: tput t k v

/-- Write v at index k; d is what an unlisted index holds. -/
def tset {α : Type} [DecidableEq α] (d : α) (t : Tab α) (k : Nat) (v : α) : Tab α :=
  if v = d then tdel t k else tput t k v

/-- Change the value at index k. -/
def tmod {α : Type} [DecidableEq α] (d : α) (t : Tab α) (k : Nat) (f : α → α) : Tab α :=
  tset d t k (f (tget d t k))

/-- Change the values at several indices, in order. -/
def tupd {α : Type} [DecidableEq α] (d : α) (t : Tab α) (ks : List Nat) (f : Nat → α → α) : Tab α :=
  ks.foldl (fun a k => tmod d a k (f k)) t

/-- Change every listed value; f must keep d at an unlisted index. -/
def tmap {α : Type} [DecidableEq α] (d : α) (f : Nat → α → α) : Tab α → Tab α :=
  fun t => tupd d t (t.map Prod.fst) f

/-- The canonical form: every index above the one before it, and no entry equal to d. -/
def tabWfFrom {α : Type} [DecidableEq α] (d : α) : Nat → Tab α → Bool
  | _, [] => true
  | lo, (j, v) :: t => decide (lo ≤ j) && decide (v ≠ d) && tabWfFrom d (j + 1) t

/-- The canonical form of a whole table. -/
def tabWf {α : Type} [DecidableEq α] (d : α) (t : Tab α) : Bool := tabWfFrom d 0 t

/-- The canonical form of a byte memory whose unlisted bytes read as d. -/
def Memory.wf (d : Byte) (m : Mem) : Bool := tabWf d m

/-- n bytes from address a. -/
def memRead (d : Byte) (m : Mem) (a : Nat) : Nat → List Byte
  | 0 => []
  | n + 1 => tget d m a :: memRead d m (a + 1) n

/-- Write bytes from address a on, each byte by one table write. -/
def memWrite (d : Byte) : Mem → Nat → List Byte → Mem
  | m, _, [] => m
  | m, a, b :: bs => memWrite d (tset d m a b) (a + 1) bs

end Sys2Proof
end

