-- ==== Sys2Proof/Machine/Bits.lean ====
section
/-! DEFINITION. Byte order (R6), fields of words and of byte strings, saturating counters, and the two
cyclic redundancy checks (R67, R104). -/

namespace Sys2Proof

/-- A byte string as a number, the first byte least significant (R6). -/
def leNat : List Byte → Nat
  | [] => 0
  | b :: bs => b.toNat + 256 * leNat bs

/-- n bytes of a number, least significant first (R6). -/
def leBytes : Nat → Nat → List Byte
  | 0, _ => []
  | n + 1, v => BitVec.ofNat 8 v :: leBytes n (v / 256)

/-- n bytes of a number, most significant first. -/
def beBytes (n v : Nat) : List Byte := (leBytes n v).reverse

/-- n zero bytes. -/
def zeros (n : Nat) : List Byte := List.replicate n 0

/-- Byte i of a string; 0 beyond its end. -/
def byteAt (bs : List Byte) (i : Nat) : Byte := bs.getD i 0

/-- n bytes from offset i, zero beyond the end. -/
def sliceOf (bs : List Byte) (i n : Nat) : List Byte :=
  let p := (bs.drop i).take n
  p ++ zeros (n - p.length)

/-- The number in n bytes at offset i (R6). -/
def fieldOf (bs : List Byte) (i n : Nat) : Nat := leNat (sliceOf bs i n)

/-- Bits lo to lo + w - 1 of a number. -/
def bitsOf (v lo w : Nat) : Nat := v / 2 ^ lo % 2 ^ w

/-- Bit i of a number. -/
def bitOf (v i : Nat) : Bool := v / 2 ^ i % 2 == 1

/-- One bit as a number. -/
def b2n (b : Bool) : Nat := if b then 1 else 0

/-- A string cut or padded with zeros to n bytes. -/
def padTo (n : Nat) (bs : List Byte) : List Byte := sliceOf bs 0 n

/-- Split a string into pieces of n bytes, at most k of them. -/
def chunks (n : Nat) : Nat → List Byte → List (List Byte)
  | 0, _ => []
  | k + 1, bs => if bs.isEmpty then [] else bs.take n :: chunks n k (bs.drop n)

/-- Overwrite part of a string at offset i. -/
def patch (bs : List Byte) (i : Nat) (p : List Byte) : List Byte :=
  bs.take i ++ p ++ bs.drop (i + p.length)

/-- Add to a counter that saturates at its largest value (R101 and the counter rules). -/
def satAdd {w : Nat} (c : BitVec w) (n : Nat) : BitVec w :=
  BitVec.ofNat w (min (2 ^ w - 1) (c.toNat + n))

/-- Count one, saturating. -/
def satInc {w : Nat} (c : BitVec w) : BitVec w := satAdd c 1

/-- One bit set or cleared in a bit vector. -/
def setBit {w : Nat} (v : BitVec w) (i : Nat) (b : Bool) : BitVec w :=
  if b then v ||| BitVec.ofNat w (2 ^ i) else v &&& ~~~ BitVec.ofNat w (2 ^ i)

/-- The indices of the set bits below n, rising. -/
def bitsSet (v n : Nat) : List Nat := (List.range n).filter (fun i => bitOf v i)

/-- A number clamped into lo to hi (the nearer limit). -/
def clamp (lo hi v : Nat) : Nat := max lo (min hi v)

/-- The signed value of a w-bit field. -/
def signedOf (w v : Nat) : Int := if v < 2 ^ (w - 1) then (v : Int) else (v : Int) - 2 ^ w

/-- The w-bit field of a signed value. -/
def fieldOfInt (w : Nat) (v : Int) : Nat := (v % (2 ^ w : Int)).toNat

/-- XOR of two numbers. -/
def xorNat (a b : Nat) : Nat := a ^^^ b

/-- XOR of two byte strings, over the length of the first. -/
def xorBytes : List Byte → List Byte → List Byte
  | [], _ => []
  | a :: as, [] => a :: as
  | a :: as, b :: bs => (a ^^^ b) :: xorBytes as bs

/-- The data bits of a byte, most significant first. -/
def bitsMsb (b : Byte) : List Bool := (List.range 8).map (fun i => b.getLsbD (7 - i))

/-- One bit of CRC-16 (R104): polynomial 0x1021, not reflected. -/
def crc16Bit (c : BitVec 16) (b : Bool) : BitVec 16 :=
  let c' := c <<< 1
  if xor c.msb b then c' ^^^ 0x1021 else c'

/-- CRC-16 of a byte string (R104): initial value 0xFFFF, no final XOR. -/
def crc16 (bs : List Byte) : BitVec 16 :=
  bs.foldl (fun c b => (bitsMsb b).foldl crc16Bit c) 0xFFFF

/-- One bit of CRC-32C (R67): polynomial 0x1EDC_6F41 reflected. -/
def crc32Bit (c : BitVec 32) : BitVec 32 :=
  if c.getLsbD 0 then (c >>> 1) ^^^ 0x82F63B78 else c >>> 1

/-- One byte of CRC-32C. -/
def crc32Byte (c : BitVec 32) (b : Byte) : BitVec 32 :=
  (List.range 8).foldl (fun c _ => crc32Bit c) (c ^^^ b.setWidth 32)

/-- CRC-32C of a byte string (R67): initial value and final XOR 0xFFFF_FFFF. -/
def crc32c (bs : List Byte) : BitVec 32 := bs.foldl crc32Byte 0xFFFFFFFF ^^^ 0xFFFFFFFF

end Sys2Proof
end

