-- ==== Sys2Proof/Machine/State.lean ====
section
/-! DEFINITION. The state of the Driant: every register, buffer, queue, counter, mode and line that the
spec gives the package, as plain data. Each field's docstring gives the spec file, the rule, the
width, the value at reset and what it holds. -/

namespace Sys2Proof.Machine

/-! ## Package: pins, power and Float (spec files 01 and 02) -/

/-- The lands and package-internal lines of R18, R24 and R26. -/
structure Pins where
  /-- 01 R24; 9 bits; reset all ones (PRESENT: input). PWR_OK[k], one for each rail group. -/
  pwrOk : BitVec 9 := 0x1FF
  /-- 01 R24; 1 bit; reset 1 (input). PKG_RST_N is high. -/
  pkgRstN : Bool := true
  /-- 01 R18; 1 bit; reset 1 (input). H_THERM_N is high. -/
  hThermN : Bool := true
  /-- 01 R26; 1 bit; reset 0. THERM_N is driven low. -/
  thermLow : Bool := false
  /-- 01 R26; 1 bit; reset 0. SAFE_N is driven low. -/
  safeLow : Bool := false
  /-- 02 R52; 1 bit; reset 1. H_RST_N is held low. -/
  hRstLow : Bool := true
  /-- 01 R20; time; reset none. When H_RST_N last rose. -/
  hRstRoseAt : Option Nat := none
  /-- 13 R402; 1 bit; reset 0. VT_SAFE is driven. -/
  vtSafe : Bool := false
  /-- 01 R24; 1 bit; reset 0 (PRESUMED, log entry 243: input, no pull named). TCK. No command of the table moves the IEEE 1149.1
  inputs. -/
  tck : Bool := false
  /-- 01 R24; 1 bit; reset 1 (pulled up internally). TMS. -/
  tms : Bool := true
  /-- 01 R24; 1 bit; reset 1 (pulled up internally). TDI. -/
  tdi : Bool := true
  /-- 01 R24; tri-state; reset none. TDO: none while not shifting. -/
  tdo : Option Bool := none
  /-- 01 R24; 1 bit; reset 0 (pulled down internally). TRST_N is high. -/
  trstN : Bool := false
  deriving DecidableEq, Repr

/-- One rail group's rise and fall buckets (R38), in milliamperes. -/
structure Bucket where
  /-- 02 R38; mA; reset 2,400 (full). Charge of the rise bucket. -/
  rise : Nat := 2400
  /-- 02 R38; mA; reset 2,400 (full). Charge of the fall bucket. -/
  fall : Nat := 2400
  /-- 02 R38; ns; reset 0. When the buckets were last refilled. -/
  at_ : Nat := 0
  deriving DecidableEq, Repr

/-- The changes Float charges (R39). -/
inductive FloatChange where
  | engine | admission | pacing | dieClock | lane
  deriving DecidableEq, Repr

/-- A change of current waiting on Float (R39, R40). -/
structure FloatReq where
  change : FloatChange
  /-- rise (true) or fall -/
  up : Bool
  /-- die number of the unit (R12) -/
  die : Nat
  /-- unit index inside the die -/
  unit : Nat
  /-- when it was raised, in ns -/
  raisedAt : Nat
  /-- steps still to take -/
  steps : Nat := 1
  /-- filed by a reset of the package: what it brings down shows in no register any more -/
  past : Bool := false
  deriving DecidableEq, Repr

/-- An engine start waiting under R42: the launch that asks for it and the physical engine. -/
structure StartReq where
  /-- launch count, the order of R42 -/
  launchAt : Nat
  /-- when it was raised, in ns -/
  raisedAt : Nat
  group : Nat
  step : Nat
  engine : Nat
  deriving DecidableEq, Repr

/-- Float, the load-step governor (R38 to R45, R478). -/
structure FloatState where
  /-- 02 R38; 9 groups; reset full. The buckets of rail group k (order of R24). -/
  buckets : Tab Bucket := []
  /-- 02 R40; list; reset empty. Changes waiting, in the order they were raised. -/
  waiting : List FloatReq := []
  /-- 02 R42; list; reset empty. Engine starts waiting, in the order of R42. -/
  starts : List StartReq := []
  /-- 02 R42; time; reset none. When the last engine start was granted. -/
  lastStart : Option Nat := none
  /-- 16 R478; 32 bits; reset 0. PK_FLOAT_STATUS.max_wait_ns. -/
  maxWait : W32 := 0
  /-- 16 R478; 32 bits; reset 0. PK_FLOAT_STATUS.engine_starts. -/
  engineStarts : Cnt := 0
  /-- 02 R37, R45; 1 bit; reset 0. Float has stopped all work. -/
  stopped : Bool := false
  /-- 02 R37; ns; reset none. When the power-fault ramp began. -/
  rampFrom : Option Nat := none
  deriving DecidableEq, Repr

/-! ## Bring-up and the owner's resets (spec file 02) -/

/-- TR_BOOT_STATUS.phase (R58). -/
inductive Phase where
  | rom | images | dies | config | memory | ready | safe | bootHalt
  deriving DecidableEq, Repr

/-- The rows of R56 passed so far. -/
inductive Row where
  | held | started | pllLocked | imagesOk | diesOut | recordsOk | configOk | memoryOk | readyOk
  deriving DecidableEq, Repr

/-- TR_BOOT_STATUS and the progress of bring-up (R56 to R58). -/
structure Boot where
  /-- 02 R58; 4 bits; reset 0x1 ROM. phase. -/
  phase : Phase := .rom
  /-- 02 R58; 4 bits; reset 0x0. cause. -/
  cause : BitVec 4 := 0
  /-- 02 R58; 1 bit; reset 0. image_b. -/
  imageB : Bool := false
  /-- 02 R58; 1 bit; reset 0. default_cfg. -/
  defaultCfg : Bool := false
  /-- 02 R58; 16 bits; reset 0. boot_ms. -/
  bootMs : BitVec 16 := 0
  /-- 02 R56; row; reset held. The last row of the bring-up table that has ended. -/
  row : Row := .held
  /-- 02 R56; ns; reset 0. Time zero of the bring-up. -/
  zeroAt : Nat := 0
  /-- 02 R48, R56; 1 bit; reset 0. TD_CORE runs from its PLL, otherwise from VT_OSC. -/
  tdPll : Bool := false
  /-- 02 R52; 1 bit; reset 0. The bring-up in progress kept GDDR7 in self-refresh (keep_mem). -/
  keepMem : Bool := false
  /-- 15 R452, R453; bytes; reset empty. Body of the start-up configuration image in use. -/
  config : List Byte := []
  /-- 15 R457; 1 bit; reset 0. TD firmware runs. -/
  fwRuns : Bool := false
  /-- 03 R78; 32 bits; reset 0. fw_build of the TD firmware image in use (also PK_IDENT, R476). -/
  fwBuild : W32 := 0
  deriving DecidableEq, Repr

/-- TR_RESET_CTL and TR_RESET_STATUS (R54, R55). -/
structure ResetCtl where
  /-- 02 R54; 4 bits; reset 0. kind. -/
  kind : BitVec 4 := 0
  /-- 02 R54; 1 bit; reset 0. keep_mem. -/
  keepMem : Bool := false
  /-- 02 R54; 1 bit; reset 0. keep_host. -/
  keepHost : Bool := false
  /-- 02 R54; 8 bits; reset 0. die. -/
  die : BitVec 8 := 0
  /-- 02 R54; 9 bits; reset 0. index. -/
  index : BitVec 9 := 0
  /-- 02 R54; 1 bit; reset 0. go. -/
  go : Bool := false
  /-- model; 1 bit; reset 0. The request in progress is the warm package reset whose bring-up runs. -/
  warm : Bool := false
  deriving DecidableEq, Repr

/-- TR_RESET_STATUS (R55): kept by every reset but package reset. -/
structure ResetStatus where
  /-- 02 R55; 4 bits; reset 0. result. -/
  result : BitVec 4 := 0
  /-- 02 R55; 1 bit; reset 0. dropped. -/
  dropped : Bool := false
  /-- 02 R55; 16 bits; reset 0. elapsed_us. -/
  elapsedUs : BitVec 16 := 0
  /-- 02 R55; ns; reset 0. When the request in progress started. -/
  startedAt : Nat := 0
  deriving DecidableEq, Repr

/-! ## Dies and Vent (spec files 01 and 13) -/

/-- The kinds of unit Vent isolates (R406, R417). -/
inductive UnitKind where
  | pool | engine | caldera | plane | tile | lane
  deriving DecidableEq, Repr

/-- A unit Vent can isolate: its kind, its die number and the pool or engine index. -/
structure VUnit where
  kind : UnitKind
  die : Nat
  idx : Nat
  deriving DecidableEq, Repr

/-- An isolation awaiting acknowledgement (R405). -/
structure Isolating where
  unit : VUnit
  srcDie : Nat
  src : Nat
  startedAt : Nat
  isoUs : Nat
  deriving DecidableEq, Repr

/-- A Vent timer that runs (R404): when it started and the window in force then. -/
structure VTimer where
  startedAt : Nat
  windowUs : Nat
  deriving DecidableEq, Repr

/-- What the package holds for one die number (R12): TR_DIE_STATUS (R32), VT_LOCAL (R414) and the
state of its collector (R402). -/
structure Die where
  /-- 02 R56, R475; 1 bit; reset 0. The die's reset is released. -/
  released : Bool := false
  /-- 02 R53; 1 bit; reset 0. An owner die reset of the die is in progress. -/
  inReset : Bool := false
  /-- 01 R17; 1 bit; reset 1. The die has a management path. -/
  path : Bool := true
  /-- 01 R32; 1 bit; reset 0. present. -/
  present : Bool := false
  /-- 01 R32; 1 bit; reset 0. rec_ok. -/
  recOk : Bool := false
  /-- 01 R32; 1 bit; reset 0. copy_b. -/
  copyB : Bool := false
  /-- 01 R32; 1 bit; reset 0. copies_differ. -/
  copiesDiffer : Bool := false
  /-- 01 R32; 1 bit; reset 0. puf_present. -/
  pufPresent : Bool := false
  /-- 01 R32; 1 bit; reset 0. puf_match. -/
  pufMatch : Bool := false
  /-- 01 R32; 1 bit; reset 0. temp_valid. -/
  tempValid : Bool := false
  /-- 01 R32; 12 bits; reset 0. temp, signed, 1/16 degree. -/
  temp : BitVec 12 := 0
  /-- 13 R414; 64 bits; reset 0. sticky. -/
  sticky : BitVec 64 := 0
  /-- 13 R414; 64 bits; reset R401. The owner's changes to the enables: enable = default XOR this. -/
  enableFlip : BitVec 64 := 0
  /-- 13 R404, R414; per source; reset none. Timers that run (timing_lo, timing_hi). -/
  timers : Tab (Option VTimer) := []
  /-- 13 R414; 1 bit; reset 0. die_isolated. -/
  isolated : Bool := false
  /-- 13 R414; 8 bits; reset 0. engines_isolated. -/
  engIso : BitVec 8 := 0
  /-- 13 R414; 4 bits; reset 0. pools_isolated. -/
  poolIso : BitVec 4 := 0
  /-- 13 R414; 32 bits; reset 0. sym_ce. -/
  symCe : Cnt := 0
  /-- 13 R414; 32 bits; reset 0. sym_ue. -/
  symUe : Cnt := 0
  /-- 13 R414; 32 bits; reset 0. residue_err. -/
  residueErr : Cnt := 0
  /-- 13 R414; 32 bits; reset 0. skim_passes. -/
  skimPasses : Cnt := 0
  /-- 13 R414; 32 bits; reset 0. aux0: gcrc_release or mem_edc_retries. -/
  aux0 : Cnt := 0
  /-- 13 R414; 32 bits; reset 0. aux1: route_confirm. -/
  aux1 : Cnt := 0
  /-- 13 R399; per patrol; reset (0, 0). The next row that each skim pass of the die reads: which of its memories, and
  the row of it. Pass 1 is that of GDDR7. -/
  skimRow : Tab (Nat × Nat) := []
  /-- 13 R402; ns; reset 0. When TD last saw the die's heartbeat. -/
  heartbeatAt : Nat := 0
  /-- 13 R402, R407; 1 bit; reset 0. The die's collector holds VT_ALERT_N low, to request the safe state. -/
  alertLow : Bool := false
  /-- 13 R402; 1 bit; reset 0. The VT_OSC calibration is held because MG_CSR is absent. -/
  calHeld : Bool := false
  /-- 13 R402; count; reset 0. Cycles of VT_OSC for each ms, of the last calibration. -/
  calCount : Nat := 0
  /-- 02 R51, 13 R403; clock numbers; reset empty. Clocks of the die that the last window found absent
  or far off. -/
  clockBad : List Nat := []
  /-- 13 R28, R403; 1 bit; reset 0. The die's sensor could not be read at the last sample. -/
  sensorBad : Bool := false
  /-- 11 R326; signed units of 1/256 ns; reset 0. Offset of the die's FTC copy from TD's. -/
  ftcOffset : Int := 0
  /-- 13 R401; per source; reset 0. The pool, plane or die that the raising which set the bit
  named. -/
  unitIdx : Tab Nat := []
  /-- 13 R407; 512 bits; reset 0. Bits in which the complemented copy that the collector holds is not the complement
  of the true one: 0 to 63 of the sticky bits, 64 to 127 of the enables, 128 to 191 of the timers, 192 to 223 of the
  isolation state (VT_LOCAL +0x18), and on TD from 256 on of its aggregate registers. -/
  copyDiff : BitVec 512 := 0
  /-- 01 R16, 13 R403; 48 bits; reset 0. Modules of the die that stayed unusable after repair. -/
  failedModules : BitVec 48 := 0
  deriving DecidableEq, Repr

/-- VT_CTL, VT_SAFE_STATUS and the safe-state entry (R409 to R415). -/
structure VentState where
  /-- 13 R415; 17 bits; reset 1,000. window_us. -/
  windowUs : BitVec 17 := 1000
  /-- 13 R415; 14 bits; reset 100. iso_us. -/
  isoUs : BitVec 14 := 100
  /-- 13 R415; 1 bit; reset 0. in_safe. -/
  inSafe : Bool := false
  /-- 13 R415; 4 bits; reset 0. cause. -/
  cause : BitVec 4 := 0
  /-- 13 R415; 8 bits; reset 0. die. -/
  die : BitVec 8 := 0
  /-- 13 R415; 6 bits; reset 0. source. -/
  source : BitVec 6 := 0
  /-- 13 R415; 1 bit; reset 0. record_written. -/
  recordWritten : Bool := false
  /-- 13 R405; list; reset empty. Isolations awaiting acknowledgement. -/
  isolating : List Isolating := []
  /-- 13 R412; FTC; reset 0. FTC at the decision to enter the safe state. -/
  safeFtc : BitVec 64 := 0
  /-- 13 R412; 128 bits; reset 0. Dies with a sticky bit at the decision. -/
  safeDies : BitVec 128 := 0
  /-- 02 R411; 1 bit; reset 0. A warm package reset waits for the safe record. -/
  warmWaits : Bool := false
  deriving DecidableEq, Repr

/-- TR_THERM_CTL (R33). -/
structure Therm where
  /-- 01 R33; 8 bits; reset 100. assert_c. -/
  assertC : BitVec 8 := 100
  deriving DecidableEq, Repr

/-! ## Lanes and links (spec file 03) -/

/-- LN_PORT_STATUS.state (R74). -/
inductive LinkState where
  | off | detect | coarse | align | equalize | config | identify | active | quarantine | quiesced
  | holdoff | down
  deriving DecidableEq, Repr

/-- The reason codes of R99. -/
inductive Reason where
  | none | noSignal | trainTimeout | laneMap | versionRefused | retryExhausted | creditErr
  | disabled | noRefclk | partnerDown | moduleFail | lockLost | portReset
  deriving DecidableEq, Repr

/-- A lane die's maps and wiring group (R95 to R97, R100). -/
structure LaneDie where
  /-- 03 R97; 16 bits; reset 0x0001. start_map in force. -/
  startMap : BitVec 16 := 0x0001
  /-- 03 R97; 16 bits; reset 0. enable in force. -/
  enable : BitVec 16 := 0
  /-- 03 R97; 16 bits; reset 0x0001. LN_PORT_MAP_PEND.start_map. -/
  pendStart : BitVec 16 := 0x0001
  /-- 03 R97; 16 bits; reset 0. LN_PORT_MAP_PEND.enable. -/
  pendEnable : BitVec 16 := 0
  /-- 01 R25, 03 R95; 1 bit; reset 0. The lane die is marked in use. -/
  inUse : Bool := false
  /-- 03 R100; list; reset empty. Pending LN_WIRE_SH writes (offset, value), oldest first. -/
  pending : List (Nat × W32) := []
  /-- 00 R9; cycle and count; reset none. How many of the pending writes the last MG_CSR cycle with a
  write brought, and that cycle plus one. -/
  pendAt : Nat × Nat := (0, 0)
  /-- 01 R16; 4 bits; reset 0. Modules U0 to U3 that stay unusable after repair. -/
  failed : BitVec 4 := 0
  /-- 03 R77, R96; ports; reset none. The ports that were up when the port-group reset in progress started. -/
  resetPorts : Option (List Nat) := none
  deriving DecidableEq, Repr

/-- One lane (R72, R74, R75, R101). -/
structure Lane where
  /-- 03 R74; state; reset OFF. Training state of the lane. -/
  state : LinkState := .off
  /-- 03 R74; ns; reset 0. When the lane entered its state. -/
  since : Nat := 0
  /-- 02 R39; 1 bit; reset 0. Float has enabled the lane. -/
  enabled : Bool := false
  /-- 03 R72; 1 bit; reset 0. Frame lock. -/
  locked : Bool := false
  /-- 03 R72; raw-bit position; reset none. Where the last marker was found. -/
  markerAt : Option Nat := none
  /-- 03 R72; count; reset 0. Consecutive missing markers after lock. -/
  missed : Nat := 0
  /-- 03 R72; 1 bit; reset 0. A polarity swap is corrected. -/
  inverted : Bool := false
  /-- 03 R81; ns; reset none. When lock was lost last. -/
  lostAt : Option Nat := none
  /-- 03 R74; count; reset 0. Consecutive good TS1 or TS2 received. -/
  goodTs : Nat := 0
  /-- 03 R74; count; reset 0. Consecutive TS1 with the partner's eq_done. -/
  partnerDone : Nat := 0
  /-- 03 R74; count; reset 0. Consecutive TS1 sent with eq_done. -/
  ownDone : Nat := 0
  /-- 03 R75; 1 bit; reset 0. The receiver is satisfied (eq_done). -/
  eqDone : Bool := false
  /-- 03 R59; 1/64 units; reset preset of R75. Tap c-2. -/
  cm2 : Int := 0
  /-- 03 R59; 1/64 units; reset preset of R75. Tap c-1. -/
  cm1 : Int := -8
  /-- 03 R59; 1/64 units; reset preset of R75. Tap c+1. -/
  cp1 : Int := 0
  /-- 03 R75; 8 bits; reset 0. coeff_status to report. -/
  coeffStatus : Byte := 0
  /-- 03 R75; 8 bits; reset 0. coeff_req to send. -/
  coeffReq : Byte := 0
  /-- 03 R76; TS2 body fields; reset none. serial, port, width, lane_index of the last good TS2. -/
  ts2 : Option (Nat × Nat × Nat × Nat) := none
  /-- 03 R63; slot 0 to 1,284; reset 0. Next slot of the transmit frame. -/
  txSlot : Nat := 0
  /-- 03 R64; 31 bits; reset all ones. The scrambler's generator, running freely while the lane is unframed. -/
  scr : BitVec 31 := BitVec.allOnes 31
  /-- 03 R62; up to 5,139 bits; reset empty. Bits of the slot stream sent whose codeword is not full. -/
  txBits : List Bool := []
  /-- 03 R66; slot 0 to 1,284; reset 0. Next slot of the partner's frame on this lane. -/
  rxSlot : Nat := 0
  /-- 03 R66; slot, cell and whether it failed; reset empty. Cells that wait for the same slot of the port's other
  lanes, oldest first. -/
  rxCells : List (Nat × List Byte × Bool) := []
  /-- 03 R72; 32 bits; reset 0. frame_number of the next FRAME sent. -/
  txFrame : W32 := 0
  /-- 03 R72; ns and 1/65,536 ns; reset none. Transmit time of the previous FRAME's marker. -/
  prevTx : Option (Nat × Nat) := none
  /-- 03 R72; frame, ns, fraction; reset none. Latest partner frame received and its time. -/
  rxFrame : Option (Nat × Nat × Nat) := none
  /-- 03 R94; frame, ns, fraction; reset empty. Transmit times of the FRAMEs sent, none more than four frames old. -/
  txTimes : List (Nat × Nat × Nat) := []
  /-- 03 R94; frame, ns, fraction; reset empty. Receive times of the partner's FRAMEs, as for txTimes. -/
  rxTimes : List (Nat × Nat × Nat) := []
  /-- 03 R101; 32 bits; reset 0. fec_corrected. -/
  fecCorrected : Cnt := 0
  /-- 03 R101; 32 bits; reset 0. fec_uncorrectable. -/
  fecUncorrectable : Cnt := 0
  /-- 03 R101; 32 bits; reset 0. cell_crc. -/
  cellCrc : Cnt := 0
  /-- 03 R101; 32 bits; reset 0. os_crc. -/
  osCrc : Cnt := 0
  deriving DecidableEq, Repr

/-- Credits held back for one packet's cells (05 R160, 09 R269): how many, the ingress packet they belong
to, the queues or landing users it waits on, and whether its lookup has named them yet. -/
structure Held where
  cells : Nat
  pkt : Nat
  /-- port*8 + vc of an output queue, or 4,096 + die*9 + user of a landing user -/
  users : List Nat
  known : Bool
  deriving DecidableEq, Repr

/-- The credit and reassembly state of one pair 2*vc + sub of a port (R68, R83 to R87). -/
structure PairLink where
  /-- 03 R83; 16 bits; reset 0. Initial credits the partner granted for the pair. -/
  granted : Nat := 0
  /-- 03 R84; count; reset 0. Data cells sent for the first time since CONFIG. -/
  sentCells : Nat := 0
  /-- 03 R84; count; reset 0. Cumulative credits reported back. -/
  returned : Nat := 0
  /-- 03 R85; count; reset 0. Cumulative freed credits F toward the partner. -/
  freed : Nat := 0
  /-- 03 R85; count; reset 0. F at the last header report of the pair. -/
  reported : Nat := 0
  /-- 03 R80; count; reset 0. Credits of QUARANTINE discards, returned at ACTIVE. -/
  owed : Nat := 0
  /-- 05 R160, 09 R269; list; reset empty. Credits held back, in the order they were held. -/
  held : List Held := []
  /-- 03 R68; cells; reset none. The packet being received: its ingress packet identifier. -/
  rxPkt : Option Nat := none
  deriving DecidableEq, Repr

/-- A data cell kept in the replay buffer (R88, R91). -/
structure SentCell where
  seq : BitVec 12
  ctype : BitVec 4
  vc : BitVec 3
  sub : Bool
  body : List Byte
  deriving DecidableEq, Repr

/-- One port, keyed by its first lane 0 to 511 (R13, R74 to R101). -/
structure Port where
  /-- 03 R98; 4 bits; reset 0x0 OFF. state. -/
  state : LinkState := .off
  /-- 03 R98; 8 bits; reset 0x00. reason. -/
  reason : Reason := .none
  /-- 03 R74; ns; reset 0. When the port entered its state. -/
  since : Nat := 0
  /-- 03 R77; count; reset 0. Consecutive failed attempts, unsaturated. -/
  attempts : Nat := 0
  /-- 03 R73; state; reset ACTIVE. The state held when QUIESCED was entered. -/
  quiescedFrom : LinkState := .active
  /-- 03 R73; 1 bit; reset 0. The wiring entry changed while QUIESCED. -/
  wireChanged : Bool := false
  /-- 03 R77; 1 bit; reset 0. LINK_DOWN is being sent for one frame before DETECT. -/
  linkDown : Bool := false
  /-- 03 R77; slot count; reset 0. Control slots of LINK_DOWN sent so far. -/
  linkDownSlots : Nat := 0
  /-- 03 R81; 4 bits; reset 0x0. Negotiated minor. -/
  flpMinor : BitVec 4 := 0
  /-- 03 R81; 2 bits; reset 0b00. Negotiated features. -/
  features : BitVec 2 := 0
  /-- 08 R234; 2 bits; reset 0b00. The features of the IDENT before, through resets of the lane die. -/
  featBefore : BitVec 2 := 0
  /-- 03 R98; 1 bit; reset 0. time_ok. -/
  timeOk : Bool := false
  /-- 03 R97; 36 bytes; reset zero. LN_PARTNER: the partner's IDENT body bytes 36 to 71. -/
  partner : List Byte := []
  /-- 03 R100; 64 bits; reset 0. Wiring entry: expected serial. -/
  wireSerial : BitVec 64 := 0
  /-- 03 R100; 16 bits; reset 0. Wiring entry: expected partner port. -/
  wirePort : BitVec 16 := 0
  /-- 03 R100; 2 bits; reset 0b00 OPEN. Wiring entry: mode. -/
  wireMode : BitVec 2 := 0
  /-- 03 R83; 16 pairs; reset empty. Credits and reception, pair 2*vc + sub. -/
  pairs : Tab PairLink := []
  /-- 03 R83; 16 pairs of 16 bits; reset 0. The Driant's own initial credits (start-up image). -/
  initCredits : Tab Nat := []
  /-- 03 R85; pair; reset 0. Pair the next cell on lane index 0 reports. -/
  nextReport : Nat := 0
  /-- 03 R88; 12 bits; reset 0. seq of the next new data cell. -/
  txSeq : BitVec 12 := 0
  /-- 03 R88; at most 120 cells a lane; reset empty. Replay buffer, oldest first. -/
  replay : List SentCell := []
  /-- 03 R91; cells; reset empty. Cells waiting to be resent. -/
  resend : List SentCell := []
  /-- 03 R91; ns; reset 0. When an acknowledgement last advanced or the buffer became non-empty. -/
  ackAt : Nat := 0
  /-- 03 R91; seq and count; reset none. Start seq of the last resend and how many in a row. -/
  resendRun : Option (BitVec 12 × Nat) := none
  /-- 03 R91; 4 bits; reset none. nak_id last acted on. -/
  actedNak : Option (BitVec 4) := none
  /-- 03 R89; 12 bits; reset 0. Expected seq of the receiver. -/
  expected : BitVec 12 := 0
  /-- 03 R90; 1 bit; reset 0. rx_error: the receiver is in retry error state. -/
  rxError : Bool := false
  /-- 03 R90; 4 bits; reset 0. nak_id. -/
  nakId : BitVec 4 := 0
  /-- 03 R101; 32 bits; reset 0. resends. -/
  cResends : Cnt := 0
  /-- 03 R101; 32 bits; reset 0. retry_timeouts. -/
  cTimeouts : Cnt := 0
  /-- 03 R101; 32 bits; reset 0. framing. -/
  cFraming : Cnt := 0
  /-- 03 R101; 32 bits; reset 0. quarantine_drops. -/
  cQuarantine : Cnt := 0
  /-- 03 R101; 32 bits; reset 0. lost_packets. -/
  cLost : Cnt := 0
  /-- 03 R101; 32 bits; reset 0. retrains. -/
  cRetrains : Cnt := 0
  /-- 11 R330; root_hops, root_id, locked, since; reset none. What the partner's latest FRAME on lane
  index 0 advertised, and since when root_hops has been at least 2 below the source's. -/
  timeAdvert : Option (Nat × Nat × Bool × Option Nat) := none
  /-- 04 R110; ns; reset none. When SLICE_VIOLATION was last posted for the port. -/
  sliceEvtAt : Option Nat := none
  /-- 10 R315; ns; reset none. When FENCE_BROKEN was last posted for the port. -/
  fenceEvtAt : Option Nat := none
  deriving DecidableEq, Repr

/-! ## Packets, routing and ingress (spec file 04) -/

/-- A slice descriptor (R113). -/
structure SliceDesc where
  /-- 04 R113; 1 bit; reset 0. valid. -/
  valid : Bool := false
  /-- 04 R113; 1 bit; reset 0. conf. -/
  conf : Bool := false
  /-- 04 R113; 1 bit; reset 0. priv. -/
  priv : Bool := false
  /-- 04 R113; 8 bits; reset 0. hop_limit. -/
  hopLimit : BitVec 8 := 0
  /-- 04 R113; 16 bits; reset 0. ep_lo. -/
  epLo : BitVec 16 := 0
  /-- 04 R113; 20 bits; reset 0. route_base. -/
  routeBase : BitVec 20 := 0
  /-- 04 R113; 17 bits; reset 0. ep_count. -/
  epCount : BitVec 17 := 0
  /-- 04 R113; 16 bits; reset 0. mc_count. -/
  mcCount : BitVec 16 := 0
  /-- 04 R113; 16 bits; reset 0. version. -/
  version : BitVec 16 := 0
  deriving DecidableEq, Repr

/-- A set (R117, R134). -/
structure RSet where
  /-- 04 R117; 512 bits; reset 0. Member bitmap. -/
  members : BitVec 512 := 0
  /-- 04 R117; 8 bits; reset 0. Owning slice. -/
  slice : BitVec 8 := 0
  /-- 04 R117; 1 bit; reset 0. valid. -/
  valid : Bool := false
  deriving DecidableEq, Repr

/-- The route state, identical on all tiles (R115), with the previous descriptors of R394. -/
structure Routing where
  /-- 04 R134; 256; reset zero. Slice descriptors. -/
  slices : Tab SliceDesc := []
  /-- 04 R134; 4,096; reset zero. Sets. -/
  sets : Tab RSet := []
  /-- 04 R134; 1,048,576 of 32 bits; reset zero. Route entries. -/
  routes : Tab W32 := []
  /-- 13 R394; per slice; reset none. Previous descriptor and when it was replaced. -/
  prev : Tab (Option (SliceDesc × Nat)) := []
  deriving DecidableEq, Repr

/-- The packet header fields of R103 that the Driant uses. -/
structure PktHdr where
  /-- 04 R112; 12 bits; the reserved bits of header bytes 0 to 17, as they arrived: byte 0 [7], byte 1 [7], the
  word at 8 [31:23], the word at 16 [15], from the lowest. -/
  rsv : BitVec 12 := 0
  hdrFormat : BitVec 4 := 1
  vc : BitVec 3 := 0
  cls : BitVec 2 := 0
  lc : Bool := false
  enc : Bool := false
  mcast : Bool := false
  pin : Bool := false
  keyPhase : Bool := false
  dst : BitVec 16 := 0
  src : BitVec 16 := 0
  slice : BitVec 8 := 0
  hops : BitVec 8 := 0
  flowLabel : BitVec 20 := 0
  dlCrossed : BitVec 3 := 0
  seq : BitVec 32 := 0
  payLen : BitVec 15 := 0
  launch : BitVec 64 := 0
  gcmCtr : BitVec 56 := 0
  hdrCrc : BitVec 16 := 0
  deriving DecidableEq, Repr

/-- One fabric stream of an ingress packet (R149, R153). -/
structure Stream where
  /-- destination fabric port -/
  dst : Nat
  /-- port_mask, or the target engine -/
  mask : BitVec 32
  relSeq : BitVec 16
  /-- cells already sent into the fabric -/
  sentCells : Nat
  deriving DecidableEq, Repr

/-- What INGRESS_LOOKUP decided (R110). -/
inductive Verdict where
  /-- the lookup has not run yet -/
  | pending
  /-- discarded at the header by the numbered check, not sent -/
  | dropped (check : Nat)
  /-- multicast: no copy is made, and n live copies fail check 11 -/
  | noCopy (n : Nat)
  /-- local delivery to management, once it is whole -/
  | toMgmt
  /-- sent or being sent -/
  | sending
  deriving DecidableEq, Repr

/-- A packet being received at an ingress tile (R102, R139, R145). -/
structure InPkt where
  /-- port it arrives on -/
  port : Nat
  /-- pair of its cells -/
  pair : Nat
  /-- bytes received so far, 256 to a cell -/
  bytes : List Byte
  cells : Nat
  /-- fabric cells staged so far, counted by index -/
  staged : Nat := 0
  /-- the LAST or ONLY cell has arrived -/
  whole : Bool
  verdict : Verdict
  streams : List Stream
  /-- checks 3, 5 and 6 settled: the verdict code of the last cell (R144), 0 while open -/
  final : BitVec 4
  /-- copies of a multicast packet not made because check 11 failed, to count once checks 3, 5 and 6 have passed -/
  egSlice : Nat := 0
  deriving DecidableEq, Repr

/-- Counters of PT_PKT_CNT[j] (R135), keyed by port. -/
structure PktCnt where
  hdrCrc : Cnt := 0
  malformed : Cnt := 0
  lenErr : Cnt := 0
  encMismatch : Cnt := 0
  gcmFail : Cnt := 0
  replay : Cnt := 0
  sliceViolation : Cnt := 0
  noRoute : Cnt := 0
  hopLimit : Cnt := 0
  portDown : Cnt := 0
  egressSlice : Cnt := 0
  gcrcFail : Cnt := 0
  holdDrop : Cnt := 0
  mcSkip : Cnt := 0
  adaptiveDiff : Cnt := 0
  deriving DecidableEq, Repr

/-- PT_PORT_SH[j] (R132), keyed by port. -/
structure PortCfg where
  /-- 04 R132; 2 bits; reset 0b00 TRANSIT. mode. -/
  mode : BitVec 2 := 0
  /-- 04 R132; 1 bit; reset 0. enc. -/
  enc : Bool := false
  /-- 04 R132; 2 bits; reset 0b00. axis. -/
  axis : BitVec 2 := 0
  /-- 04 R132; 1 bit; reset 0. dateline. -/
  dateline : Bool := false
  /-- 04 R132; 20 bits; reset 10,000. port_hold, microseconds. -/
  portHold : BitVec 20 := 10000
  /-- 04 R132; 256 bits; reset 0. Slice bitmap. -/
  slices : BitVec 256 := 0
  /-- 04 R132; 256 of 8 bits; reset 1. Weights. -/
  weights : Tab (BitVec 8) := []
  deriving DecidableEq, Repr

/-- A link key phase of one direction (R109, R463, R464). -/
structure LinkKey where
  /-- 15 R462; 256 bits; reset none. The key. -/
  key : Option (BitVec 256) := none
  /-- 04 R108; 32 bits; reset 0. The salt. -/
  salt : BitVec 32 := 0
  /-- 04 R109; 56 bits per pair; reset 0. Last gcm_ctr sent or accepted, by pair. -/
  ctr : Tab Nat := []
  deriving DecidableEq, Repr

/-- The keys of a port (R464). -/
structure PortKeys where
  tx0 : LinkKey := {}
  tx1 : LinkKey := {}
  rx0 : LinkKey := {}
  rx1 : LinkKey := {}
  /-- 15 R464; 1 bit; reset 0. Selected transmit phase. -/
  selTx : Bool := false
  /-- 04 R109; pairs; reset empty. Pairs held because their counter is exhausted. -/
  exhausted : List Nat := []
  /-- model, for R464; time in ns, phase and key; reset none. The receive key that the last install replaced, and when. -/
  oldRx : Option (Nat × Bool × LinkKey) := none
  deriving DecidableEq, Repr

/-! ## Fabric and Hod (spec file 05) -/

/-- A fabric cell (R144). -/
structure FabCell where
  data : Bool
  vc : BitVec 3
  mcast : Bool
  src : Nat
  dst : Nat
  pool : BitVec 2
  index : Nat
  count : Nat
  verdict : BitVec 4
  relSeq : BitVec 16
  mask : BitVec 32
  payCrc : BitVec 32
  crcPresent : Bool
  /-- credit fields: destinations whose latch place was freed -/
  credits : List Nat
  body : List Byte
  /-- 05 R144; 32 bits; cell 0: the parity of each header-slot byte -/
  hdrParity : BitVec 32 := 0
  /-- 05 R144; 32 bits; CRC-32C over header bytes 0 to 23 and the body -/
  fcrc : BitVec 32 := 0
  /-- 05 R136; module of the plane, U(2f) or U(2f + 1), that carries the cell; the first of a port and plane goes
  through U(2f) (DESIGN CHOICE, log entry 227) -/
  via : Nat := 0
  /-- model; port the packet entered on, for 11 R338; not a field of the cell (DESIGN CHOICE: log entry 52) -/
  inPort : Nat := 0
  deriving DecidableEq, Repr

/-- A staged fabric cell (R139): the ingress packet (or the Caldera packet) it belongs to, its
destination fabric port and its index. -/
structure Staged where
  pkt : Nat
  dst : Nat
  index : Nat
  deriving DecidableEq, Repr

/-- A packet a Caldera die has built and sends (R139, R276). -/
structure CaPkt where
  hdr : PktHdr
  /-- collective header, 32 bytes -/
  coll : List Byte
  payload : List Byte
  payCrc : BitVec 32
  streams : List Stream
  /-- the invocation record key and segment whose slot waits for this packet, if any -/
  frees : Option (Nat × Nat)
  deriving DecidableEq, Repr

/-- A plane (R137, R140, R151, R168). -/
structure Plane where
  /-- 05 R168; 1 bit; reset 1. in_service. -/
  inService : Bool := true
  /-- 05 R168; 1 bit; reset 0. rejoin_refused. -/
  rejoinRefused : Bool := false
  /-- 05 R168; 4 bits; reset 0x0. cause. -/
  cause : BitVec 4 := 0
  /-- 05 R152; 1 bit; reset 0. A die reset has completed since the retirement. -/
  resetSince : Bool := false
  /-- 05 R152; 1 bit; reset 0. A rejoin is accepted and waits for K mod 24 = 0. -/
  rejoining : Bool := false
  /-- 01 R16, 05 R152; 1 bit; reset 0. A module of the plane is failed. -/
  moduleFailed : Bool := false
  /-- 05 R137; count; reset 0. Plane slot count K. -/
  slot : Nat := 0
  deriving DecidableEq, Repr

/-- The fabric between the dies (R136 to R152). -/
structure Fabric where
  /-- 05 R137; count per fabric port; reset 0. Fabric slot count k. -/
  slot : Tab Nat := []
  /-- 05 R141; key (f*8 + p)*24 + o; reset 2. Credits. -/
  credits : Tab Nat := []
  /-- 05 R140; key (p*24 + f)*24 + o; reset empty. Transit latches, first in first. -/
  latches : Tab (List FabCell) := []
  /-- 05 R141; key p*24 + f; reset empty. Freed latch places not yet returned to port f. -/
  returning : Tab (List Nat) := []
  /-- 05 R140; key p; reset empty. Cells sent by a port and not yet in plane p's latch. -/
  toPlane : Tab (List FabCell) := []
  /-- 05 R142; key o; reset empty. Cells that left a latch and have not reached port o: plane, cell. -/
  toPort : Tab (List (Nat × FabCell)) := []
  /-- 05 R139; key f; reset empty. Staged cells of a fabric port, oldest first. -/
  staged : Tab (List Staged) := []
  /-- 05 R149; key (f*24 + o)*8 + vc; reset 0. Next rel_seq. -/
  nextRel : Tab (BitVec 16) := []
  /-- 05 R136; 0 or 1; key f*8 + p; reset 0. Which of its two modules port f sends its next cell to plane p on. -/
  altUp : Tab Nat := []
  /-- 05 R136; 0 or 1; key p*24 + o; reset 0. Which of its two modules plane p sends its next cell to port o on. -/
  altDown : Tab Nat := []
  /-- 13 R406; ns, key o; reset 0. When a plane last delivered a cell to fabric port o. -/
  deliveredAt : Tab Nat := []
  /-- 13 R406; ns, key f; reset 0. When a plane last received a cell from fabric port f. -/
  takenAt : Tab Nat := []
  /-- 05 R151; planes 0 to 7; reset in service. -/
  planes : Tab Plane := []
  deriving DecidableEq, Repr

/-- The Hod category a buffer is charged to (R159). -/
inductive Category where
  | reserve | shared | headroom
  deriving DecidableEq, Repr

/-- A buffer taken from a pool (R156, R157). -/
structure Buf where
  /-- tile-local port j and vc it is charged to -/
  j : Nat
  vc : Nat
  /-- pool that supplied it -/
  pool : Nat
  /-- byte address -/
  addr : Nat
  /-- stride charged (of the named pool) -/
  stride : Nat
  cat : Category
  deriving DecidableEq, Repr

/-- A packet under reassembly at a tile (R147 to R150). -/
structure Reasm where
  src : Nat
  vc : Nat
  relSeq : BitVec 16
  firstAt : Nat
  count : Nat
  mcast : Bool
  /-- fabric packet bodies received, by index -/
  got : Tab (List Byte)
  mask : BitVec 32
  bufs : List Buf
  failed : Bool
  verdict : BitVec 4
  payCrc : BitVec 32
  crcPresent : Bool
  /-- complete with a PASS verdict and waiting for release -/
  complete : Bool
  deriving DecidableEq, Repr

/-- A pool of a tile's Hod (R155 to R158, R162). -/
structure Pool where
  /-- 05 R162; 25 bits; reset R155 default. base. -/
  base : Nat
  /-- 05 R162; 17 bits; reset R155 default. count. -/
  count : Nat
  /-- 05 R157; list; reset every buffer, ascending. The scrim: addresses never taken yet start at
  this index, every lower one was taken at least once. -/
  fresh : Nat := 0
  /-- 05 R157; list; reset empty. Returned buffers, last in first out, above the fresh ones. -/
  back : List Nat := []
  /-- 05 R162; 1 bit; reset 0. quarantined. -/
  quarantined : Bool := false
  /-- 05 R158; addresses; reset empty. Buffers freed while quarantined, not returned to the scrim. -/
  lost : List Nat := []
  /-- 05 R157; count; reset 0. Buffers in use. -/
  used : Nat := 0
  deriving DecidableEq, Repr

/-- Hod charge of one queue (port, vc), in bytes by category (R159). -/
structure Charge where
  reserve : Nat := 0
  shared : Nat := 0
  headroom : Nat := 0
  deriving DecidableEq, Repr

/-! ## Scheduling and Fumarole (spec file 06) -/

/-- PT_SCHED_PORT_SH[j] (R188), keyed by port. -/
structure SchedCfg where
  /-- 06 R188; 8 bits each; reset 8, 8, 1, 4, 2, 2. Weights w1 to w6. -/
  w1 : BitVec 8 := 8
  w2 : BitVec 8 := 8
  w3 : BitVec 8 := 1
  w4 : BitVec 8 := 4
  w5 : BitVec 8 := 2
  w6 : BitVec 8 := 2
  /-- 06 R188; 8 bits; reset 0. overhead. -/
  overhead : BitVec 8 := 0
  /-- 06 R188; 13 bits; reset 64. cap0. -/
  cap0 : BitVec 13 := 64
  /-- 06 R188; 10 bits; reset 256. burst0. -/
  burst0 : BitVec 10 := 256
  /-- 06 R188; 13 bits; reset 128. cap7. -/
  cap7 : BitVec 13 := 128
  /-- 06 R188; 10 bits; reset 256. burst7. -/
  burst7 : BitVec 10 := 256
  deriving DecidableEq, Repr

/-- PT_FQ_SH[q] (R189), keyed by tile*4096 + q. -/
structure FqCfg where
  /-- 06 R189; 1 bit; reset 0. valid. -/
  valid : Bool := false
  /-- 06 R189; 1 bit; reset 0 SHAPED. mode CALENDAR. -/
  calendar : Bool := false
  /-- 06 R189; 1 bit; reset 0 FULL. reset_mode ZERO. -/
  resetZero : Bool := false
  /-- 06 R189; 5 bits; reset 0. port j. -/
  port : BitVec 5 := 0
  /-- 06 R189; 3 bits; reset 0. vc. -/
  vc : BitVec 3 := 0
  /-- 06 R189; 2 bits; reset 0. sample_class. -/
  sampleClass : BitVec 2 := 0
  /-- 06 R189; 8 bits; reset 0. slice. -/
  slice : BitVec 8 := 0
  /-- 06 R189; 20 bits; reset 0. flow_label. -/
  flowLabel : BitVec 20 := 0
  /-- 06 R189; 28 bits; reset 0. rate. -/
  rate : BitVec 28 := 0
  /-- 06 R189; 24 bits; reset 0. burst. -/
  burst : BitVec 24 := 0
  deriving DecidableEq, Repr

/-- The running state of a flow queue (R176, R180 to R182, R190), keyed by tile*4096 + q. -/
structure FqRun where
  /-- 06 R180; 1/65,536 byte; reset 0. tokens. -/
  tokens : Int := 0
  /-- 06 R180; ns; reset 0. last. -/
  last : Nat := 0
  /-- 06 R181; level, slot, eligible time; reset none. Place on the timing wheel. -/
  wheel : Option (Nat × Nat × Nat) := none
  /-- 06 R171; count; reset 0. Packets its lists must still send before q is eligible. -/
  fence : Nat := 0
  /-- 06 R176; -65 to 2,047; reset 0. Entitlement. -/
  entitlement : Int := 0
  /-- 06 R185; 32 bits; reset 0. tx_bytes since the previous sample. -/
  txBytes : W32 := 0
  deriving DecidableEq, Repr

/-- A packet in an output queue (R170, R171). -/
structure QPkt where
  /-- header as it leaves, before the egress rewrites of enc, key_phase, gcm_ctr and hdr_crc -/
  hdr : PktHdr
  coll : List Byte
  payload : List Byte
  payCrc : BitVec 32
  crcPresent : Bool
  buf : Buf
  sub : Bool
  /-- flow queue it joined, if any -/
  fq : Option Nat
  joinedAt : Nat
  /-- launch hold ended (R333) -/
  launched : Bool
  deriving DecidableEq, Repr

/-- A packet being sent (R172, R173). -/
structure Prog where
  pkt : QPkt
  /-- bytes as they leave on the link -/
  wire : List Byte
  cells : Nat
  sentCells : Nat
  /-- rank it started at -/
  rank : Nat
  /-- the header as it leaves (04 R109, R112) -/
  hdr : PktHdr := {}
  /-- the payload that the departure check passed (04 R106) -/
  payload : List Byte := []
  /-- key and salt it is encrypted under (04 R107) -/
  key : Option (BitVec 256 × BitVec 32) := none
  deriving DecidableEq, Repr

/-- The egress side of a port (R170 to R177), keyed by port. -/
structure OutPort where
  /-- 06 R170; list; reset empty. Packets waiting, in the order they joined. -/
  queue : List QPkt := []
  /-- 06 R172; list; reset empty. Packets in progress, earliest started first. -/
  prog : List Prog := []
  /-- 06 R174; per vc 1 to 6; reset 0. Deficits of the channels, counted bytes. -/
  deficit : Tab Nat := []
  /-- 06 R174; vc; reset 1. Channel the visit stands at. -/
  visit : Nat := 1
  /-- 06 R174; 1 bit; reset 0. The visit has had its quantum. -/
  visited : Bool := false
  /-- 06 R174; key vc*256 + slice; reset 0. Deficits of the slices. -/
  sliceDeficit : Tab Nat := []
  /-- 06 R174; per vc; reset 0. Slice the inner visit stands at. -/
  sliceVisit : Tab Nat := []
  /-- 06 R174; per vc; reset 0. The inner visit has had its quantum (1). -/
  sliceVisited : Tab Nat := []
  /-- 06 R174; key vc*256 + slice; reset 0. Next source of the round robin. -/
  source : Tab Nat := []
  /-- 06 R175; 1/4,096 cell; reset burst (DESIGN CHOICE, log entry 269). Tokens of cap0 less the burst:
  tokens = burst*4096 + this. -/
  cap0 : Int := 0
  /-- 06 R175; 1/4,096 cell; reset burst (DESIGN CHOICE, log entry 269). As cap0, for cap7. -/
  cap7 : Int := 0
  /-- 06 R177; positions; reset empty. Calendar in force: fq by position. -/
  cal : Tab (Option Nat) := []
  /-- 06 R177; positions; reset none. A committed calendar waiting for position 0. -/
  calNext : Option (Tab (Option Nat)) := none
  /-- 06 R176; position 0 to 4,095; reset 0. Next position. -/
  calPos : Nat := 0
  /-- 04 R122; ns; reset none. When the hold timer started. -/
  holdFrom : Option Nat := none
  /-- 04 R122; 1 bit; reset 0. The hold timer has run out in this outage. -/
  holdOut : Bool := false
  /-- 04 R109; per lane index; reset 0. Next lane index a data cell goes on. -/
  nextLane : Nat := 0
  deriving DecidableEq, Repr

/-- FM_CTL, FM_STATUS, FM_HIST (R192, R193). -/
structure Fumarole where
  /-- 06 R192; 16 bits; reset 1,000, 10,000, 50,000. Periods. -/
  period1 : BitVec 16 := 1000
  period2 : BitVec 16 := 10000
  period3 : BitVec 16 := 50000
  /-- 06 R192; 1 bit; reset 0 RING. dest HISTORY. -/
  history : Bool := false
  /-- 06 R192; 1 bit; reset 0. enable. -/
  enable : Bool := false
  /-- 06 R192; 14 bits; reset 0. ring. -/
  ring : BitVec 14 := 0
  /-- 06 R186; per class; reset none. FM_CTL as in force for the class: period, history, enable, ring. -/
  inForce : Tab (Option (Nat × Bool × Bool × Nat)) := []
  /-- 06 R193; 32 bits; reset 0. records. -/
  records : Cnt := 0
  /-- 06 R193; 32 bits; reset 0. skipped. -/
  skipped : Cnt := 0
  /-- 06 R193; 32 bits; reset 0. ring_drops. -/
  ringDrops : Cnt := 0
  /-- 06 R193; 32 bits; reset 0. hist_wraps. -/
  histWraps : Cnt := 0
  /-- 06 R193; 32 bits; reset 0. next_record. -/
  nextRecord : Nat := 0
  /-- 06 R193; 32 bits; reset 7,895,160. share_records. -/
  shareRecords : Nat := 7895160
  /-- 06 R184; per class; reset empty. Flow queues whose sample is still to take. -/
  due : Tab (List Nat) := []
  /-- 06 R184; ns plus one, per class; reset none. When the class's last period started. -/
  startedAt : Tab Nat := []
  /-- 06 R184; records in the current microsecond, and that microsecond; reset 0. -/
  burst : Nat × Nat := (0, 0)
  deriving DecidableEq, Repr

/-- One tile (R131, R133, R155 to R167, R192 to R194), keyed by t. -/
structure Tile where
  /-- 04 R131; 32 bits; reset 0. seed. -/
  seed : W32 := 0
  /-- 04 R131; 1 bit; reset 1. adapt_en. -/
  adaptEn : Bool := true
  /-- 04 R131; 4 bits; reset 0x2. adapt_margin. -/
  adaptMargin : BitVec 4 := 2
  /-- 04 R133, 12 R382; list; reset empty. Pending shadow writes (offset, value), oldest first. -/
  pending : List (Nat × W32) := []
  /-- 00 R9; cycle and count; reset none. How many of the pending writes the last MG_CSR cycle with a
  write brought, and that cycle plus one. -/
  pendAt : Nat × Nat := (0, 0)
  /-- 04 R133; 1 bit; reset 0. refused. -/
  refused : Bool := false
  /-- 04 R133; 8 bits; reset 0. detail. -/
  detail : Byte := 0
  /-- 02 R44; window number and cells; reset none. Cells that arrived in the current window of 128 ns. -/
  arrivals : Nat × Nat := (0, 0)
  /-- 05 R163; 15 bits; reset 8,192. headroom_kib. -/
  headroomKib : BitVec 15 := 8192
  /-- 05 R163; 32 bits; reset 0x4444_4444. alpha. -/
  alpha : W32 := 0x44444444
  /-- 05 R155, R162; 4 pools; reset R155 defaults. -/
  pools : Tab Pool := []
  /-- 05 R165; 2 bits; reset 0. PT_HOD_CTL.pool. -/
  ctlPool : BitVec 2 := 0
  /-- 05 R165; 1 bit; reset 0. PT_HOD_CTL.rebuild. -/
  rebuild : Bool := false
  /-- 05 R165; 1 bit; reset 0. PT_HOD_CTL.refused. -/
  rebuildRefused : Bool := false
  /-- 05 R159; key j*8 + vc; reset 0. Charges. -/
  charges : Tab Charge := []
  /-- 05 R147; at most 8,448; reset empty. Reassembly table. -/
  reasm : List Reasm := []
  /-- 05 R149; key src*8 + vc; reset 0. Expected rel_seq. -/
  expect : Tab (BitVec 16) := []
  /-- 05 R149, R150; key src*8 + vc; reset empty. Numbers resolved as discarded, ahead of the expected value or not far behind it. -/
  resolved : Tab (List (BitVec 16)) := []
  /-- 05 R150; key src*8 + vc; reset empty. Missing numbers and when a higher one first arrived. -/
  gaps : Tab (List (BitVec 16 × Nat)) := []
  /-- 05 R166; 8 bits; reset 0xFF. plane_mask, complemented. -/
  planesOut : BitVec 8 := 0
  /-- 05 R166; 32 bits; reset 0. reasm_timeout. -/
  reasmTimeout : Cnt := 0
  /-- 05 R166; 32 bits; reset 0. seq_skip. -/
  seqSkip : Cnt := 0
  /-- 05 R166; 32 bits; reset 0. verdict_drop. -/
  verdictDrop : Cnt := 0
  /-- 05 R166; 32 bits; reset 0. fab_crc. -/
  fabCrc : Cnt := 0
  /-- 05 R166; 32 bits; reset 0. mc_streams. -/
  mcStreams : Cnt := 0
  /-- 06 R187; key j; reset 0. FM_HWM_PORT. -/
  hwmPort : Tab Nat := []
  /-- 06 R187; key j*8 + vc; reset 0. FM_HWM_Q. -/
  hwmQ : Tab Nat := []
  /-- 06 R187; key k; reset 0. FM_HWM_POOL. -/
  hwmPool : Tab Nat := []
  /-- model, for R187; key which*256 + i; reset empty. The cycle, plus one, of the last charge of a mark, and the mark
  before the charges of that cycle. -/
  hwmOld : Tab (Nat × Nat) := []
  /-- 06 R192, R193. Fumarole of the tile. -/
  fm : Fumarole := {}
  /-- 10 R314; at most 8,192; reset empty. Fence table: (j, src, vc), count, last change, held. -/
  fences : List (Nat × Nat × Nat × Int × Nat) := []
  /-- 10 R325; 32 bits; reset 0. released. -/
  fReleased : Cnt := 0
  /-- 10 R325; 32 bits; reset 0. broken. -/
  fBroken : Cnt := 0
  /-- 10 R325; 32 bits; reset 0. untracked. -/
  fUntracked : Cnt := 0
  /-- 10 R325; 32 bits; reset 0. evicted. -/
  fEvicted : Cnt := 0
  /-- 10 R315; list; reset empty. Signals released toward endpoint-facing ports and not yet handled. -/
  atFence : List (Nat × QPkt) := []
  /-- 10 R315; at most 1,024; reset empty. Held signals: the key of the entry, fence, arrival, packet. -/
  heldSignals : List (Nat × Nat × Nat × Nat × Nat × QPkt) := []
  deriving DecidableEq, Repr

/-- PT_HOD_CNT[j] and PT_NDET_CNT[j], keyed by port (R167, R349). -/
structure PortCnt where
  hodDrop : Cnt := 0
  headroomPkts : Cnt := 0
  mcBuffers : Cnt := 0
  ndetDrops : Cnt := 0
  ndetLate : Cnt := 0
  deriving DecidableEq, Repr

/-- PT_HOD_PORT_SH[j] and PT_FENCE_SH[j], keyed by port (R164, R324). -/
structure HodPortCfg where
  /-- 05 R164; 16 bits; reset 64. reserve_kib. -/
  reserveKib : BitVec 16 := 64
  /-- 10 R324; 7 bits; reset 0x78. track_vcs. -/
  trackVcs : BitVec 7 := 0x78
  /-- 10 R324; 20 bits; reset 100. timeout_us. -/
  timeoutUs : BitVec 20 := 100
  deriving DecidableEq, Repr

/-! ## Caldera (spec files 07 to 09) -/

/-- A basin entry (R201), with the magma record's N (R203) held in place when it is promoted. -/
structure Entry where
  /-- 07 R201; 104 bits signed; reset 0. win; when promoted, the magma record's index. -/
  win : Int := 0
  /-- 07 R201; 12 bits signed; reset 0. wbase. -/
  wbase : Int := 0
  /-- 07 R201; 1 bit each; reset 0. The state bits 116 to 123. -/
  live : Bool := false
  promoted : Bool := false
  nan : Bool := false
  pinf : Bool := false
  ninf : Bool := false
  opos : Bool := false
  oneg : Bool := false
  zeroPos : Bool := false
  /-- 07 R203; 672 bits signed; reset 0. N of the magma record. -/
  n : Int := 0
  /-- model; 1 bit; reset 0. A finite value, zero or not, has been added (R207; DESIGN CHOICE: log entry 65). -/
  seen : Bool := false
  deriving DecidableEq, Repr

/-- CA_ARITH_CNT[e] (R225), also the per-invocation totals of R218. -/
structure Arith where
  convOvf : Cnt := 0
  ovfConflict : Cnt := 0
  underFlush : Cnt := 0
  nanResults : Cnt := 0
  mxNanBlocks : Cnt := 0
  xpBad : Cnt := 0
  promotions : Cnt := 0
  deriving DecidableEq, Repr

/-- CA_INTAKE_CNT[u] (R296). -/
structure IntakeCnt where
  intakeDrop : Cnt := 0
  reasmTimeout : Cnt := 0
  fabCrc : Cnt := 0
  verdictDrop : Cnt := 0
  payCrc : Cnt := 0
  misdirected : Cnt := 0
  egressDrop : Cnt := 0
  magmaAborts : Cnt := 0
  deriving DecidableEq, Repr

/-- How far a landed packet is (R269 to R272). -/
inductive LandPhase where
  /-- cells still arriving -/
  | receiving
  /-- discarded before it was whole: cells counted so far, which take no place (R269) -/
  | dropped (seen : Nat)
  /-- passed R270 checks 1 to 3 and R226; waits for its message's step -/
  | checked
  /-- accepted as the child's segment; waits for its token or its engine (R272, R274) -/
  | waiting
  /-- its add waits for a magma record since then (R279) -/
  | magma (since : Nat)
  deriving DecidableEq, Repr

/-- A packet in landing of a Caldera die (R269, R270). -/
structure Landed where
  id : Nat
  src : Nat
  vc : Nat
  relSeq : BitVec 16
  /-- landing user: engine 0 to 7, or 8 for the fold unit -/
  user : Nat
  firstAt : Nat
  count : Nat
  got : Tab (List Byte)
  failed : Bool
  verdict : BitVec 4
  payCrc : BitVec 32
  crcPresent : Bool
  /-- 09 R263, R269; 15 bits each; reset empty. The landing place of each cell that has landed. -/
  cellAt : Tab Nat := []
  /-- model; port the packet entered on (11 R338) -/
  inPort : Nat
  phase : LandPhase
  deriving DecidableEq, Repr

/-- One engine, keyed by physical number 8c + e (R259, R280, R293). -/
structure Engine where
  /-- 09 R293; 1 bit; reset 1. in_service. -/
  inService : Bool := true
  /-- 02 R41, R42; 1 bit; reset 0. At full rate. -/
  running : Bool := false
  /-- 09 R271; slots 0 to 71; reset none. The invocation record that has reserved the slot. -/
  slots : Tab (Option Nat) := []
  /-- 07 R225. CA_ARITH_CNT. -/
  arith : Arith := {}
  /-- 09 R406; 1 bit; reset 0. Held in engine reset. -/
  inReset : Bool := false
  deriving DecidableEq, Repr

/-- A group record (R228). -/
structure GroupRec where
  group : BitVec 16
  slice : BitVec 8
  op : BitVec 4
  etype : BitVec 5
  rtype : BitVec 5
  countMode : BitVec 2
  ovfInf : Bool
  sr : Bool
  exactUp : Bool
  abortPolicy : Bool
  purpose : BitVec 2
  creditWindow : Nat
  count : Nat
  scaleExp : Int
  members : Nat
  timeoutUs : Nat
  ring : BitVec 14
  extEntries : Nat
  seedId : BitVec 32
  k0 : BitVec 64
  k1 : BitVec 64
  auditExt : BitVec 64
  /-- byte 6 of the record, for the audit record -/
  modes : Byte
  deriving DecidableEq, Repr

/-- A step word (R232). -/
structure StepWord where
  kind : BitVec 4
  variant : BitVec 4
  counter : BitVec 16
  targetEp : BitVec 16
  deriving DecidableEq, Repr

/-- A member entry (R231): rank, endpoint, weight element and weight scale byte. -/
structure MemberEnt where
  rank : Nat
  ep : BitVec 16
  weight : BitVec 32
  deriving DecidableEq, Repr

/-- A child entry (R231). -/
structure ChildEnt where
  ep : BitVec 16
  /-- 08 R231; 16 bits. Bytes 2 and 3, 0 in a plan that loads. -/
  zero : BitVec 16 := 0
  count : Nat
  deriving DecidableEq, Repr

/-- A plan (R230). -/
structure Plan where
  planVer : BitVec 16
  tier : BitVec 4
  parentEp : BitVec 16
  mcId : BitVec 16
  rootEp : BitVec 16
  engineFirst : Nat
  engineCount : Nat
  subtree : Nat
  steps : List StepWord
  locals_ : List MemberEnt
  children : List ChildEnt
  deriving DecidableEq, Repr

/-- A child dropped in an ended STEP, by endpoint and rank (0xFFFF for a switch) (R246). -/
structure DropRec where
  ep : Nat
  rank : Nat
  /-- 08 R246; 20 bits. d. -/
  d : Nat
  /-- 08 R248; 1 bit. LATE_DISCARD was sent. -/
  sent : Bool
  deriving DecidableEq, Repr

/-- What is kept of an ended STEP: its drop list and late_discards (R236, R246, R248). -/
structure Ended where
  step : Nat
  late : Cnt
  drops : List DropRec
  deriving DecidableEq, Repr

/-- A group at the switch, keyed by group identifier (R228 to R236, R246, R299). -/
structure Group where
  /-- 08 R228; record; reset none. -/
  record : Option GroupRec := none
  /-- 08 R230; plan; reset none. -/
  plan : Option Plan := none
  /-- 08 R236; 48 bits; reset 0. Expected STEP e. -/
  expected : Nat := 0
  /-- 08 R234, 09 R280; status code; reset none. The group is suspended with this status. -/
  suspended : Option Byte := none
  /-- 08 R246, R248; list; reset empty. What is kept of the ended STEPs that a message may still name. -/
  ended : List Ended := []
  /-- 08 R236, R247; 1 bit; reset 0. STEP e + 1 has aborted before e ended. -/
  skipNext : Bool := false
  /-- 09 R299; 32 bits each; reset 0. malformed, rejected, mismatches, invoc_limit. -/
  malformed : Cnt := 0
  rejected : Cnt := 0
  mismatches : Cnt := 0
  invocLimit : Cnt := 0
  deriving DecidableEq, Repr

/-- The invocation states of R238. -/
inductive InvState where
  | free | armed | count | reduce | drain | done | abort
  deriving DecidableEq, Repr

/-- PARTICIPATION as a child sent it (R253). -/
structure Particip where
  digest : BitVec 64
  full : BitVec 512
  deriving DecidableEq, Repr

/-- A child of an invocation, keyed by child index: local members first, then child switches. -/
structure Child where
  /-- 09 R272; segment; reset 0. Token: every segment below it has counted. -/
  token : Nat := 0
  /-- 08 R246; segment; reset none. Drop segment d. -/
  dropped : Option Nat := none
  /-- 08 R243; count; reset none. Own count (member), or largest, smallest, members (switch). -/
  count : Option (Nat × Nat × Nat) := none
  /-- 08 R236; segment; reset none. Highest segment granted by CREDIT. -/
  limit : Option Nat := none
  /-- 09 R267; ns; reset none. When CREDIT was last sent. -/
  creditAt : Option Nat := none
  /-- 09 R267; segment; reset 0. Front when CREDIT was last sent. -/
  creditFront : Nat := 0
  /-- 08 R240; count; reset 0. n_s of the PARTIAL counted last. -/
  lastNs : Nat := 0
  /-- 08 R245; ns; reset none. When the timer (re)started running; none while held or stopped. -/
  timerFrom : Option Nat := none
  /-- 08 R245; ns; reset 0. What the timer had run when it was held. -/
  timerRan : Nat := 0
  /-- 09 R273; token; reset none. A freeze is out; the token value the lead engine knew. -/
  frozen : Option Nat := none
  /-- 08 R244; 3 bits; reset 0. MISMATCH_OP, _TYPE, _COUNT already sent. -/
  sentMismatch : BitVec 3 := 0
  /-- 08 R248; 1 bit; reset 0. LATE_DISCARD already sent. -/
  sentLate : Bool := false
  /-- 08 R252; seg, esc_count, parts; reset empty. Parts of EXACT-UP segments received so far, by
  landing identifier. -/
  parts : List (Nat × Nat × List (Nat × Nat)) := []
  /-- 08 R253; block; reset none. PARTICIPATION received. -/
  particip : Option Particip := none
  deriving DecidableEq, Repr

/-- A segment of an invocation at this switch (R271, R275). -/
structure Seg where
  /-- 09 R271; 0 to 71; reset none. The working slot of its engine that is bound. -/
  slot : Option Nat := none
  /-- 07 R201; entries; reset cleared. Basin entries of the slot. -/
  entries : List Entry := []
  /-- 07 R209; bytes; reset pad. Bitwise accumulation, and the bytes BCAST SOURCE passes. -/
  bytes : List Byte := []
  /-- 07 R224; by child; reset empty. The contributions to an EXPAND that reduces. -/
  contribs : Tab (List Byte) := []
  /-- 08 R240; child indices; reset empty. Children whose segment counted. -/
  counted : List Nat := []
  /-- 08 R240; count; reset 0. n_s. -/
  nS : Nat := 0
  /-- 08 R240; 1 bit; reset 0. Produced. -/
  produced : Bool := false
  /-- 09 R275; count; reset 0. Packets of the segment that have not left the die. -/
  leaving : Nat := 0
  /-- 09 R275; 1 bit; reset 0. Slot freed. -/
  freed : Bool := false
  /-- 08 R254; bytes; reset empty. Bytes sent for the segment. -/
  sentBytes : List Byte := []
  deriving DecidableEq, Repr

/-- An open invocation (R236 to R258, R265, R298), keyed by die*128 + record. -/
structure Inv where
  group : Nat
  step : Nat
  state : InvState
  createdAt : Nat
  /-- 11 R334; FTC; launch count of the creating message. -/
  launch : Option Nat
  /-- 11 R334; 1 bit. Its launch count was not later than the FTC at creation. -/
  launchPast : Bool := false
  /-- 11 R333, R334; 1 bit; reset none. Its launch hold has ended: by the launch count (1) or by launch_max (0). -/
  holdEnded : Option Bool := none
  /-- 11 R334; 1 bit; reset 0. Its launch time has come. -/
  launched : Bool := false
  /-- 09 R260, R266; physical engines of the plan, in logical order. -/
  engines : List Nat
  /-- 08 R255; FTC; reset 0. ftc_active. -/
  ftcActive : BitVec 64 := 0
  /-- 11 R340; 1 bit. Covered by DET_STRICT at creation. -/
  strict : Bool
  /-- 09 R266; slots reserved on each engine, in logical order. -/
  reserved : Nat
  /-- 09 R266; 1 bit. The reservation answers are still out. -/
  reserving : Bool := false
  /-- landing identifier of the creating message, which waits meanwhile -/
  creator : Nat := 0
  /-- 08 R243; count; reset none. The invocation's count. -/
  count : Option Nat := none
  /-- 08 R243; 1 bit; reset 0. COUNT sent to the parent. -/
  countSent : Bool := false
  /-- 08 R232; index; reset 0. Next step of the plan. -/
  pc : Nat := 0
  /-- 10 R310; ns; reset none. A WAIT is listed since then. -/
  waitFrom : Option Nat := none
  /-- 09 R267; segment; reset 0. Front. -/
  front : Nat := 0
  children : Tab Child := []
  segs : Tab Seg := []
  /-- 08 R236; segment; reset none. Highest segment the parent allows. -/
  parentLimit : Option Nat := none
  /-- 08 R253; 1 bit; reset 0. PARTICIPATION sent. -/
  participSent : Bool := false
  /-- 08 R255; status code; reset 0. Status of the audit record. -/
  status : Byte := 0
  /-- 08 R249; 16 bits; reset 0. Its detail. -/
  detail : BitVec 16 := 0
  /-- 08 R254; 1 bit; reset 0. The audit record waits for room in its ring. -/
  auditWaits : Bool := false
  /-- 08 R255; 32 bits each; reset 0. adaptive, drops, late_discards. -/
  adaptive : Cnt := 0
  drops : Cnt := 0
  late : Cnt := 0
  arith : Arith := {}
  /-- 08 R255; 16 bits each; reset 0. dup_segments, credit_viol, malformed, mismatches. -/
  dup : BitVec 16 := 0
  creditViol : BitVec 16 := 0
  malformed : BitVec 16 := 0
  mismatches : BitVec 16 := 0
  deriving DecidableEq, Repr

/-- A parity block with its directory entry (R287), keyed by local index within an epoch share. -/
structure PBlock where
  /-- 09 R286; 4,096 bytes. -/
  data : List Byte := []
  /-- 09 R287; 64 bits; reset 0. folded. -/
  folded : BitVec 64 := 0
  /-- 09 R287; 32 bits; reset 0. crc_acc. -/
  crcAcc : BitVec 32 := 0
  /-- 09 R287; 16 bits; reset 0. block_lo. -/
  blockLo : BitVec 16 := 0
  /-- 09 R287; 8 bits; reset 0. epoch_seq. -/
  epochSeq : BitVec 8 := 0
  /-- 09 R289; 1 bit; reset 0. Marked bad. -/
  bad : Bool := false
  /-- 15 R465; 512 bits; reset none. Slice memory key under which the block and its entry were written. -/
  key : Option (BitVec 512) := none
  deriving DecidableEq, Repr

/-- A telemetry history record (06 R186). -/
structure HistRec where
  /-- 06 R186; 32 bytes. -/
  bytes : List Byte := []
  /-- 15 R465; 512 bits; reset none. Package memory key under which it was written. -/
  key : Option (BitVec 512) := none
  deriving DecidableEq, Repr

/-- A rebuild accumulator (R284, R290), keyed by rebuild slot and block. -/
structure Accum where
  data : List Byte := []
  acc : BitVec 32 := 0
  bitmap : BitVec 64 := 0
  block : Nat := 0
  /-- 15 R465; 512 bits; reset none. Slice memory key under which the accumulator was written. -/
  key : Option (BitVec 512) := none
  deriving DecidableEq, Repr

/-- MC_STATUS[d] (R480). -/
structure MemCtl where
  /-- 16 R480; 1 bit; reset 0. trained. -/
  trained : Bool := false
  /-- 16 R480; 1 bit; reset 0. self_refresh. -/
  selfRefresh : Bool := false
  /-- 16 R480; 32 bits; reset 0. retrains. -/
  retrains : Cnt := 0
  deriving DecidableEq, Repr

/-- The element whose value a magma record holds: invocation record, segment and position (07 R203). -/
structure MagmaOwner where
  inv : Nat
  seg : Nat
  elem : Nat
  deriving DecidableEq, Repr

/-- A Caldera die, keyed by c (R259 to R299). -/
structure Caldera where
  /-- 09 R269; list; reset empty. Packets in landing. -/
  landing : List Landed := []
  /-- 07 R203, 09 R294; records 0 to 65,535; reset none. The element that owns each magma record. -/
  magma : Tab (Option MagmaOwner) := []
  /-- 09 R295; 14 bits; reset 20. magma_wait. -/
  magmaWait : BitVec 14 := 20
  /-- 09 R296; users 0 to 8. CA_INTAKE_CNT. -/
  intake : Tab IntakeCnt := []
  /-- 09 R297; 32 bits each; reset 0. blocks_folded, fold_dup, fold_crc, blocks_rebuilt. -/
  blocksFolded : Cnt := 0
  foldDup : Cnt := 0
  foldCrc : Cnt := 0
  blocksRebuilt : Cnt := 0
  /-- 10 R323; 32 bits each; reset 0. applied, discarded, overflows, wait_timeouts. -/
  sigApplied : Cnt := 0
  sigDiscarded : Cnt := 0
  sigOverflows : Cnt := 0
  waitTimeouts : Cnt := 0
  /-- 09 R276; per dst*8 + vc; reset 0. seq of the die's own packets. -/
  seqs : Tab (BitVec 32) := []
  /-- 09 R275; list; reset empty. Packets of the die's egress, oldest first. -/
  egress : List (Nat × CaPkt) := []
  /-- 09 R281; 1 bit; reset 0. The die is lost. -/
  lost : Bool := false
  /-- 09 R289, R290; key epoch*2^32 + local index. Parity blocks. -/
  parity : Tab PBlock := []
  /-- 09 R290; key rslot*2^32 + block. Accumulators. -/
  accums : Tab Accum := []
  /-- 16 R480; devices 0 to 3. -/
  mc : Tab MemCtl := []
  /-- 02 R39; 0 to 16; reset 0. Memory pacing step. -/
  pacing : Nat := 0
  deriving DecidableEq, Repr

/-! ## Counters (spec file 10) -/

/-- A waiter of a counter (R301): invocation record key, group and STEP. -/
structure Waiter where
  inv : Nat
  group : Nat
  step : Nat
  /-- 10 R301; time; ns. When it joined. -/
  joinedAt : Nat
  deriving DecidableEq, Repr

/-- A sync counter, keyed by engine*48 + index (R300, R321). -/
structure Counter where
  /-- 10 R321; 16 bits; reset 0. value. -/
  value : BitVec 16 := 0
  /-- 10 R321; 1 bit; reset 0. ovf. -/
  ovf : Bool := false
  /-- 10 R301; list; reset empty. Waiters. -/
  waiters : List Waiter := []
  /-- model, for R302; ns plus one; reset 0. When the owner last cleared the counter; 0 never. -/
  clearedAt : Nat := 0
  /-- 10 R321; 1 bit; reset 0. bound. -/
  bound : Bool := false
  /-- 10 R321; 8 bits; reset 0. slice. -/
  slice : BitVec 8 := 0
  deriving DecidableEq, Repr

/-- PK_CTR_XLAT[s, v] (R320). -/
structure Xlat where
  index : BitVec 6 := 0
  engine : BitVec 6 := 0
  valid : Bool := false
  deriving DecidableEq, Repr

/-- The copy of an installed group that every tile holds (09 R261). -/
structure PlanCopy where
  /-- 09 R261; 6 bits; reset 0. engine_first. -/
  first : Nat := 0
  /-- 09 R261; 7 bits; reset 0. engine_count; 0 where no plan is loaded. -/
  count : Nat := 0
  /-- 09 R261; 8 bits; reset 0. The group's slice. -/
  slice : Byte := 0
  deriving DecidableEq, Repr

/-- PK_ENGINE_MAP[k] (R292): stored as the difference from the identity. -/
structure EngMap where
  /-- 09 R292; 6 bits; reset k. phys XOR k. -/
  physX : BitVec 6 := 0
  /-- 09 R292; 1 bit; reset 1. valid. -/
  valid : Bool := true
  /-- 09 R292; 1 bit; reset 0. auto. -/
  auto : Bool := false
  deriving DecidableEq, Repr

/-! ## Fabric time (spec file 11) -/

/-- PK_FTC_STATUS.state (R331). -/
inductive FtcState where
  | free | acquire | locked | holdover | root
  deriving DecidableEq, Repr

/-- The FTC, PK_FTC_CTL, PK_FTC_STATUS, PK_DET_SH and PK_LAUNCH_CNT (R326 to R347). -/
structure Ftc where
  /-- 11 R326; 64 bits and 32 bits of fraction; reset 0. FTC at the moment base, in 2^-32 ns. -/
  count : Nat := 0
  /-- 11 R326; ns; reset 0. Local time at which count held. -/
  base : Nat := 0
  /-- 11 R327; signed 2^-32 ns per ns; reset 0. Rate correction. -/
  rate : Int := 0
  /-- 11 R331; 2^-32 ns per ns; reset 0. Integral part of the loop. -/
  integral : Int := 0
  /-- 02 R51; 1 bit; reset 0. CREF1 is lost and the count stands. -/
  stopped : Bool := false
  /-- 11 R343; 32 bits; reset 0. ftc_hi as latched. -/
  latched : W32 := 0
  /-- 11 R344; 1 bit; reset 0. root. -/
  root : Bool := false
  /-- 11 R344; 1 bit; reset 0. sync_en. -/
  syncEn : Bool := false
  /-- 11 R344; 1 bit; reset 0. load_pending. -/
  loadPending : Bool := false
  /-- 11 R344; 8 bits; reset 16. hop_max. -/
  hopMax : BitVec 8 := 16
  /-- 11 R344; 16 bits; reset 100. holdover_ms. -/
  holdoverMs : BitVec 16 := 100
  /-- 11 R344; 20 bits; reset 1,000. step_ns. -/
  stepNs : BitVec 20 := 1000
  /-- 11 R344; 12 bits; reset 1,000. launch_max. -/
  launchMax : BitVec 12 := 1000
  /-- 11 R344; 64 bits; reset 0. expect_root. -/
  expectRoot : BitVec 64 := 0
  /-- 11 R344; 64 bits; reset 0. load_value. -/
  loadValue : BitVec 64 := 0
  /-- 11 R344; 32 bits; reset 1,000,000,000. sync_period_ns. -/
  syncPeriod : W32 := 1000000000
  /-- 11 R345; 3 bits; reset 0x0 FREE. state. -/
  state : FtcState := .free
  /-- 11 R345; 9 bits; reset none. source_port. -/
  source : Option Nat := none
  /-- 11 R345; 9 bits; reset 0. source_port as last shown. -/
  shownSource : BitVec 9 := 0
  /-- 11 R345; 8 bits; reset 255. Advertised root_hops. -/
  hops : BitVec 8 := 255
  /-- 11 R345; 64 bits; reset 0. Advertised root_id. -/
  rootId : BitVec 64 := 0
  /-- 11 R345; 32 bits signed; reset 0. theta_ps. -/
  thetaPs : W32 := 0
  /-- 11 R345; 32 bits; reset 0. steps. -/
  steps : Cnt := 0
  /-- 11 R345; 32 bits; reset 0. sync_bad. -/
  syncBad : Cnt := 0
  /-- 11 R331; count; reset 0. Updates in a row within 2 ns (ACQUIRE) or beyond 50 ns (LOCKED). -/
  streak : Nat := 0
  /-- 11 R331; ns; reset 0. When HOLDOVER was entered. -/
  holdFrom : Nat := 0
  /-- 11 R329; FTC; reset none. The previous accepted FTC_SYNC edge. -/
  lastEdge : Option Nat := none
  /-- 11 R329; 1 bit; reset 0. An edge has been accepted since sync_en was set. -/
  edgeSeen : Bool := false
  /-- 11 R346; 1 bit; reset 0. det_strict in force. -/
  detStrict : Bool := false
  /-- 11 R346; 1 bit; reset none. Pending det_strict. -/
  detPending : Option Bool := none
  /-- 00 R9; cycle; reset none. MG_CSR cycle of the last write of det_strict, plus one. -/
  detAt : Nat := 0
  /-- 00 R9; 1 bit; reset none. What was pending before the writes of that cycle. -/
  detOld : Option Bool := none
  /-- 11 R347; 32 bits each; reset 0. launch_late, launch_mismatch, launch_far. -/
  launchLate : Cnt := 0
  launchMismatch : Cnt := 0
  launchFar : Cnt := 0
  deriving DecidableEq, Repr

/-! ## Host attach, rings, masters (spec file 12) -/

/-- A record written to a completion or event ring and not confirmed yet (R354). -/
structure RingWrite where
  ring : Nat
  index : Nat
  bytes : List Byte
  deriving DecidableEq, Repr

/-- HA_RING[r] and the running state of the ring (R357 to R362, R370, R385). -/
structure Ring where
  /-- 12 R385; 52 bits; reset 0. base, bits [63:12]. -/
  base : BitVec 52 := 0
  /-- 12 R385; 5 bits; reset 6. size_log2. -/
  sizeLog2 : Nat := 6
  /-- 12 R385; 2 bits; reset 0b00. kind. -/
  kind : BitVec 2 := 0
  /-- 12 R385; 1 bit; reset 0. check_req. -/
  checkReq : Bool := false
  /-- 12 R385; 14 bits; reset 0. cmpl_ring. -/
  cmplRing : BitVec 14 := 0
  /-- 12 R385; 11 bits; reset 0. vector. -/
  vector : BitVec 11 := 0
  /-- 12 R385; 1 bit; reset 0. int_en. -/
  intEn : Bool := false
  /-- 12 R385; 8 bits; reset 1. coalesce_count. -/
  coalCount : BitVec 8 := 1
  /-- 12 R385; 8 bits; reset 0. coalesce_us. -/
  coalUs : BitVec 8 := 0
  /-- 12 R385; 1 bit; reset 0. enable. -/
  enable : Bool := false
  /-- 12 R385; 1 bit; reset 0. err. -/
  err : Bool := false
  /-- 12 R385; 32 bits; reset 0. head. -/
  head : W32 := 0
  /-- 12 R385; 32 bits; reset 0. tail. -/
  tail : W32 := 0
  /-- 12 R353, R359; 32 bits; reset 0. Doorbell value held. -/
  doorbell : W32 := 0
  /-- 12 R359; 1 bit; reset 0. Woken: descriptors may wait. -/
  woken : Bool := false
  /-- 12 R360; first slot and count; reset none. Descriptor read in flight. -/
  fetch : Option (W32 × Nat) := none
  /-- 12 R360; count; reset 0. Completion slots reserved in this completion ring. -/
  reserved : Nat := 0
  /-- 12 R370; count; reset 0. Records not signalled yet. -/
  unsignalled : Nat := 0
  /-- 12 R370; ns; reset none. When the first of them was written. -/
  unsigFrom : Option Nat := none
  /-- 12 R362; invocation keys; reset empty. Audit records waiting for room, in order. -/
  audits : List Nat := []
  deriving DecidableEq, Repr

/-- Where a descriptor came from (R365, R372, R374, R375). -/
inductive JobSrc where
  /-- submission ring and slot index -/
  | ring (r slot : Nat)
  /-- mailbox of the master with this identifier -/
  | mbox (m : Nat)
  /-- DESC management packet of a REMOTE master: identifier, req_id, endpoint to answer, slice -/
  | mgmt (m req ep slice : Nat)
  /-- no descriptor: a PT_COMMIT that master m wrote for a tile, over its first n pending writes, and that waits for the
  operations that reached the Driant before it (04 R120) -/
  | commit (m tile n : Nat)
  deriving DecidableEq, Repr

/-- A descriptor handed to execution (R365). -/
structure Job where
  src : JobSrc
  desc : List Byte
  /-- it has started and waits for its work to end (an OPEN_EPOCH, R425) -/
  started : Bool := false
  deriving DecidableEq, Repr

/-! ## What leaves the block -/

/-- Something the Driant puts out at its boundary, newest first in State.sent. -/
inductive Sent where
  /-- a cell in a slot of a lane's frame: its 264 bytes (R67), and those bytes as they enter the FEC (R64) -/
  | cell (lane slot : Nat) (bytes line : List Byte)
  /-- a control slot in a slot of a lane's frame: its 264 bytes (R70), and those bytes as they enter the FEC (R64) -/
  | slot (lane slot : Nat) (bytes line : List Byte)
  /-- a codeword of a lane, as PAM4 levels (R62) -/
  | codeword (lane : Nat) (levels : List Nat)
  /-- a memory write to the host -/
  | hostWrite (addr : Nat) (bytes : List Byte)
  /-- a CXL.io memory read, or (line) an RdShared -/
  | hostRead (addr len : Nat) (line : Bool)
  /-- an MSI-X message -/
  | msix (vector : Nat)
  /-- the answer without data to a snoop of a doorbell line -/
  | snoopAnswer (line : Nat)
  /-- the value a register access or an I3C read returned -/
  | value (master offset : Nat) (v : W32)
  /-- an I3C NACK -/
  | nack
  /-- a VT_ALERT_N heartbeat of a die's collector -/
  | heartbeat (die : Nat)
  deriving DecidableEq, Repr

/-- An entry of the MSI-X table in BAR2/3 (12 R352, R370), by vector. -/
structure MsixEntry where
  /-- 12 R352; 64 bits; reset 0 (DESIGN CHOICE). Message address. -/
  addr : BitVec 64 := 0
  /-- 12 R352; 32 bits; reset 0 (DESIGN CHOICE). Message data. -/
  data : W32 := 0
  /-- 12 R370; 1 bit; reset 0 (DESIGN CHOICE). Masked. -/
  masked : Bool := false
  /-- 12 R370; 1 bit; reset 0. Its bit of the pending-bit array. -/
  pending : Bool := false
  deriving DecidableEq, Repr

/-- What the host sets in the configuration space of the CXL function (12 R352). -/
structure CfgSpace where
  /-- 12 R352; bits [63:30]; reset 0 (DESIGN CHOICE). BAR0/1. -/
  bar0 : BitVec 34 := 0
  /-- 12 R352; bits [63:16]; reset 0 (DESIGN CHOICE). BAR2/3. -/
  bar2 : BitVec 48 := 0
  /-- 12 R352; 2 bits; reset 0, 128 bytes (PRESUMED). Max payload size: 128, 256 or 512 bytes. -/
  maxPayload : BitVec 2 := 0
  /-- 12 R352; 3 bits; reset 2, 512 bytes (PRESUMED). Max read request size: 128 bytes to 4,096. -/
  maxRead : BitVec 3 := 2
  deriving DecidableEq, Repr

/-- The host attach (R351 to R356, R386, R387). One copy serves both units (DEDUCED, log entry 245). -/
structure HostAttach where
  /-- 12 R387; 1 bit each; reset 0. attach_failed, active_unit, a_trained, b_trained, half_rate, cache_on. -/
  attachFailed : Bool := false
  unitB : Bool := false
  aTrained : Bool := false
  bTrained : Bool := false
  halfRate : Bool := false
  cacheOn : Bool := false
  /-- 12 R353, R387; 1 bit each; reset 0. half_rate and cache_on as the module that is not active trained. -/
  standbyHalf : Bool := false
  standbyCache : Bool := false
  /-- 12 R387; 16 bits; reset 0. failovers. -/
  failovers : BitVec 16 := 0
  /-- 01 R20, R56; 1 bit; reset 0. A module has trained since the attach began. -/
  everTrained : Bool := false
  /-- 01 R20, 12 R355; 1 bit; reset 0. A failover has happened since the attach began. -/
  moved : Bool := false
  /-- 12 R355; ns; reset none. When the active module left its active state. -/
  downAt : Option Nat := none
  /-- 12 R355; trigger; reset none. A failover whose replay has not run: 1 module, 2 tile, 3 owner. -/
  replay : Option Nat := none
  /-- 12 R386; 1 bit; reset 0. evt_en. -/
  evtEn : Bool := false
  /-- 12 R386; 14 bits; reset 0. evt_ring. -/
  evtRing : BitVec 14 := 0
  /-- 12 R386; 8 bits; reset 10. db_poll_us. -/
  dbPollUs : BitVec 8 := 10
  /-- 12 R386; 52 bits; reset 0. db_base, bits [63:12]. -/
  dbBase : BitVec 52 := 0
  /-- 12 R386; 52 bits; reset 0. wb_base, bits [63:12]. -/
  wbBase : BitVec 52 := 0
  /-- 12 R386; 32 bits; reset 0. lost_records. -/
  lostRecords : Cnt := 0
  /-- 12 R386; 1 bit; reset 0. wwe. -/
  wwe : Bool := false
  /-- 12 R386; 32 bits; reset 0. read_errors. -/
  readErrors : Cnt := 0
  /-- 12 R354; at most 4,096 slots; reset empty. Unconfirmed records, oldest first. -/
  unconfirmed : List RingWrite := []
  /-- 12 R354; records waiting for room under the limit, oldest first; reset empty. -/
  delayed : List RingWrite := []
  /-- 12 R359; lines; reset none. Doorbell lines held in Shared state (1). -/
  lines : Tab Nat := []
  /-- 12 R352; vectors 0 to 2,047; reset 0. MSI-X table and pending-bit array. -/
  msix : Tab MsixEntry := []
  cfg : CfgSpace := {}
  /-- 12 R351; ns; reset 0. When the doorbell lines were last read by CXL.io. -/
  pollAt : Nat := 0
  /-- 12 R355; in order; reset empty. What waits to leave while the active module retrains. -/
  outbox : List Sent := []
  /-- 12 R360; ring; reset 0. Where the cyclic visit of waiting rings stands. -/
  visit : Nat := 0
  deriving DecidableEq, Repr

/-- What is held separately for each master (R372, R375 to R377, R388, R390, R477), keyed by its
identifier. -/
structure MasterState where
  /-- 12 R388; 64 bits; reset 0. nonce. -/
  nonce : BitVec 64 := 0
  /-- 12 R388; 8 bits; reset 1. priority. -/
  priority : BitVec 8 := 1
  /-- 12 R388; 3 bits; reset 0. claim_result. -/
  claimResult : BitVec 3 := 0
  /-- 12 R388; 32 bits; reset 0. refused_writes. -/
  refused : Cnt := 0
  /-- 12 R377; nonce and priority; reset empty. Its claims in the open window. -/
  entered : List (BitVec 64 × BitVec 8) := []
  /-- 12 R390; 64 bytes; reset 0. PK_MBOX.desc. -/
  mboxDesc : Mem := []
  /-- 12 R390; 64 bytes; reset 0. PK_MBOX.cmpl. -/
  mboxCmpl : Mem := []
  /-- 12 R390; 1 bit; reset 0. busy. -/
  mboxBusy : Bool := false
  /-- 12 R390; 1 bit; reset 0. dropped. -/
  mboxDropped : Bool := false
  /-- 12 R390; 64 KiB; reset 0. PK_STAGE. -/
  stage : Mem := []
  /-- 16 R477; 1 bit each, 8 and 16 bits; reset 0. PK_ACC_STATUS. -/
  unreachable : Bool := false
  badAccess : Bool := false
  accDie : BitVec 8 := 0
  accCount : BitVec 16 := 0
  /-- 15 R466; 64 bits each; reset 0. Management counters: last accepted, last sent. -/
  mgmtRx : Nat := 0
  mgmtTx : Nat := 0
  /-- 15 R462; 256 bits; reset none. Management key of the slot. -/
  mgmtKey : Option (BitVec 256) := none
  /-- 15 R460; digests; reset empty. Last four signed message digests of the connection. -/
  digests : List (List Byte) := []
  /-- 15 R459; messages; reset empty. Requests and responses of the SPDM connection, oldest first. -/
  conn : List (List Byte) := []
  deriving DecidableEq, Repr

/-- Ownership (R377 to R379, R389). -/
structure Ownership where
  /-- 12 R389; 8 bits; reset 0x00. owner. -/
  owner : Nat := 0
  /-- 12 R389; 8 bits; reset 0. priority. -/
  priority : BitVec 8 := 0
  /-- 12 R377; 64 bits; reset 0. The owner's nonce. -/
  nonce : BitVec 64 := 0
  /-- 12 R377, R389; ns; reset none. When the election window opened (window_open). -/
  windowAt : Option Nat := none
  /-- 12 R378; ns; reset 0. When the lease started or was renewed. -/
  leaseAt : Nat := 0
  /-- 12 R379, R389; id and ns; reset none. successor and when it was named. -/
  successor : Option (Nat × Nat) := none
  /-- 12 R380; id and MG_CSR cycle; reset none. The owner until a change, whose writes of that cycle still apply. -/
  late : Option (Nat × Nat) := none
  deriving DecidableEq, Repr

/-! ## Recovery (spec file 14) -/

/-- The epoch states of R427. -/
inductive EpochState where
  | empty | folding | complete | incomplete
  deriving DecidableEq, Repr

/-- One epoch of a parity group (R425 to R428). -/
structure Epoch where
  /-- 14 R446; 2 bits; reset 0 EMPTY. state. -/
  state : EpochState := .empty
  /-- 14 R446; 8 bits; reset 0. epoch_seq. -/
  seq : BitVec 8 := 0
  /-- 14 R446; 8 bits; reset 0. live list, bit c for C(c). -/
  live : BitVec 8 := 0
  /-- 14 R426; first local index and length; reset none. Region. -/
  region : Option (Nat × Nat) := none
  /-- 14 R446; 32 bits; reset 0. full. -/
  full : Nat := 0
  /-- 14 R428; FTC; reset none. FTC of the first FOLD accepted. -/
  firstFold : Option Nat := none
  /-- 14 R425; 1 bit; reset 0. The region is being allocated and cleared. -/
  opening : Bool := false
  /-- 15 R465; 512 bits; reset none. Slice memory key under which the region's directory entries were cleared. -/
  clearedKey : Option (BitVec 512) := none
  /-- 14 R431; count; reset 0. Order number of the opening, to find the epoch opened later. -/
  order : Nat := 0
  deriving DecidableEq, Repr

/-- A parity group (R424, R446), keyed 0 to 15. -/
structure PGroup where
  /-- 14 R446; 1 bit; reset 0. defined. -/
  defined : Bool := false
  /-- 14 R446; 8 bits; reset 0. slice. -/
  slice : BitVec 8 := 0
  /-- 14 R424; endpoints of members 0 to 63; reset empty. -/
  members : List (BitVec 16) := []
  /-- 14 R446; 32 bits; reset 0. blocks. -/
  blocks : Nat := 0
  /-- 14 R425; 8 bits; reset 0. Sequence counter. -/
  seqCtr : BitVec 8 := 0
  epochA : Epoch := {}
  epochB : Epoch := {}
  /-- 14 R446; 64 bits; reset 0. failed. -/
  failed : BitVec 64 := 0
  deriving DecidableEq, Repr

/-- A rebuild slot (R431, R432, R447), keyed 0 to 3. -/
structure Rebuild where
  /-- 14 R447; fields; reset 0. -/
  active : Bool := false
  pgroup : Nat := 0
  member : Nat := 0
  epochB : Bool := false
  epochSeq : BitVec 8 := 0
  spareEp : BitVec 16 := 0
  windowFirst : Nat := 0
  windowLen : Nat := 0
  blocksSent : Cnt := 0
  blocksBad : Cnt := 0
  status : Byte := 0
  detail : Byte := 0
  restarts : BitVec 16 := 0
  /-- 14 R432; 1 bit; reset 0. The window's accumulators are loaded and FEED_REQ sent. -/
  loaded : Bool := false
  /-- 14 R432; ns; reset 0. When a FEED last counted or the window started. -/
  feedAt : Nat := 0
  /-- 14 R432; blocks; reset 0. Blocks of the window sent or skipped. -/
  doneInWindow : Nat := 0
  deriving DecidableEq, Repr

/-- PK_REC_SPARE[k] (R448). -/
structure Spare where
  /-- 14 R448; 16 bits; reset 0xFFFF. -/
  ep : BitVec 16 := 0xFFFF
  valid : Bool := false
  inUse : Bool := false
  failed : Bool := false
  deriving DecidableEq, Repr

/-- The recovery sequencer (R429 to R449). -/
structure Recovery where
  /-- 14 R444; PK_REC_CTL; resets as R444. -/
  parityEp : BitVec 16 := 0xFFFF
  buddyEp : BitVec 16 := 0xFFFF
  mirrorSrc : BitVec 16 := 0xFFFF
  recSlice : BitVec 8 := 0
  autoRebuild : Bool := false
  failHoldMs : BitVec 16 := 500
  hbMs : BitVec 16 := 100
  lambdaH : BitVec 14 := 168
  feedMs : BitVec 16 := 1000
  tauMin : W32 := 300
  tauMax : W32 := 14400
  /-- 14 R445; PK_REC_STATUS; reset 0. -/
  tauMs : Nat := 0
  foldMs : Nat := 0
  buddySilent : Bool := false
  foldBad : Cnt := 0
  foldStale : Cnt := 0
  ledgerSeq : W32 := 0
  mirrorSeq : W32 := 0
  mirrorGaps : Cnt := 0
  /-- 14 R430; 64 buckets, newest first; reset empty. Declared failures of each bucket. -/
  buckets : List Nat := []
  /-- 14 R430; ns; reset 0. When the newest bucket began. -/
  bucketAt : Nat := 0
  /-- 14 R430; ms; reset 0. Last interval posted. -/
  postedTau : Nat := 0
  groups : Tab PGroup := []
  rebuilds : Tab Rebuild := []
  spares : Tab Spare := []
  /-- 14 R431; pgroup and member; reset empty. Automatic rebuilds that wait. -/
  waiting : List (Nat × Nat) := []
  /-- 14 R449; 1,024 of 64 bytes; reset zero. PK_LEDGER. -/
  ledger : Tab (List Byte) := []
  /-- 14 R449; 1,024 of 64 bytes; reset zero. PK_MIRROR. -/
  mirror : Tab (List Byte) := []
  /-- 14 R437; ns; reset 0. When the last heartbeat was written. -/
  heartbeatAt : Nat := 0
  /-- 14 R439; ns; reset 0. When the last LEDGER arrived. -/
  ledgerAt : Nat := 0
  /-- 14 R439; 1 bit; reset 0. A LEDGER has arrived since the reset that cleared the mirror. -/
  ledgerSeen : Bool := false
  /-- 14 R429; by port; reset none. When a port last left ACTIVE, while it is out of it. -/
  outSince : Tab (Option Nat) := []
  /-- 14 R431; count; reset 0. Epoch openings so far. -/
  opens : Nat := 0
  deriving DecidableEq, Repr

/-! ## Trust and the image store (spec file 15) -/

/-- An SPDM session (R459). -/
structure Session where
  id : Nat
  /-- master path that opened it -/
  master : Nat
  /-- 15 R459, R463; key of the request direction -/
  key : BitVec 256
  /-- 15 R459; key of the response direction -/
  rspKey : BitVec 256 := 0
  /-- 15 R463; count; reset 0. DSP0277 record sequence numbers of the two directions. -/
  seqIn : Nat := 0
  seqOut : Nat := 0
  /-- 15 R459; 1 bit; reset 0. FINISH has opened it. -/
  opened : Bool := false
  /-- heartbeat period in seconds, 0 for none -/
  period : Nat
  lastAt : Nat
  deriving DecidableEq, Repr

/-- TR_IS_UPD (R471) and the operation in progress. -/
structure IsUpd where
  op : BitVec 4 := 0
  copyB : Bool := false
  region : BitVec 5 := 0
  go : Bool := false
  offset : W32 := 0
  length : BitVec 21 := 0
  result : BitVec 4 := 0
  /-- the result the operation in progress will post -/
  pendingResult : BitVec 4 := 0
  deriving DecidableEq, Repr

/-- One image store die (R452, R479). -/
structure ImageDie where
  /-- 15 R452; 256 MiB; kept by every reset. Contents; an unlisted byte reads 0xFF (erased). -/
  flash : Mem := []
  /-- 15 R469; 1 bit; kept by every reset. The operator key record has been sealed. -/
  opSealed : Bool := false
  /-- 16 R479; 1 bit; reset 0. ready. -/
  ready : Bool := false
  /-- 16 R479; 1 bit; reset 0. busy. -/
  busy : Bool := false
  /-- 16 R479; 32 bits; reset 0. prog_errors. -/
  progErrors : Cnt := 0
  /-- 16 R479; 32 bits; reset 0. max_erase. -/
  maxErase : W32 := 0
  deriving DecidableEq, Repr

/-- The trust state of TD (R456 to R472). -/
structure Trust where
  /-- 15 R472; 1 bit; reset 0. identity_ok. -/
  identityOk : Bool := false
  /-- 15 R457; 32 bytes; reset none. Root secret. -/
  rootSecret : Option (List Byte) := none
  /-- 15 R458; 40 bits; reset 0. LMS next. -/
  lmsNext : Nat := 0
  /-- 15 R458; count; reset 0. LMS seq. -/
  lmsSeq : Nat := 0
  /-- 15 R472; 1 bit; reset 0. lms_ok. -/
  lmsOk : Bool := false
  /-- 15 R459; at most 8; reset empty. SPDM sessions. -/
  sessions : List Session := []
  /-- 15 R459; count; reset 1. Next session identifier. -/
  nextSession : Nat := 1
  /-- 15 R472; 32 bits; reset 0. mgmt_auth_fail. -/
  mgmtAuthFail : Cnt := 0
  /-- 15 R462; 512 bits per slice; reset none. Slice memory keys; generated (false) or installed. -/
  sliceKeys : Tab (Option (BitVec 512 × Bool)) := []
  /-- 15 R462; 512 bits; reset none. Package memory key. -/
  pkgKey : Option (BitVec 512) := none
  /-- 15 R472; 128 bits; reset drawn at boot. TR_DEBUG.nonce. -/
  nonce : BitVec 128 := 0
  /-- 15 R472; 3 bits; reset 0. scope. -/
  scope : BitVec 3 := 0
  /-- 15 R470; 1 bit; reset 0. Debug is open. -/
  debugOpen : Bool := false
  /-- 15 R472; 4 bits; reset 0. result. -/
  debugResult : BitVec 4 := 0
  /-- 15 R461; digests by index 1 to 12; reset empty. Measurement blocks. -/
  measurements : Tab (List Byte) := []
  /-- 15 R454; bytes 0 to 127; reset empty. Security-version record in use. -/
  svr : List Byte := []
  /-- 15 R455; 4 KiB; reset empty. Operator key record in use; empty when none is present. -/
  opRec : List Byte := []
  /-- 15 R469; 1 MiB; reset 0. Staging window. -/
  staging : Mem := []
  upd : IsUpd := {}
  deriving DecidableEq, Repr

/-! ## The state -/

/-- The package-level registers that belong to no other structure. -/
structure Package where
  /-- 16 R476; 16 bytes; reset 0. order_code. -/
  orderCode : List Byte := []
  /-- 16 R476; 64 bits; reset 0. package_serial. -/
  serial : BitVec 64 := 0
  /-- 16 R476; 2 bits; reset 0b00. variant. -/
  variant : BitVec 2 := 0
  /-- 04 R131; 16 bits; reset 0xFFFF. self_ep, the same on all tiles. -/
  selfEp : BitVec 16 := 0xFFFF
  /-- 01 R16, R17; 2 bits; reset 0. TD.S0 and TD.S1 that stay unusable after repair. -/
  mgmtFailed : BitVec 2 := 0
  /-- 09 R292; 1 bit; reset 0. PK_ENGINE_CTL.dropped. -/
  mapDropped : Bool := false
  /-- 10 R319; 1 bit; reset 0 VIRTUAL. PK_CTR_CFG.mode DIRECT. -/
  direct : Bool := false
  /-- 10 R319; 1 bit; reset 0. PK_CTR_CTL.dropped. -/
  xlatDropped : Bool := false
  /-- 09 R283; device bytes; reset defaults. Partition sizes: epoch A, epoch B, reservoir, history. -/
  partA : Nat := 40802189312
  partB : Nat := 40802189312
  partRes : Nat := 17179869184
  partHist : Nat := 4294967296
  /-- 06 R186; key tile*2^32 + index; reset none. Telemetry history records. -/
  history : Tab HistRec := []
  /-- 15 R462, R465; 512 bits; reset none. Package memory key under which GDDR7 was written to zero. -/
  zeroKey : Option (BitVec 512) := none
  deriving DecidableEq, Repr

/-- The Driant: plain data. A table is sparse: an index it does not list holds the default record,
whose fields are the reset values. -/
structure State where
  /-- model; the commands that wait, first in first out; reset empty. -/
  pending : List Instr := []
  /-- model; ns; reset 0. Time of the last command. -/
  now : Nat := 0
  /-- model; count; reset 0. Free values drawn so far (Config.freeWord). -/
  freeIx : Nat := 0
  /-- model; identifiers; reset 0. Next identifier of an ingress, landed or Caldera packet. -/
  nextId : Nat := 0
  /-- model; newest first; reset empty. What left the block (DESIGN CHOICE: log entry 8). -/
  sent : List Sent := []
  pins : Pins := {}
  float : FloatState := {}
  boot : Boot := {}
  rstCtl : ResetCtl := {}
  rstStatus : ResetStatus := {}
  therm : Therm := {}
  vent : VentState := {}
  pkg : Package := {}
  /-- by die number 0 to 103 -/
  dies : Tab Die := []
  /-- by lane die 0 to 31 -/
  laneDies : Tab LaneDie := []
  /-- by lane 0 to 511 -/
  lanes : Tab Lane := []
  /-- by port number 0 to 511 -/
  ports : Tab Port := []
  routing : Routing := {}
  /-- ingress packets, by identifier -/
  inPkts : Tab (Option InPkt) := []
  pktCnt : Tab PktCnt := []
  portCfg : Tab PortCfg := []
  keys : Tab PortKeys := []
  fabric : Fabric := {}
  /-- by tile 0 to 15 -/
  tiles : Tab Tile := []
  /-- 02 R44; by tile; reset 0. Admitted ingress rate in 1/32 of full. -/
  admitted : Tab Nat := []
  hodPort : Tab HodPortCfg := []
  portCnt : Tab PortCnt := []
  sched : Tab SchedCfg := []
  fqCfg : Tab FqCfg := []
  fqRun : Tab FqRun := []
  /-- 06 R191; by port*4096 + position; reset 0. PT_CAL_SH as committed last: fq and valid. -/
  calSh : Tab (Nat × Bool) := []
  out : Tab OutPort := []
  /-- by Caldera die 0 to 7 -/
  calderas : Tab Caldera := []
  /-- by physical engine 0 to 63 -/
  engines : Tab Engine := []
  engMap : Tab EngMap := []
  /-- 09 R261; 6 bits each; reset k. The tiles' copy of PK_ENGINE_MAP. -/
  copyMap : Tab EngMap := []
  /-- 09 R261; by group; reset 0. The tiles' copies of the installed groups' plans. -/
  copyPlans : Tab PlanCopy := []
  /-- by group 0 to 16,383 -/
  groups : Tab Group := []
  /-- by die*128 + record -/
  invs : Tab (Option Inv) := []
  /-- by engine*48 + index -/
  counters : Tab Counter := []
  /-- by slice*48 + v -/
  xlat : Tab Xlat := []
  /-- 10 R303; engine*48 + index; reset empty. Signals on their way to a counter's engine. -/
  signals : List Nat := []
  ftc : Ftc := {}
  /-- 11 R348; by slice. PK_NDET_SLICE. -/
  ndetSlice : Tab Cnt := []
  /-- 12 R374; header source, payload; reset empty. Verified management requests, oldest first:
  master, source endpoint, slice, payload without the trailer. -/
  mgmtIn : List (Nat × Nat × Nat × List Byte) := []
  /-- 11 R339; group, STEP, slice; reset empty. Adaptive choices being reported. -/
  reports : List (Nat × Nat × Nat) := []
  host : HostAttach := {}
  /-- by ring 0 to 16,383 -/
  rings : Tab Ring := []
  jobs : List Job := []
  /-- by master identifier -/
  masters : Tab MasterState := []
  own : Ownership := {}
  recov : Recovery := {}
  trust : Trust := {}
  is0 : ImageDie := {}
  is1 : ImageDie := {}
  /-- 00 R9; by W1C bit; reset none. When hardware last set the bit, in ns plus one: keys of Ops. -/
  setAt : Tab Nat := []
  deriving DecidableEq, Repr


/-- Why a step stops. -/
inductive Fault where
  /-- Raised by a command whose operands lie outside the ranges the spec gives them (a lane above
  511, a die number above 103): no such event exists. Safe: the machine stops. -/
  | illFormed
  deriving DecidableEq, Repr

/-- Why a step has no meaning. -/
inductive Refusal where
  /-- Raised by an arm of exec whose meaning is not written yet. Safe. -/
  | notModelled (mnemonic : String)
  deriving DecidableEq, Repr

/-- The block right after package reset (R10, R52): every field at its reset value. State that is no register
starts empty, absent or zero (DESIGN CHOICE: log entry 3). -/
def State.reset : State := {}

/-- The outcome of a command. -/
abbrev Out := Host.Outcome State Fault Refusal

end Sys2Proof.Machine
end

