-- ==== Sys2Proof/Machine/Access.lean ====
section
/-! DEFINITION. Reading and changing one entry of each table of the state. -/

namespace Sys2Proof.Machine

/-- The die with number k (R12). -/
def State.die (s : State) (k : Nat) : Die := tget ({} : Die) s.dies k

/-- Change it: The die with number k (R12). -/
def State.modDie (s : State) (k : Nat) (f : Die → Die) : State :=
  { s with dies := tmod ({} : Die) s.dies k f }

/-- Lane die L(k). -/
def State.laneDie (s : State) (k : Nat) : LaneDie := tget ({} : LaneDie) s.laneDies k

/-- Change it: Lane die L(k). -/
def State.modLaneDie (s : State) (k : Nat) (f : LaneDie → LaneDie) : State :=
  { s with laneDies := tmod ({} : LaneDie) s.laneDies k f }

/-- Lane k. -/
def State.lane (s : State) (k : Nat) : Lane := tget ({} : Lane) s.lanes k

/-- Change it: Lane k. -/
def State.modLane (s : State) (k : Nat) (f : Lane → Lane) : State :=
  { s with lanes := tmod ({} : Lane) s.lanes k f }

/-- The port whose first lane is k. -/
def State.port (s : State) (k : Nat) : Port := tget ({} : Port) s.ports k

/-- Change it: The port whose first lane is k. -/
def State.modPort (s : State) (k : Nat) (f : Port → Port) : State :=
  { s with ports := tmod ({} : Port) s.ports k f }

/-- The ingress packet with identifier k. -/
def State.inPkt (s : State) (k : Nat) : Option InPkt := tget (none : Option InPkt) s.inPkts k

/-- Change it: The ingress packet with identifier k. -/
def State.modInPkt (s : State) (k : Nat) (f : Option InPkt → Option InPkt) : State :=
  { s with inPkts := tmod (none : Option InPkt) s.inPkts k f }

/-- PT_PKT_CNT of port k. -/
def State.pktCntOf (s : State) (k : Nat) : PktCnt := tget ({} : PktCnt) s.pktCnt k

/-- Change it: PT_PKT_CNT of port k. -/
def State.modPktCntOf (s : State) (k : Nat) (f : PktCnt → PktCnt) : State :=
  { s with pktCnt := tmod ({} : PktCnt) s.pktCnt k f }

/-- PT_PORT_SH of port k, in force. -/
def State.cfg (s : State) (k : Nat) : PortCfg := tget ({} : PortCfg) s.portCfg k

/-- Change it: PT_PORT_SH of port k, in force. -/
def State.modCfg (s : State) (k : Nat) (f : PortCfg → PortCfg) : State :=
  { s with portCfg := tmod ({} : PortCfg) s.portCfg k f }

/-- The keys of port k. -/
def State.portKeys (s : State) (k : Nat) : PortKeys := tget ({} : PortKeys) s.keys k

/-- Change it: The keys of port k. -/
def State.modPortKeys (s : State) (k : Nat) (f : PortKeys → PortKeys) : State :=
  { s with keys := tmod ({} : PortKeys) s.keys k f }

/-- Tile T(k). -/
def State.tile (s : State) (k : Nat) : Tile := tget ({} : Tile) s.tiles k

/-- Change it: Tile T(k). -/
def State.modTile (s : State) (k : Nat) (f : Tile → Tile) : State :=
  { s with tiles := tmod ({} : Tile) s.tiles k f }

/-- PT_HOD_PORT_SH and PT_FENCE_SH of port k, in force. -/
def State.hodCfg (s : State) (k : Nat) : HodPortCfg := tget ({} : HodPortCfg) s.hodPort k

/-- Change it: PT_HOD_PORT_SH and PT_FENCE_SH of port k, in force. -/
def State.modHodCfg (s : State) (k : Nat) (f : HodPortCfg → HodPortCfg) : State :=
  { s with hodPort := tmod ({} : HodPortCfg) s.hodPort k f }

/-- PT_HOD_CNT and PT_NDET_CNT of port k. -/
def State.portCntOf (s : State) (k : Nat) : PortCnt := tget ({} : PortCnt) s.portCnt k

/-- Change it: PT_HOD_CNT and PT_NDET_CNT of port k. -/
def State.modPortCntOf (s : State) (k : Nat) (f : PortCnt → PortCnt) : State :=
  { s with portCnt := tmod ({} : PortCnt) s.portCnt k f }

/-- PT_SCHED_PORT_SH of port k, in force. -/
def State.schedOf (s : State) (k : Nat) : SchedCfg := tget ({} : SchedCfg) s.sched k

/-- Change it: PT_SCHED_PORT_SH of port k, in force. -/
def State.modSchedOf (s : State) (k : Nat) (f : SchedCfg → SchedCfg) : State :=
  { s with sched := tmod ({} : SchedCfg) s.sched k f }

/-- PT_FQ_SH of flow queue k = tile*4096 + q, in force. -/
def State.fq (s : State) (k : Nat) : FqCfg := tget ({} : FqCfg) s.fqCfg k

/-- Change it: PT_FQ_SH of flow queue k = tile*4096 + q, in force. -/
def State.modFq (s : State) (k : Nat) (f : FqCfg → FqCfg) : State :=
  { s with fqCfg := tmod ({} : FqCfg) s.fqCfg k f }

/-- The running state of flow queue k = tile*4096 + q. -/
def State.fqr (s : State) (k : Nat) : FqRun := tget ({} : FqRun) s.fqRun k

/-- Change it: The running state of flow queue k = tile*4096 + q. -/
def State.modFqr (s : State) (k : Nat) (f : FqRun → FqRun) : State :=
  { s with fqRun := tmod ({} : FqRun) s.fqRun k f }

/-- The egress side of port k. -/
def State.outPort (s : State) (k : Nat) : OutPort := tget ({} : OutPort) s.out k

/-- Change it: The egress side of port k. -/
def State.modOutPort (s : State) (k : Nat) (f : OutPort → OutPort) : State :=
  { s with out := tmod ({} : OutPort) s.out k f }

/-- Caldera die C(k). -/
def State.caldera (s : State) (k : Nat) : Caldera := tget ({} : Caldera) s.calderas k

/-- Change it: Caldera die C(k). -/
def State.modCaldera (s : State) (k : Nat) (f : Caldera → Caldera) : State :=
  { s with calderas := tmod ({} : Caldera) s.calderas k f }

/-- Physical engine k. -/
def State.engine (s : State) (k : Nat) : Engine := tget ({} : Engine) s.engines k

/-- Change it: Physical engine k. -/
def State.modEngine (s : State) (k : Nat) (f : Engine → Engine) : State :=
  { s with engines := tmod ({} : Engine) s.engines k f }

/-- PK_ENGINE_MAP[k]. -/
def State.emap (s : State) (k : Nat) : EngMap := tget ({} : EngMap) s.engMap k

/-- Change it: PK_ENGINE_MAP[k]. -/
def State.modEmap (s : State) (k : Nat) (f : EngMap → EngMap) : State :=
  { s with engMap := tmod ({} : EngMap) s.engMap k f }

/-- Group k. -/
def State.group (s : State) (k : Nat) : Group := tget ({} : Group) s.groups k

/-- Change it: Group k. -/
def State.modGroup (s : State) (k : Nat) (f : Group → Group) : State :=
  { s with groups := tmod ({} : Group) s.groups k f }

/-- The invocation record k = die*128 + record. -/
def State.inv (s : State) (k : Nat) : Option Inv := tget (none : Option Inv) s.invs k

/-- Change it: The invocation record k = die*128 + record. -/
def State.modInv (s : State) (k : Nat) (f : Option Inv → Option Inv) : State :=
  { s with invs := tmod (none : Option Inv) s.invs k f }

/-- Sync counter k = engine*48 + index. -/
def State.ctr (s : State) (k : Nat) : Counter := tget ({} : Counter) s.counters k

/-- Change it: Sync counter k = engine*48 + index. -/
def State.modCtr (s : State) (k : Nat) (f : Counter → Counter) : State :=
  { s with counters := tmod ({} : Counter) s.counters k f }

/-- PK_CTR_XLAT entry k = slice*48 + v. -/
def State.xl (s : State) (k : Nat) : Xlat := tget ({} : Xlat) s.xlat k

/-- Change it: PK_CTR_XLAT entry k = slice*48 + v. -/
def State.modXl (s : State) (k : Nat) (f : Xlat → Xlat) : State :=
  { s with xlat := tmod ({} : Xlat) s.xlat k f }

/-- Ring k. -/
def State.ring (s : State) (k : Nat) : Ring := tget ({} : Ring) s.rings k

/-- Change it: Ring k. -/
def State.modRing (s : State) (k : Nat) (f : Ring → Ring) : State :=
  { s with rings := tmod ({} : Ring) s.rings k f }

/-- What is held for the master with identifier k. -/
def State.master (s : State) (k : Nat) : MasterState := tget ({} : MasterState) s.masters k

/-- Change it: What is held for the master with identifier k. -/
def State.modMaster (s : State) (k : Nat) (f : MasterState → MasterState) : State :=
  { s with masters := tmod ({} : MasterState) s.masters k f }

end Sys2Proof.Machine
end

