-- ==== Sys2Proof/Machine/Codes.lean ====
section
/-! DEFINITION. Numbers the spec gives names: status codes (12 R384), die numbers (01 R12, R13),
master identifiers (12 R372) and fault source indices (13 R401). -/

namespace Sys2Proof.Machine

namespace St
def ok : Byte := 0x00
def okDropped : Byte := 0x01
def mismatchOp : Byte := 0x10
def mismatchType : Byte := 0x11
def mismatchCount : Byte := 0x12
def stepSkew : Byte := 0x13
def notMember : Byte := 0x14
def groupBad : Byte := 0x15
def memberTimeout : Byte := 0x20
def lateDiscard : Byte := 0x21
def calderaLost : Byte := 0x22
def invocLimit : Byte := 0x23
def magmaFull : Byte := 0x24
def waitTimeout : Byte := 0x25
def routeConflict : Byte := 0x30
def sliceViolation : Byte := 0x31
def counterOvf : Byte := 0x40
def counterResidue : Byte := 0x41
def fenceBroken : Byte := 0x42
def parityUnavailable : Byte := 0x50
def parityBad : Byte := 0x51
def rebuildBusy : Byte := 0x52
def versionRefused : Byte := 0x60
def wiringMismatch : Byte := 0x61
def writeWhileEnabled : Byte := 0x70
def notOwner : Byte := 0x71
def commitRefused : Byte := 0x72
def badDescriptor : Byte := 0x73
def descCheck : Byte := 0x74
def hostReadErr : Byte := 0x75
def badTarget : Byte := 0x76
def busy : Byte := 0x77
def keyRefused : Byte := 0x80
def authFail : Byte := 0x81
def attestFail : Byte := 0x82
end St

/-- Event codes of 12 R369. -/
def evGcmExhausted : Nat := 0x90
def evOwnerChanged : Nat := 0x91
def evFailover : Nat := 0x92
def evVent : Nat := 0x93
def evInterval : Nat := 0x94
def evFoldDone : Nat := 0x95
def evRebuildDone : Nat := 0x96
def evMemberFailed : Nat := 0x97

/-- Clock numbers beyond the domains of 02 R48: LREF, CREF0, CREF1. -/
def clkRef : Nat := 25
def clkCref0 : Nat := 26
def clkCref1 : Nat := 27

/-- Die numbers (01 R12). -/
def dieTD : Nat := 1
def dieTile (t : Nat) : Nat := 4 + t
def diePlane (p : Nat) : Nat := 20 + p
def dieCaldera (c : Nat) : Nat := 28 + c
def dieLane (n : Nat) : Nat := 36 + n
def dieH : Nat := 68
def dieMem (m : Nat) : Nat := 72 + m

/-- The kinds of die that 13 R401 tells apart. -/
inductive DieKind where
  | none | td | is | tile | plane | caldera | lane
  deriving DecidableEq, Repr

/-- The kind of the die with number d (01 R12). -/
def dieKind (d : Nat) : DieKind :=
  if d = 1 then .td else if d = 2 ∨ d = 3 then .is
  else if 4 ≤ d ∧ d < 20 then .tile else if 20 ≤ d ∧ d < 28 then .plane
  else if 28 ≤ d ∧ d < 36 then .caldera else if 36 ≤ d ∧ d < 68 then .lane else .none

/-- The tile that serves lane or port k (01 R13). -/
def tileOf (k : Nat) : Nat := k / 32

/-- The lane die that carries lane or port k (01 R13). -/
def laneDieOf (k : Nat) : Nat := k / 16

/-- Masters (12 R372). -/
def mHost : Nat := 0x01
def mBmc : Nat := 0x02
def mRemote (k : Nat) : Nat := 0x10 + k

/-- The identifiers of the masters (12 R372). -/
def masterIds : List Nat := [0x01, 0x02, 0x10, 0x11, 0x12, 0x13]

/-- The master is one of R372. -/
def isMaster (m : Nat) : Bool := masterIds.contains m

/-- The master is one of REMOTE0 to REMOTE3. -/
def isRemote (m : Nat) : Bool := decide (0x10 ≤ m) && decide (m ≤ 0x13)

/-- Fault sources (13 R401). -/
def srcVtSelf : Nat := 0
def srcClkLoss : Nat := 1
def srcCfgParity : Nat := 2
def srcD2dFail : Nat := 3
def srcSymCe : Nat := 4
def srcHodUe : Nat := 8
def srcRtUe : Nat := 9
def srcPoolPtr : Nat := 10
def srcHdrParity : Nat := 11
def srcGcrcRel : Nat := 12
def srcGcrcEgr : Nat := 13
def srcFabCrc : Nat := 14
def srcRtConfirm : Nat := 15
def srcHaFail : Nat := 16
def srcFabCredit : Nat := 8
def srcEngResidue (e : Nat) : Nat := 8 + e
def srcEngUe (e : Nat) : Nat := 16 + e
def srcSharedUe : Nat := 24
def srcCaIntake : Nat := 25
def srcParityStore : Nat := 26
def srcMemUe : Nat := 27
def srcMemLink : Nat := 28
def srcCaFabCrc : Nat := 29
def srcCaRtConfirm : Nat := 30
def srcPcsUe : Nat := 8
def srcThermHigh : Nat := 8
def srcThermTrip : Nat := 9
def srcThermSensor : Nat := 10
def srcAggLost : Nat := 11
def srcIsErr : Nat := 12

/-- Die numbers that R12 assigns, and 0 for the package record (01 R12). -/
def assignedDies : List Nat := (List.range 104).filter (fun n => decide (n ≤ 68 ∨ 72 ≤ n))

/-- The die has a module with this number: tiles T0 and T8 have U24 to the host site and S0, numbered 25
here, to TD; the host site has H.A 0 and H.B 1; TD has S0 0 and S1 1. -/
def moduleExists (d u : Nat) : Bool :=
  match dieKind d with
  | .plane => decide (u < 48)
  | .caldera => decide (u < 16)
  | .lane => decide (u < 4)
  | .td => decide (u < 2)
  | .tile => decide (u < 24) || ((d == 4 || d == 12) && decide (u < 26))
  | _ => d == 68 && decide (u < 2)

/-- What the collector of die d holds in two copies: sticky bits, enables, timers and isolation state, and on TD its
aggregate registers (13 R407; Die.copyDiff). -/
def heldTwice (d bit : Nat) : Bool := decide (bit < 224) || (dieKind d == .td && decide (256 ≤ bit ∧ bit < 512))

/-- The source that an uncorrectable row of a memory raises: on a tile, memory 0 is Hod and 1 the route,
set and slice tables; on a Caldera die, e the working banks of engine e, 8 the landing and magma banks,
9 GDDR7; on a lane die, 0 the PCS and replay buffers. -/
def skimSource (d where_ : Nat) : Option Nat :=
  match dieKind d with
  | .tile => if where_ = 0 then some srcHodUe else if where_ = 1 then some srcRtUe else none
  | .caldera =>
    if where_ < 8 then some (srcEngUe where_) else if where_ = 8 then some srcSharedUe
    else if where_ = 9 then some srcMemUe else none
  | .lane => if where_ = 0 then some srcPcsUe else none
  | _ => none

/-- The dies that have a sensor: every Gulvohan die, with the die at the host site (13 R401), and every GDDR7 device
(01 R28). DEDUCED: log entry 257. -/
def hasSensor (n : Nat) : Bool := decide (1 ≤ n ∧ n ≤ 68) || decide (72 ≤ n ∧ n ≤ 103)

end Sys2Proof.Machine
end

