-- ==== Sys2Proof/Machine/Crypto.lean ====
section
/-! DEFINITION. The algorithms that the spec takes from their standards: AES-256 (FIPS 197), GCM (04 R107,
SP 800-38D), XTS (15 R465, IEEE 1619), SHA-384 (15 R453, FIPS 180-4) and HMAC-SHA-384 (15 R466, FIPS 198-1).
PRESUMED: log entry 212. -/

namespace Sys2Proof

/-! ## AES-256 -/

/-- The S-box, sixteen entries to a number, the lowest entry least significant. -/
def sboxRows : List Nat := [
  0x76ABD7FE2B670130C56F6BF27B777C63,
  0xC072A49CAFA2D4ADF04759FA7DC982CA,
  0x1531D871F1E5A534CCF73F362693FDB7,
  0x75B227EBE28012079A059618C323C704,
  0x842FE329B3D63B52A05A6E1B1A2C8309,
  0xCF584C4A39BECB6A5BB1FC20ED00D153,
  0xA89F3C507F02F94585334D43FBAAEFD0,
  0xD2F3FF1021DAB6BCF5389D928F40A351,
  0x73195D643D7EA7C41744975FEC130CCD,
  0xDB0B5EDE14B8EE4688902A22DC4F8160,
  0x79E4959162ACD3C25C2406490A3A32E0,
  0x08AE7A65EAF4566CA94ED58D6D37C8E7,
  0x8A8BBD4B1F74DDE8C6B4A61C2E2578BA,
  0x9E1DC186B95735610EF6034866B53E70,
  0xDF2855CEE9871E9B948ED9691198F8E1,
  0x16BB54B00F2D99416842E6BF0D89A18C]

def sbox (b : Byte) : Byte := BitVec.ofNat 8 (sboxRows.getD (b.toNat / 16) 0 / 2 ^ (8 * (b.toNat % 16)))

/-- Multiplication by x in the field of AES. -/
def xtime (b : Byte) : Byte := if b.msb then (b <<< 1) ^^^ 0x1B else b <<< 1

/-- The round constant of number i. -/
def rcon : Nat → Byte
  | 0 => 1
  | i + 1 => xtime (rcon i)

/-- Words of the key schedule, the latest first: n more. -/
def keyWords : Nat → List (List Byte) → List (List Byte)
  | 0, ws => ws
  | n + 1, ws =>
    let i := ws.length
    let p := ws.getD 0 []
    let t :=
      if i % 8 = 0 then xorBytes ((p.drop 1 ++ p.take 1).map sbox) [rcon (i / 8 - 1)]
      else if i % 8 = 4 then p.map sbox
      else p
    keyWords n (xorBytes (ws.getD 7 []) t :: ws)

/-- The fifteen round keys of a 32-byte key. -/
def roundKeys (key : List Byte) : List (List Byte) :=
  chunks 16 15 ((keyWords 52 (chunks 4 8 (padTo 32 key)).reverse).reverse.flatMap id)

/-- ShiftRows over the sixteen bytes of a block, column by column. -/
def shiftRows (s : List Byte) : List Byte :=
  (List.range 16).map (fun i => byteAt s (4 * ((i / 4 + i % 4) % 4) + i % 4))

/-- MixColumns. -/
def mixColumns (s : List Byte) : List Byte :=
  (List.range 16).map (fun i =>
    let at_ (k : Nat) : Byte := byteAt s (i / 4 * 4 + (i + k) % 4)
    xtime (at_ 0) ^^^ (xtime (at_ 1) ^^^ at_ 1) ^^^ at_ 2 ^^^ at_ 3)

/-- The rounds after the first round key; the last has no MixColumns. -/
def aesRounds : List (List Byte) → List Byte → List Byte
  | [], s => s
  | k :: ks, s =>
    let t := shiftRows (s.map sbox)
    aesRounds ks (xorBytes (if ks.isEmpty then t else mixColumns t) k)

/-- One block under expanded round keys. -/
def aesBlock (rks : List (List Byte)) (b : List Byte) : List Byte :=
  aesRounds (rks.drop 1) (xorBytes (padTo 16 b) (rks.getD 0 []))

/-- The byte whose S-box entry this is. -/
def sboxInv (b : Byte) : Byte :=
  BitVec.ofNat 8 (((List.range 256).find? (fun x => sbox (BitVec.ofNat 8 x) == b)).getD 0)

/-- The inverse of ShiftRows. -/
def unshiftRows (s : List Byte) : List Byte :=
  (List.range 16).map (fun i => byteAt s (4 * ((i / 4 + 4 - i % 4) % 4) + i % 4))

/-- The inverse of MixColumns: its matrix is that of MixColumns to the third power. -/
def unmixColumns (s : List Byte) : List Byte := mixColumns (mixColumns (mixColumns s))

/-- The inverse of the rounds, under the round keys from the last to the first. -/
def aesUnrounds : List (List Byte) → List Byte → List Byte
  | [], s => s
  | k :: ks, s =>
    let t := xorBytes ((unshiftRows s).map sboxInv) k
    aesUnrounds ks (if ks.isEmpty then t else unmixColumns t)

/-- The block that encrypts to this one under expanded round keys. -/
def aesUnblock (rks : List (List Byte)) (b : List Byte) : List Byte :=
  let ks := rks.reverse
  aesUnrounds (ks.drop 1) (xorBytes (padTo 16 b) (ks.getD 0 []))

/-! ## GCM -/

/-- A block as a number, its first byte most significant. -/
def beNat (bs : List Byte) : Nat := leNat bs.reverse

/-- Multiplication in the field of GHASH: n bits of x still to take, from the most significant. -/
def ghashMul (x : BitVec 128) : Nat → BitVec 128 → BitVec 128 → BitVec 128
  | 0, _, z => z
  | n + 1, v, z =>
    ghashMul x n (if v.getLsbD 0 then (v >>> 1) ^^^ 0xE1000000000000000000000000000000 else v >>> 1)
      (if x.getLsbD n then z ^^^ v else z)

/-- GHASH of whole blocks. -/
def ghash (h : BitVec 128) (blocks : List (List Byte)) : BitVec 128 :=
  blocks.foldl (fun y b => ghashMul (y ^^^ BitVec.ofNat 128 (beNat (padTo 16 b))) 128 h 0) 0

/-- The blocks of a string, the last one padded with zeros. -/
def blocks16 (bs : List Byte) : List (List Byte) := chunks 16 ((bs.length + 15) / 16) bs

/-- The key stream of n bytes under a 12-byte IV: counter blocks from 2 on. -/
def gcmStream (key : BitVec 256) (iv : List Byte) (n : Nat) : List Byte :=
  let rks := roundKeys (leBytes 32 key.toNat)
  ((List.range ((n + 15) / 16)).flatMap (fun i => aesBlock rks (padTo 12 iv ++ beBytes 4 (i + 2)))).take n

/-- The 16-byte tag over additional data and ciphertext. -/
def gcmTag (key : BitVec 256) (iv aad ct : List Byte) : List Byte :=
  let rks := roundKeys (leBytes 32 key.toNat)
  let h := BitVec.ofNat 128 (beNat (aesBlock rks (zeros 16)))
  let lens := beBytes 8 (8 * aad.length) ++ beBytes 8 (8 * ct.length)
  let y := ghash h (blocks16 aad ++ blocks16 ct ++ [lens])
  xorBytes (beBytes 16 y.toNat) (aesBlock rks (padTo 12 iv ++ beBytes 4 1))

/-! ## XTS -/

/-- The next tweak block: multiplication by x, the first byte least significant. -/
def xtsNext (t : List Byte) : List Byte :=
  let v := 2 * leNat t
  leBytes 16 (if bitOf v 128 then (v % 2 ^ 128) ^^^ 0x87 else v)

/-- Tweak block j of a data unit under the expanded second key. -/
def xtsTweak (rks : List (List Byte)) (tweak : Nat) : Nat → List Byte
  | 0 => aesBlock rks (leBytes 16 tweak)
  | j + 1 => xtsNext (xtsTweak rks tweak j)

/-- The two expanded halves of a 512-bit key: the first encrypts data, the second the tweak. -/
def xtsKeys (key : BitVec 512) : List (List Byte) × List (List Byte) :=
  let kb := leBytes 64 key.toNat
  (roundKeys (kb.take 32), roundKeys (kb.drop 32))

/-- Block j of a data unit, encrypted. -/
def xtsSealBlock (key : BitVec 512) (tweak j : Nat) (b : List Byte) : List Byte :=
  let ks := xtsKeys key
  let t := xtsTweak ks.2 tweak j
  xorBytes (aesBlock ks.1 (xorBytes (padTo 16 b) t)) t

/-- Block j of a data unit, decrypted. -/
def xtsOpenBlock (key : BitVec 512) (tweak j : Nat) (b : List Byte) : List Byte :=
  let ks := xtsKeys key
  let t := xtsTweak ks.2 tweak j
  xorBytes (aesUnblock ks.1 (xorBytes (padTo 16 b) t)) t

/-- A data unit of whole blocks, encrypted. -/
def xtsSeal (key : BitVec 512) (tweak : Nat) (data : List Byte) : List Byte :=
  (blocks16 data).zipIdx.flatMap (fun e => xtsSealBlock key tweak e.2 e.1)

/-! ## SHA-384 and HMAC -/

/-- The round constants of SHA-512. -/
def shaK : List (BitVec 64) :=
  [0x428A2F98D728AE22, 0x7137449123EF65CD, 0xB5C0FBCFEC4D3B2F, 0xE9B5DBA58189DBBC, 0x3956C25BF348B538,
   0x59F111F1B605D019, 0x923F82A4AF194F9B, 0xAB1C5ED5DA6D8118, 0xD807AA98A3030242, 0x12835B0145706FBE] ++
  [0x243185BE4EE4B28C, 0x550C7DC3D5FFB4E2, 0x72BE5D74F27B896F, 0x80DEB1FE3B1696B1, 0x9BDC06A725C71235,
   0xC19BF174CF692694, 0xE49B69C19EF14AD2, 0xEFBE4786384F25E3, 0x0FC19DC68B8CD5B5, 0x240CA1CC77AC9C65] ++
  [0x2DE92C6F592B0275, 0x4A7484AA6EA6E483, 0x5CB0A9DCBD41FBD4, 0x76F988DA831153B5, 0x983E5152EE66DFAB,
   0xA831C66D2DB43210, 0xB00327C898FB213F, 0xBF597FC7BEEF0EE4, 0xC6E00BF33DA88FC2, 0xD5A79147930AA725] ++
  [0x06CA6351E003826F, 0x142929670A0E6E70, 0x27B70A8546D22FFC, 0x2E1B21385C26C926, 0x4D2C6DFC5AC42AED,
   0x53380D139D95B3DF, 0x650A73548BAF63DE, 0x766A0ABB3C77B2A8, 0x81C2C92E47EDAEE6, 0x92722C851482353B] ++
  [0xA2BFE8A14CF10364, 0xA81A664BBC423001, 0xC24B8B70D0F89791, 0xC76C51A30654BE30, 0xD192E819D6EF5218,
   0xD69906245565A910, 0xF40E35855771202A, 0x106AA07032BBD1B8, 0x19A4C116B8D2D0C8, 0x1E376C085141AB53] ++
  [0x2748774CDF8EEB99, 0x34B0BCB5E19B48A8, 0x391C0CB3C5C95A63, 0x4ED8AA4AE3418ACB, 0x5B9CCA4F7763E373,
   0x682E6FF3D6B2B8A3, 0x748F82EE5DEFB2FC, 0x78A5636F43172F60, 0x84C87814A1F0AB72, 0x8CC702081A6439EC] ++
  [0x90BEFFFA23631E28, 0xA4506CEBDE82BDE9, 0xBEF9A3F7B2C67915, 0xC67178F2E372532B, 0xCA273ECEEA26619C,
   0xD186B8C721C0C207, 0xEADA7DD6CDE0EB1E, 0xF57D4F7FEE6ED178, 0x06F067AA72176FBA, 0x0A637DC5A2C898A6] ++
  [0x113F9804BEF90DAE, 0x1B710B35131C471B, 0x28DB77F523047D84, 0x32CAAB7B40C72493, 0x3C9EBE0A15C9BEBC,
   0x431D67C49C100D4C, 0x4CC5D4BECB3E42B6, 0x597F299CFC657E2A, 0x5FCB6FAB3AD6FAEC, 0x6C44198C4A475817]

/-- The initial hash value of SHA-384. -/
def shaInit : List (BitVec 64) :=
  [0xCBBB9D5DC1059ED8, 0x629A292A367CD507, 0x9159015A3070DD17, 0x152FECD8F70E5939,
   0x67332667FFC00B31, 0x8EB44A8768581511, 0xDB0C2E0D64F98FA7, 0x47B5481DBEFA4FA4]

/-- A rotation to the right. -/
def rotr (x : BitVec 64) (n : Nat) : BitVec 64 := (x >>> n) ||| (x <<< (64 - n))

/-- Words of the message schedule, the latest first: n more. -/
def shaWords : Nat → List (BitVec 64) → List (BitVec 64)
  | 0, ws => ws
  | n + 1, ws =>
    let a := ws.getD 1 0
    let b := ws.getD 14 0
    let s1 := rotr a 19 ^^^ rotr a 61 ^^^ (a >>> 6)
    let s0 := rotr b 1 ^^^ rotr b 8 ^^^ (b >>> 7)
    shaWords n ((s1 + ws.getD 6 0 + s0 + ws.getD 15 0) :: ws)

/-- One round over the eight working variables. -/
def shaRound (v : List (BitVec 64)) (kw : BitVec 64 × BitVec 64) : List (BitVec 64) :=
  let at_ (i : Nat) : BitVec 64 := v.getD i 0
  let e := at_ 4
  let a := at_ 0
  let t1 := at_ 7 + (rotr e 14 ^^^ rotr e 18 ^^^ rotr e 41) + ((e &&& at_ 5) ^^^ (~~~e &&& at_ 6)) + kw.1 + kw.2
  let t2 := (rotr a 28 ^^^ rotr a 34 ^^^ rotr a 39) + ((a &&& at_ 1) ^^^ (a &&& at_ 2) ^^^ (at_ 1 &&& at_ 2))
  [t1 + t2, a, at_ 1, at_ 2, at_ 3 + t1, e, at_ 5, at_ 6]

/-- One block of 128 bytes. -/
def shaBlock (h : List (BitVec 64)) (b : List Byte) : List (BitVec 64) :=
  let w := (chunks 8 16 b).map (fun x => BitVec.ofNat 64 (beNat x))
  let ws := (shaWords 64 w.reverse).reverse
  List.zipWith (· + ·) h ((shaK.zip ws).foldl shaRound h)

/-- SHA-384 of a byte string: 48 bytes. -/
def sha384 (bs : List Byte) : List Byte :=
  let n := bs.length
  let padded := bs ++ [0x80] ++ zeros ((111 + 128 - n % 128) % 128) ++ beBytes 16 (8 * n)
  (((chunks 128 (padded.length / 128) padded).foldl shaBlock shaInit).flatMap (fun x => beBytes 8 x.toNat)).take 48

/-- HMAC-SHA-384: key and message, 48 bytes. -/
def hmac (key msg : List Byte) : List Byte :=
  let k := padTo 128 (if key.length ≤ 128 then key else sha384 key)
  sha384 (k.map (· ^^^ 0x5C) ++ sha384 (k.map (· ^^^ 0x36) ++ msg))

end Sys2Proof
end

