-- ==== Sys2Proof/WellFormed.lean ====
section
/-! DEFINITION. The commands whose operands lie in the ranges that the spec gives them. exec faults with
illFormed on the others, and on no command of this form. -/

namespace Sys2Proof

open Sys2Proof.Machine

/-- Every operand of the command is in its range. DESIGN CHOICE: log entry 7. -/
def Instr.wf : Instr → Bool
  | .packageReset _ _ | .pwrOk0Fall _ | .bringUpStart _ | .tdPllLock _ | .configApplied _ | .phaseReady _
  | .hostModuleTrained _ _ _ _ | .attachTimeout _ | .resetComplete _ | .floatGrant _ | .engineStart _
  | .hThermNChange _ _ | .ingressLookup _ _ _ | .ingressFinalCheck _ _ | .writeEntries _ _ | .writeSet _ _
  | .copyRegion _ | .commitSlice _ _ | .clearSlice _ | .groupInstall _ _ | .planLoad _ _ | .resync _
  | .ftcSyncEdge _ | .sourceReevaluation _ | .holdoverExpiry _ | .adaptiveReport _ | .doorbellPoll _
  | .descriptorFetch _ | .portCtlReset _ | .portCtlWire _ | .portSet _ _ | .portCtlWidth _ | .shaperSet _ _
  | .wiringAccept _ | .keyInstall _ _ | .telemSnap _ _ | .attest _ _ _ _ | .spdmHeartbeatExpiry _ _
  | .ownerHandover _ | .nop _ | .define _ _ | .openEpoch _ | .epochOpenDone _ | .closeEpoch _ | .release _
  | .rebuild _ | .intervalBucketExpiry _ | .autoRebuildStart _ | .ledgerHeartbeat _ | .buddySilent _
  | .functionLevelReset _ | .failover _ | .failoverReplay _ | .electionWindowEnd _ | .leaseLapsed _
  | .handoverExpiry _ | .mgmtRead _ | .mgmtWrite _ | .mgmtDesc _ | .safeRecordWrite _ _ _ | .hostModuleDown _ _ =>
    true
  | .pwrOkFall _ k =>
    decide (1 ≤ k ∧ k ≤ 8)
  | .imagesVerified _ _ eraseA eraseB =>
    decide (eraseA < 2 ^ 32) && decide (eraseB < 2 ^ 32)
  | .diesReleased _ absent =>
    absent.all (fun n => assignedDies.contains n)
  | .dieRecordsVerified _ pufs =>
    pufs.all (fun p => assignedDies.contains p.1)
  | .memoryTrained _ bad =>
    bad.all (fun m => decide (m < 32))
  | .warmPackageReset _ m _ _ | .hostSiteReset _ m | .ftcNowRead _ m | .pkDetCommit _ m | .switch _ m
  | .ownerClaim _ m | .leaseRenew _ m | .mailboxGo _ m | .enterSafe _ m | .debugApply _ m _ _ =>
    isMaster m
  | .dieReset _ m die | .portGroupReset _ m die =>
    isMaster m && decide (die < 256)
  | .portReset _ m die index | .engineReset _ m die index =>
    isMaster m && decide (die < 256) && decide (index < 512)
  | .engineStop _ e | .engineLoss _ e =>
    decide (e < 64)
  | .admissionStep _ tile _ | .fabricCellArrival _ tile _ _ | .poolRebuildDone _ tile | .wheelSlotDue _ tile
  | .fenceSignalArrival _ tile =>
    decide (tile < 16)
  | .clockCheckWindow _ d bad _ =>
    dieKind d != .none && bad.all (fun k => decide (1 ≤ k ∧ k ≤ 27))
  | .thermalSample _ readings =>
    readings.all (fun r => hasSensor r.1 && (match r.2 with | some v => decide (-2048 ≤ v ∧ v < 2048) | none => true))
  | .portEnable _ p | .noSignalTimeout _ p | .identReceived _ p _ _ _ | .trainingTimeout _ p | .holdoffExpiry _ p
  | .quiesceReceived _ p | .quiesceEnd _ p | .partnerRestart _ p | .retryTimeout _ p | .portHoldExpiry _ p
  | .cellOpportunity _ p _ | .launchHoldEnd _ p | .fenceTimeout _ p =>
    decide (p < 512)
  | .signalDetect _ l | .coarseConverged _ l | .lockLost _ l | .linkDownReceived _ l =>
    decide (l < 512)
  | .frameReceived _ l _ frac _ slot _ _ =>
    decide (l < 512) && decide (frac < 65536) && decide (slot.length = 264)
  | .ts1Received _ l slot _ _ _ _ | .ts2Received _ l slot _ _ | .controlSlotReceived _ l slot _ _ =>
    decide (l < 512) && decide (slot.length = 264)
  | .cellReceived _ l cell _ unc =>
    decide (l < 512) && decide (cell.length = 264) && (unc.ended == 0 || unc.overlaps)
  | .moduleFailure _ d u =>
    moduleExists d u
  | .lnCommit _ m n =>
    isMaster m && decide (n < 32)
  | .prevDescriptorExpiry _ sl =>
    decide (sl < 256)
  | .ptCommit _ m tile =>
    isMaster m && decide (tile < 16)
  | .fabricSlot _ f =>
    decide (f < 24)
  | .planeCellReceive _ p | .planeSlot _ p =>
    decide (p < 8)
  | .packetRelease _ tile src vc _ | .seqGapTimeout _ tile src vc =>
    decide (tile < 16) && decide (src < 24) && decide (vc < 8)
  | .reassemblyTimeout _ tile src vc rel =>
    decide (tile < 16) && decide (src < 24) && decide (vc < 8) && decide (rel < 65536)
  | .planeRetire _ m p | .planeRejoin _ m p =>
    isMaster m && decide (p < 8)
  | .poolRebuild _ m tile k =>
    isMaster m && decide (tile < 16) && decide (k < 4)
  | .creditFree _ p pair =>
    decide (p < 512) && decide (pair < 16)
  | .fumarolePeriod _ tile c =>
    decide (tile < 16) && decide (1 ≤ c ∧ c ≤ 3)
  | .hwmRead _ m tile which i =>
    isMaster m && decide (tile < 16) && decide (which < 3) && decide (i < (if which = 0 then 4 else if which = 1 then 32 else 256))
  | .calderaCellLanding _ die _ | .intakeCheck _ die _ _ | .landingTimeout _ die _ | .contrib _ die _
  | .partialMsg _ die _ | .count _ die _ | .countResult _ die _ | .credit _ die _ | .status _ die _
  | .participation _ die _ | .segmentAdd _ die _ _ | .magmaRecordGrant _ die _ | .magmaWaitExpiry _ die _
  | .signal _ die _ | .foldReceived _ die _ _ | .feedReceived _ die _ _ | .ledger _ die _ =>
    decide (die < 8)
  | .slotReservationDone _ k | .invocationLaunch _ k | .auditWrite _ k | .signalStep _ k | .waitStep _ k
  | .waitTimerExpiry _ k =>
    decide (k < 1024)
  | .segmentProduce _ k j _ | .slotFree _ k j =>
    decide (k < 1024) && decide (j < 2 ^ 20)
  | .creditSend _ k i | .memberTimerExpiry _ k i | .freezeReply _ k i =>
    decide (k < 1024) && decide (i < 1023)
  | .calderaDieLoss _ c =>
    decide (c < 8)
  | .engineMapWrite _ m k w =>
    isMaster m && decide (k < 64) && decide (w < 2 ^ 32)
  | .signalApply _ c =>
    decide (c < 3072)
  | .counterClear _ m e mask =>
    isMaster m && decide (e < 64) && decide (mask < 2 ^ 48)
  | .ctrXlatWrite _ m slice v w =>
    isMaster m && decide (slice < 256) && decide (v < 48) && decide (w < 2 ^ 16)
  | .fenceEvict _ p src vc =>
    decide (p < 512) && decide (src < 65536) && decide (vc < 8)
  | .ftcCopyCompare _ d off =>
    decide (d < 104) && decide (off.natAbs ≤ 64)
  | .doorbellSnoop _ k =>
    decide (k.line < 2048)
  | .doorbellLineRead _ line words =>
    decide (line < 2048) && decide (words.length = 8)
  | .descriptorReadDone _ r _ _ | .msixCoalesceTimeout _ r =>
    decide (r < 16384)
  | .tailConfirm _ r tail =>
    decide (r < 16384) && decide (tail < 2 ^ 32)
  | .memberFailed _ g m =>
    (decide (g < 16) && decide (m < 64)) || (g == 0xFF && decide (m < 8))
  | .rebuildWindowStart _ k _ | .feedTimeout _ k =>
    decide (k < 4)
  | .ringEnable _ m r word =>
    isMaster m && decide (r < 16384) && decide (word < 2 ^ 32)
  | .ringDisable _ m r =>
    isMaster m && decide (r < 16384)
  | .handoverWrite _ m x =>
    isMaster m && decide (x < 256)
  | .registerWrite _ m off _ x rd _ =>
    (m == mHost || m == mBmc) && decide (off < 2 ^ 32) && decide (rd ≤ 4096) && decide (x < 2 ^ 32)
  | .stickyClear _ m d mask | .ventInject _ m d mask =>
    isMaster m && dieKind d != .none && decide (mask < 2 ^ 64)
  | .ventEnableWrite _ m d _ v =>
    isMaster m && dieKind d != .none && decide (v < 2 ^ 32)
  | .ventTimerExpiry _ d src =>
    dieKind d != .none && decide (src < 64)
  | .isolationAck _ d idx | .isolationTimeout _ d idx =>
    decide (d < 104) && decide (idx < 256)
  | .vtSelf _ d bit =>
    dieKind d != .none && heldTwice d bit
  | .aggLost _ d | .ventHeartbeat _ d | .vtOscCalibration _ d _ =>
    dieKind d != .none
  | .skimRead _ d where_ _ _ _ _ =>
    (skimSource d where_).isSome
  | .isUpdWrite _ m _ region off len =>
    isMaster m && decide (region < 32 ∧ off < 2 ^ 32 ∧ len < 2 ^ 21)
  | .seal _ m _ region | .erase _ m _ region =>
    isMaster m && decide (region < 32)
  | .isUpdComplete _ _ maxErase =>
    decide (maxErase < 2 ^ 32)
  | .controlSlotSend _ l frac =>
    decide (l < 512) && decide (frac < 65536)

/-- The time at which a command happens. -/
def Instr.time : Instr → Nat
  | .packageReset t _ | .pwrOkFall t _ | .pwrOk0Fall t | .bringUpStart t | .tdPllLock t
  | .imagesVerified t _ _ _ | .diesReleased t _ | .dieRecordsVerified t _ | .configApplied t
  | .memoryTrained t _ | .phaseReady t | .hostModuleTrained t _ _ _ | .attachTimeout t
  | .warmPackageReset t _ _ _ | .hostSiteReset t _ | .dieReset t _ _ | .portGroupReset t _ _
  | .portReset t _ _ _ | .engineReset t _ _ _ | .resetComplete t | .floatGrant t | .engineStart t
  | .engineStop t _ | .admissionStep t _ _ | .clockCheckWindow t _ _ _ | .thermalSample t _
  | .hThermNChange t _ | .portEnable t _ | .signalDetect t _ | .noSignalTimeout t _ | .coarseConverged t _
  | .frameReceived t _ _ _ _ _ _ _ | .lockLost t _ | .ts1Received t _ _ _ _ _ _ | .ts2Received t _ _ _ _
  | .identReceived t _ _ _ _ | .trainingTimeout t _ | .holdoffExpiry t _ | .quiesceReceived t _ | .quiesceEnd t _
  | .linkDownReceived t _ | .partnerRestart t _ | .cellReceived t _ _ _ _ | .controlSlotReceived t _ _ _ _
  | .retryTimeout t _ | .moduleFailure t _ _ | .lnCommit t _ _ | .ingressLookup t _ _
  | .ingressFinalCheck t _ | .portHoldExpiry t _ | .writeEntries t _ | .writeSet t _ | .copyRegion t
  | .commitSlice t _ | .clearSlice t | .prevDescriptorExpiry t _ | .ptCommit t _ _ | .fabricSlot t _
  | .planeCellReceive t _ | .planeSlot t _ | .fabricCellArrival t _ _ _ | .packetRelease t _ _ _ _
  | .reassemblyTimeout t _ _ _ _ | .seqGapTimeout t _ _ _ | .planeRetire t _ _ | .planeRejoin t _ _
  | .poolRebuild t _ _ _ | .poolRebuildDone t _ | .creditFree t _ _ | .cellOpportunity t _ _
  | .wheelSlotDue t _ | .launchHoldEnd t _ | .fumarolePeriod t _ _ | .hwmRead t _ _ _ _
  | .calderaCellLanding t _ _ | .intakeCheck t _ _ _ | .landingTimeout t _ _ | .contrib t _ _
  | .slotReservationDone t _ | .partialMsg t _ _ | .count t _ _ | .countResult t _ _ | .credit t _ _
  | .status t _ _ | .participation t _ _ | .invocationLaunch t _ | .segmentAdd t _ _ _
  | .magmaRecordGrant t _ _ | .magmaWaitExpiry t _ _ | .segmentProduce t _ _ _ | .slotFree t _ _
  | .creditSend t _ _ | .memberTimerExpiry t _ _ | .freezeReply t _ _ | .auditWrite t _ | .engineLoss t _
  | .calderaDieLoss t _ | .engineMapWrite t _ _ _ | .groupInstall t _ | .planLoad t _ | .resync t
  | .signalStep t _ | .waitStep t _ | .signal t _ _ | .signalApply t _ | .waitTimerExpiry t _
  | .counterClear t _ _ _ | .ctrXlatWrite t _ _ _ _ | .fenceSignalArrival t _ | .fenceTimeout t _
  | .fenceEvict t _ _ _ | .ftcSyncEdge t | .sourceReevaluation t | .holdoverExpiry t | .ftcCopyCompare t _ _
  | .ftcNowRead t _ | .pkDetCommit t _ | .adaptiveReport t | .doorbellSnoop t _ | .doorbellLineRead t _ _
  | .doorbellPoll t | .descriptorFetch t | .descriptorReadDone t _ _ _ | .tailConfirm t _ _
  | .msixCoalesceTimeout t _ | .portCtlReset t | .portCtlWire t | .portSet t _ | .portCtlWidth t
  | .shaperSet t _ | .wiringAccept t | .keyInstall t _ | .telemSnap t _ | .attest t _ _ _
  | .spdmHeartbeatExpiry t _ | .ownerHandover t | .nop t | .define t _ | .openEpoch t | .epochOpenDone t
  | .closeEpoch t | .release t | .rebuild t | .foldReceived t _ _ _ | .intervalBucketExpiry t
  | .memberFailed t _ _ | .autoRebuildStart t | .rebuildWindowStart t _ _ | .feedReceived t _ _ _
  | .feedTimeout t _ | .ledgerHeartbeat t | .ledger t _ _ | .buddySilent t | .ringEnable t _ _ _
  | .ringDisable t _ _ | .functionLevelReset t | .switch t _ | .failover t | .failoverReplay t
  | .ownerClaim t _ | .electionWindowEnd t | .leaseRenew t _ | .leaseLapsed t | .handoverWrite t _ _
  | .handoverExpiry t | .mailboxGo t _ | .mgmtRead t | .mgmtWrite t | .mgmtDesc t | .registerWrite t _ _ _ _ _ _
  | .stickyClear t _ _ _ | .ventEnableWrite t _ _ _ _ | .ventInject t _ _ _ | .ventTimerExpiry t _ _
  | .isolationAck t _ _ | .isolationTimeout t _ _ | .vtSelf t _ _ | .aggLost t _ | .enterSafe t _
  | .safeRecordWrite t _ _ | .skimRead t _ _ _ _ _ _ | .isUpdWrite t _ _ _ _ _ | .seal t _ _ _ | .erase t _ _ _
  | .isUpdComplete t _ _ | .debugApply t _ _ _ | .controlSlotSend t _ _ | .hostModuleDown t _
  | .ventHeartbeat t _ | .vtOscCalibration t _ _ => t

end Sys2Proof
end

