-- ==== Sys2Proof/Machine/Ops.lean ====
section
/-! DEFINITION. The operations every family of commands shares: running a command, time, free values,
host memory writes, ring records, events, interrupts, completions, ownership and shadow groups. -/

namespace Sys2Proof.Machine

/-! ## Running a command -/

/-- A command happens at time t (DESIGN CHOICE, log entry 2): time never goes back. -/
def State.tick (s : State) (t : Nat) : State := { s with now := max s.now t }

/-- Do f when the condition holds. -/
def State.when (s : State) (c : Bool) (f : State → State) : State := if c then f s else s

/-- The outcome of a command whose operands are in range (ok), that happens at t and has effect f even while the
package is held in reset; the queue is not the command's to change. DESIGN CHOICE: log entry 6. -/
def runPin (ok : Bool) (t : Nat) (f : State → State) (s : State) : Out :=
  if ok then .next { f (s.tick t) with pending := s.pending, now := max s.now t }
  else .fault .illFormed

/-- The outcome of every other command: the same, but that it has no effect while the package is held in reset
(01 R26). DEDUCED: log entry 199. An effect comes at the event of its row, whatever bound of time the spec gives
(DESIGN CHOICE: log entry 195). -/
def run (ok : Bool) (t : Nat) (f : State → State) (s : State) : Out :=
  runPin ok t (fun s => s.when (s.boot.row != .held) f) s

/-- Apply f for each element, in order. -/
def State.forEach {α : Type} (s : State) (l : List α) (f : State → α → State) : State := l.foldl f s

/-- Put something out at the boundary. DESIGN CHOICE: log entry 8. -/
def State.emit (s : State) (x : Sent) : State := { s with sent := x :: s.sent }

/-- The next free value (DESIGN CHOICE, log entry 4) and the state with it drawn. -/
def State.draw (s : State) : BitVec 64 × State :=
  (Config.freeWord s.freeIx, { s with freeIx := s.freeIx + 1 })

/-- A fresh identifier of a packet (DESIGN CHOICE, log entry 5). -/
def State.fresh (s : State) : Nat × State := (s.nextId, { s with nextId := s.nextId + 1 })

/-- d ns have passed since the moment since. -/
def State.past (s : State) (since d : Nat) : Bool := decide (since + d ≤ s.now)

/-! ## Writes and hardware in one cycle of a register's domain (R9) -/

/-- The MG_CSR cycle of a moment: 400 MHz (02 R48). DEDUCED: log entry 198. -/
def mgCycle (t : Nat) : Nat := 2 * t / 5

/-- The VT_OSC cycle of a moment: about 250 MHz (02 R48). -/
def oscCycle (t : Nat) : Nat := t / 4

/-- Keys of the W1C bits in State.setAt: TR_RESET_STATUS.dropped, PK_ENGINE_MAP and PK_CTR_XLAT dropped,
HA_STATUS.wwe, and those that an engine, a master, a spare, a ring or a source of a die has. -/
def wbReset : Nat := 0
def wbMap : Nat := 1
def wbXlat : Nat := 2
def wbWwe : Nat := 3
def wbAuto (k : Nat) : Nat := 0x100 + k
def wbMbox (m : Nat) : Nat := 0x200 + m
def wbUnreachable (m : Nat) : Nat := 0x300 + m
def wbBadAccess (m : Nat) : Nat := 0x400 + m
def wbSpare (k : Nat) : Nat := 0x500 + k
def wbErr (r : Nat) : Nat := 0x10000 + r
def wbSticky (d src : Nat) : Nat := 0x20000 + 64 * d + src

/-- Key of the owner's clear of a source of a die. -/
def wbCleared (d src : Nat) : Nat := 0x30000 + 64 * d + src

/-- Hardware sets a W1C bit now. -/
def State.hwSet (s : State) (k : Nat) : State := { s with setAt := tset 0 s.setAt k (s.now + 1) }

/-- Hardware set the bit in the present cycle of its domain. -/
def State.justSet (s : State) (cycle : Nat → Nat) (k : Nat) : Bool :=
  match tget 0 s.setAt k with
  | 0 => false
  | n + 1 => cycle n == cycle s.now

/-- A W1C write of an MG_CSR bit: f clears it where the written bit is 1, but not in the cycle in which hardware
set it. -/
def State.w1c (s : State) (k : Nat) (one : Bool) (f : State → State) : State :=
  if one && !s.justSet mgCycle k then f s else s

/-- A command that waits, which may come in the same cycle as the present one, has this property: how two events of one
cycle are settled does not hang on the order in which they are sent (00 R9, 08 R250, 12 R380, 13 R408). DEDUCED: log
entry 231. -/
def State.sameCycle (s : State) (p : Instr → Bool) : Bool := s.pending.any p

/-- The count of pending writes of a cycle, after one more. -/
def pendNote (now : Nat) (a : Nat × Nat) : Nat × Nat :=
  let c := mgCycle now + 1
  if a.1 = c then (c, a.2 + 1) else (c, 1)

/-- How many of the last pending writes fell in the present cycle: a COMMIT does not take them. -/
def pendKept (now : Nat) (a : Nat × Nat) : Nat := if a.1 = mgCycle now + 1 then a.2 else 0

/-- The pending writes that a COMMIT takes, and those that stay for the next one. -/
def pendSplit {α : Type} (now : Nat) (a : Nat × Nat) (ws : List α) : List α × List α :=
  let n := ws.length - pendKept now a
  (ws.take n, ws.drop n)

/-- One pending write of a shadowed word of tile t. -/
def tilePend (t : Nat) (w : Nat × W32) (s : State) : State :=
  s.modTile t (fun x => { x with pending := x.pending ++ [w], pendAt := pendNote s.now x.pendAt })

/-- One pending write of a word of LN_WIRE_SH of lane die n. -/
def lanePend (n : Nat) (w : Nat × W32) (s : State) : State :=
  s.modLaneDie n (fun x => { x with pending := x.pending ++ [w], pendAt := pendNote s.now x.pendAt })

/-- A later cycle: what was written or set so far was in an earlier one. A descriptor, and each word after the
first of one access, is in a cycle of its own. -/
def State.newCycle (s : State) : State :=
  { s with
    setAt := []
    tiles := tmap {} (fun _ t => { t with pendAt := (0, 0), hwmOld := [] }) s.tiles
    laneDies := tmap {} (fun _ d => { d with pendAt := (0, 0) }) s.laneDies
    ftc := { s.ftc with detAt := 0, detOld := none } }

/-! ## Fabric time (11 R326) -/

/-- TD's copy of the FTC in units of 2^-32 ns; it stands while the package is held in reset. -/
def State.ftcFix (s : State) : Nat :=
  if s.ftc.stopped ∨ s.boot.row = .held then s.ftc.count
  else ((s.ftc.count : Int) + (s.now - s.ftc.base : Nat) * ((2 ^ 32 : Int) + s.ftc.rate)).toNat

/-- The FTC in ticks, 64 bits. -/
def State.ftcNow (s : State) : Nat := s.ftcFix / 2 ^ 32 % 2 ^ 64

/-- The copy of the FTC that a die holds, which its offset from TD's, in 1/256 ns, sets apart: in units of
2^-32 ns, and in ticks (11 R326). -/
def State.ftcFixAt (s : State) (d : Nat) : Nat :=
  (((s.ftcFix : Nat) : Int) + (s.die d).ftcOffset * 2 ^ 24).emod (2 ^ 96) |>.toNat
def State.ftcAt (s : State) (d : Nat) : Nat := s.ftcFixAt d / 2 ^ 32

/-- The physical engine that leads an invocation's plan stands on this Caldera die (09 R260). -/
def Inv.leadDie (v : Inv) : Nat := v.engines.getD 0 0 / 8

/-- How the launch hold of an invocation has ended by now: by its launch count (true), or before that at launch_max
after its creation (false) (11 R333, R334). -/
def State.holdOf (s : State) (v : Inv) : Option Bool :=
  match v.holdEnded, v.launch with
  | some b, _ => some b
  | none, none => some true
  | none, some l =>
    let bound := v.createdAt + 1000000 * s.ftc.launchMax.toNat
    let reached (t : Nat) : Bool := decide (l ≤ ({ s with now := t } : State).ftcAt (dieCaldera v.leadDie))
    if bound ≤ s.now then some (reached bound) else if reached s.now then some true else none

/-- Fix the count at this moment, so that the rate or the count can change; holds that have ended stay so. -/
def State.ftcRebase (s : State) : State :=
  { s with ftc := { s.ftc with count := s.ftcFix, base := s.now }
           invs := tmap none (fun _ v => v.map (fun v => { v with holdEnded := s.holdOf v })) s.invs }

/-! ## The host attach and its memory (12 R350 to R371) -/

/-- The CXL link is up on the active module (R20, R353). -/
def State.hostUp (s : State) : Bool := if s.host.unitB then s.host.bTrained else s.host.aTrained

/-- Put something out to the host: at once, or when the active module has retrained (R355); without a link it is
lost. DESIGN CHOICE: log entry 238. -/
def State.hostPut (s : State) (x : Sent) : State :=
  if s.hostUp then s.emit x
  else if s.host.downAt.isSome then { s with host := { s.host with outbox := s.host.outbox ++ [x] } }
  else s

/-- A memory write to the host. -/
def State.hostWrite (s : State) (addr : Nat) (bytes : List Byte) : State := s.hostPut (.hostWrite addr bytes)

/-- A memory read of the host. -/
def State.hostRead (s : State) (addr len : Nat) (line : Bool) : State := s.hostPut (.hostRead addr len line)

/-- Address of the doorbell word of ring r (R359). -/
def State.dbWord (s : State) (r : Nat) : Nat := s.host.dbBase.toNat * 4096 + 8 * r

/-- Address of the tail word of ring r (R361). -/
def State.tailWord (s : State) (r : Nat) : Nat := s.host.wbBase.toNat * 4096 + 8 * r

/-- Address of the cause word (R371). -/
def State.causeWord (s : State) : Nat := s.host.wbBase.toNat * 4096 + 0x20000

/-- Send an MSI-X vector; a masked one sets its pending bit (R370). -/
def State.msix (s : State) (v : Nat) : State :=
  if (tget {} s.host.msix v).masked then
    { s with host := { s.host with msix := tmod {} s.host.msix v (fun e => { e with pending := true }) } }
  else s.hostPut (.msix v)

/-- Write the cause word, then send vector 0 (R371). -/
def State.packageVector (s : State) (cause : Nat) : State :=
  (s.hostWrite s.causeWord (leBytes 8 cause)).msix 0

/-- Slots of a ring (R357). -/
def Ring.slots (r : Ring) : Nat := 2 ^ r.sizeLog2

/-- Address of the slot that index i of a ring names (R357). -/
def Ring.slotAddr (r : Ring) (i : Nat) : Nat := r.base.toNat * 4096 + 64 * (i % r.slots)

/-- Slots ahead of the host head already written (R362). -/
def Ring.ahead (r : Ring) : Nat := (r.tail - r.head).toNat

/-- PAD slots a record of n slots needs first (R361). -/
def Ring.padFor (r : Ring) (n : Nat) : Nat :=
  let left := r.slots - r.tail.toNat % r.slots
  if left < n then left else 0

/-- There is room for a record of n slots, keeping the slots reserved for completions (R360, R362). -/
def Ring.room (r : Ring) (n : Nat) (reservedSlot : Bool) : Bool :=
  reservedSlot || decide (r.ahead + r.padFor n + n + r.reserved ≤ r.slots)

/-- Slots of the records not yet confirmed (R354). -/
def State.unconfirmedSlots (s : State) : Nat :=
  s.host.unconfirmed.foldl (fun n w => n + w.bytes.length / 64) 0

/-- Count one record to signal, and send the vector when the count is reached (R370). -/
def State.signalRecord (s : State) (r : Nat) : State :=
  let g := s.ring r
  if !g.intEn then s
  else if g.unsignalled + 1 ≥ max 1 g.coalCount.toNat then
    (s.modRing r (fun g => { g with unsignalled := 0, unsigFrom := none })).msix g.vector.toNat
  else s.modRing r (fun g =>
    { g with unsignalled := g.unsignalled + 1, unsigFrom := some (g.unsigFrom.getD s.now) })

/-- Write a ring's tail word, and read it back (R354, R361). -/
def State.putTail (s : State) (r tail : Nat) : State :=
  (s.hostWrite (s.tailWord r) (leBytes 4 (tail % 2 ^ 32) ++ zeros 4)).hostRead (s.tailWord r) 8 false

/-- Write one record and its ring's tail word, read the tail word back, and then signal the record unless it is a
PAD (R354, R361, R370). DEDUCED: log entry 166. -/
def State.putNow (s : State) (w : RingWrite) : State :=
  let s := s.hostWrite ((s.ring w.ring).slotAddr w.index) w.bytes
  let s := s.putTail w.ring (w.index + w.bytes.length / 64)
  let s := { s with host := { s.host with unconfirmed := s.host.unconfirmed ++ [w] } }
  s.when (byteAt w.bytes 0 != 0) (fun s => s.signalRecord w.ring)

/-- Write a record, or keep it waiting while 4,096 slots are unconfirmed (R354). -/
def State.putOrWait (s : State) (w : RingWrite) : State :=
  if s.host.delayed.isEmpty && decide (s.unconfirmedSlots + w.bytes.length / 64 ≤ 4096) then s.putNow w
  else { s with host := { s.host with delayed := s.host.delayed ++ [w] } }

/-- The record, padded first where it would cross the end of the ring, is given its slots and
written (R361). Only called where there is room. -/
def State.putRecord (s : State) (r : Nat) (bytes : List Byte) : State :=
  let g := s.ring r
  let n := bytes.length / 64
  let pad := g.padFor n
  let s := if pad = 0 then s
    else s.putOrWait { ring := r, index := g.tail.toNat
                       bytes := [0, BitVec.ofNat 8 pad] ++ zeros (64 * pad - 2) }
  let s := s.putOrWait { ring := r, index := (g.tail + BitVec.ofNat 32 pad).toNat, bytes := bytes }
  s.modRing r (fun g => { g with tail := g.tail + BitVec.ofNat 32 (pad + n) })

/-- Count a record that no ring takes (R358, R362). -/
def State.lostRecord (s : State) : State :=
  { s with host := { s.host with lostRecords := satInc s.host.lostRecords } }

/-- A record for an event ring: lost where the ring is disabled or has no room (R358, R362). -/
def State.putEvent (s : State) (r : Nat) (bytes : List Byte) : State :=
  let g := s.ring r
  if g.enable && g.kind == 2 && g.room (bytes.length / 64) false then s.putRecord r bytes
  else s.lostRecord

/-- The event record of R368. -/
def eventBytes (code die unit ftc arg0 arg1 : Nat) : List Byte :=
  [0xE0, 1] ++ leBytes 1 code ++ leBytes 1 die ++ leBytes 2 unit ++ zeros 2 ++ leBytes 8 ftc ++
    leBytes 8 arg0 ++ leBytes 8 arg1 ++ zeros 32

/-- Post a package event (R368). -/
def State.event (s : State) (code die unit arg0 arg1 : Nat) : State :=
  s.when s.host.evtEn (fun s =>
    s.putEvent s.host.evtRing.toNat (eventBytes code die unit s.ftcNow arg0 arg1))

/-! ## Completions (12 R367, R374, R375) -/

/-- The bytes of a descriptor's header and kind (R363). -/
def descKind (d : List Byte) : Nat := (byteAt d 0).toNat

/-- The completion record of R367. -/
def completionBytes (status : Byte) (kind detail ring tag slot sqHead ftc : Nat)
    (result : List Byte) : List Byte :=
  [0xC0, 1, status] ++ leBytes 1 kind ++ leBytes 2 detail ++ leBytes 2 ring ++ leBytes 4 tag ++
    leBytes 2 slot ++ zeros 2 ++ leBytes 4 sqHead ++ zeros 4 ++ leBytes 8 ftc ++ padTo 32 result

/-- The master a descriptor came from (R372). -/
def jobMaster : JobSrc → Nat
  | .ring _ _ => mHost
  | .mbox m => m
  | .mgmt m _ _ _ => m
  | .commit m _ _ => m

/-! ## Masters and ownership (12 R376 to R380) -/

/-- Bytes of a window (16 R473). -/
def windowSize : Nat := 0x800000

/-- The words of a byte string that is written from an offset on, with the master that writes them. -/
def wordsFrom (m off : Nat) (bytes : List Byte) : List (Nat × Nat × Nat) :=
  (List.range (bytes.length / 4)).map (fun i => (m, off + 4 * i, fieldOf bytes (4 * i) 4))

/-- The register words that a waiting command writes: master, offset and value; ins: the verified management requests
in front of it (12 R374). What remains of those comes back. -/
def wordsOf (ins : List (Nat × Nat × Nat × List Byte)) (i : Instr) :
    List (Nat × Nat × Nat) × List (Nat × Nat × Nat × List Byte) :=
  let head (op : Nat) : Option (Nat × List Byte) := match ins with
    | e :: _ => if fieldOf e.2.2.2 0 1 = op then some (e.1, e.2.2.2) else none
    | [] => none
  let two (m off v : Nat) : List (Nat × Nat × Nat) := [(m, off, v % 2 ^ 32), (m, off + 4, v / 2 ^ 32)]
  match i with
  | .registerWrite _ m off bytes _ _ be => (if be || m == mBmc then wordsFrom m (off % 2 ^ 31) bytes else [], ins)
  | .stickyClear _ m d mask => (two m (d * windowSize + 0xE000) mask, ins)
  | .counterClear _ m e mask => (two m (dieCaldera (e / 8) * windowSize + 0x6800 + 0x10 * (e % 8)) mask, ins)
  | .ptCommit _ m t => ([(m, dieTile t * windowSize + 0xFFC, 1)], ins)
  | .lnCommit _ m n => ([(m, dieLane n * windowSize + 0x1FFC, 1)], ins)
  | .pkDetCommit _ m => ([(m, 0x29FC, 1)], ins)
  | .leaseRenew _ m => ([(m, 0x1020, 2 ^ 31)], ins)
  | .ownerClaim _ m => ([(m, 0x1008, 2 ^ 31)], ins)
  | .mgmtWrite _ => match head 2 with
    | some (m, p) => (wordsFrom m (fieldOf p 8 4) (sliceOf p 16 (4 * fieldOf p 2 2)), ins.tail)
    | none => ([], ins)
  | .mgmtRead _ => ([], if (head 1).isSome then ins.tail else ins)
  | .mgmtDesc _ => ([], if (head 3).isSome then ins.tail else ins)
  | _ => ([], ins)

/-- The register words that the waiting commands of the present cycle write, in order (00 R9, 10 R302, 12 R380, 13
R408). DEDUCED: log entry 231. -/
def State.wordsComing (s : State) (cycle : Nat → Nat) : List (Nat × Nat × Nat) :=
  (s.pending.foldl (fun (a : List (Nat × Nat × Nat) × List (Nat × Nat × Nat × List Byte)) i =>
    let (ws, ins) := wordsOf a.2 i
    (if cycle i.time == cycle s.now then a.1 ++ ws else a.1, ins)) ([], s.mgmtIn)).1

/-- A waiting command of the present MG_CSR cycle writes a 1 to this bit of the word at this offset, for a master. -/
def State.bitComes (s : State) (m off bit : Nat) : Bool :=
  (s.wordsComing mgCycle).any (fun w => w.1 == m && w.2.1 == off && bitOf w.2.2 bit)

/-- The master is the owner. -/
def State.isOwner (s : State) (m : Nat) : Bool := decide (m ≠ 0) && decide (s.own.owner = m)

/-- The master was the owner until a change in the present MG_CSR cycle: what it writes in this cycle still applies
(R380). DEDUCED: log entry 231. -/
def State.stillOwner (s : State) (m : Nat) : Bool := s.own.late == some (m, mgCycle s.now)

/-- What only the owner may write, the master may write now. -/
def State.mayWrite (s : State) (m : Nat) : Bool := s.isOwner m || s.stillOwner m

/-- Drop a write and count it for its master (R376). -/
def State.refuseWrite (s : State) (m : Nat) : State :=
  s.modMaster m (fun ms => { ms with refused := satInc ms.refused })

/-- How many pending writes of tile t the first commit that waits for it takes. -/
def commitTakes (t : Nat) (jobs : List Job) : Nat :=
  (jobs.findSome? (fun j => match j.src with
    | .commit _ u n => if u = t then some n else none
    | _ => none)).getD 0

/-- Discard every pending shadow write in every block (R379), but for those that the first waiting commit of a tile
takes, and those that a COMMIT which master m, the owner until now, writes in this cycle will take; the commits behind
it apply nothing (R380). DEDUCED: log entry 56. -/
def State.discardShadow (s : State) (m : Nat) : State :=
  let comes (d off : Nat) : Bool := s.bitComes m (d * windowSize + off) 0
  { s with
    jobs := s.jobs.map (fun j => match j.src with
      | .commit m t n => { j with src := .commit m t (min n (commitTakes t s.jobs)) }
      | _ => j)
    tiles := tmap {} (fun k t =>
      if comes (dieTile k) 0xFFC then t
      else { t with pending := t.pending.take (commitTakes k s.jobs), pendAt := (0, 0) }) s.tiles
    laneDies := tmap {} (fun n d => if comes (dieLane n) 0x1FFC then d else { d with pending := [], pendAt := (0, 0) }) s.laneDies
    ftc := if comes 0 0x29FC then s.ftc else { s.ftc with detPending := none, detAt := 0, detOld := none } }

/-- A write that only the owner may make (R376). One of the owner until this cycle applies before the change, whose
discard then takes what it left pending (R380). -/
def State.ownerWrite (s : State) (m : Nat) (f : State → State) : State :=
  if s.isOwner m then f s else if s.stillOwner m then (f s).discardShadow m else s.refuseWrite m

/-- A register write refused while its unit is enabled (R383): the block's flag is the caller's. -/
def State.wweEvent (s : State) (m off v : Nat) : State := s.event 0x70 0 m off v

/-! ## Access to a die's registers (16 R473 to R477) -/

/-- The reference that the die's clocks come from is lost: CREF1 for a Caldera die, CREF0 for a tile, a plane and,
once its PLL has taken over, TD, which is the management hub (02 R48, R51). DEDUCED: log entry 178. -/
def State.clkStopped (s : State) (d : Nat) : Bool :=
  match dieKind d with
  | .caldera => (s.die d).clockBad.contains clkCref1
  | .tile => (s.die d).clockBad.contains clkCref0
  | .plane => (s.die d).clockBad.contains clkCref0
  | .td => s.boot.tdPll && (s.die d).clockBad.contains clkCref0
  | _ => false

/-- The die is out of reset. -/
def State.dieUp (s : State) (d : Nat) : Bool := (s.die d).released && !(s.die d).inReset

/-- The die is out of reset and its clocks run: only then does anything happen on it or pass a crossing into or
out of it (02 R50, R51). -/
def State.dieRuns (s : State) (d : Nat) : Bool := s.dieUp d && !s.clkStopped d

/-- No packet is forwarded and nothing is reduced: the safe state, or the power-fault ramp (13 R410, 02 R37). -/
def State.halted (s : State) : Bool := s.vent.inSafe || s.float.stopped

/-- Something that happens on a die, where the die runs. -/
def onDie (d : Nat) (f : State → State) (s : State) : State := s.when (s.dieRuns d) f

/-- Something that the management hub does, while its clock runs (02 R51). -/
def onHub (f : State → State) (s : State) : State := s.when (!s.clkStopped dieTD) f

/-- Master m has a path to the management hub, whose clock runs (02 R51): in BOOT_HALT HOST has none (15 R456). -/
def State.hasPath (s : State) (m : Nat) : Bool :=
  !s.clkStopped dieTD && !(m == mHost && s.boot.phase == .bootHalt)

/-- Something that the management hub does for master m. -/
def onPath (m : Nat) (f : State → State) (s : State) : State := s.when (s.hasPath m) f

/-- The die is out of reset and its registers are clocked: MG_CSR runs from CREF0 on every die (02 R48, R51).
DEDUCED: log entry 178. -/
def State.csrRuns (s : State) (d : Nat) : Bool := s.dieUp d && !(s.die d).clockBad.contains clkCref0

/-- A hop from the management hub leads to the die: over TD.S0 to T0, over TD.S1 to T8 (01 R17). -/
def State.hubHop (s : State) (d : Nat) : Bool :=
  (d == dieTile 0 && !s.pkg.mgmtFailed.getLsbD 0 || d == dieTile 8 && !s.pkg.mgmtFailed.getLsbD 1) && s.csrRuns d

/-- Some path from the management hub to the die has all its hops up: T0 or T8, from there each plane, through
the planes every tile and Caldera die, and through its tile a lane die (01 R17). -/
def State.hopsUp (s : State) (d : Nat) : Bool :=
  let hub := s.hubHop (dieTile 0) || s.hubHop (dieTile 8)
  let planes := hub && (List.range 8).any (fun p => s.csrRuns (diePlane p))
  match dieKind d with
  | .plane => hub
  | .tile => s.hubHop d || planes
  | .caldera => planes
  | .lane =>
    let t := dieTile ((d - 36) / 2)
    s.csrRuns t && (s.hubHop t || planes)
  | _ => true

/-- The die of a window can be reached: it is out of reset, its MG_CSR has its reference CREF0, and it
has a management path (02 R51, 16 R475, 01 R17). The
package record and TD, which is the management hub itself, always can. DEDUCED: log entry 15. -/
def State.reachable (s : State) (w : Nat) : Bool :=
  decide (w ≤ 1) || (s.csrRuns w && (s.die w).path && s.hopsUp w)

/-- Record a refused access in a master's PK_ACC_STATUS (16 R477). -/
def accessRefused (m : Nat) (die : Option Nat) (s : State) : State :=
  let s := s.hwSet (if die.isSome then wbUnreachable m else wbBadAccess m)
  s.modMaster m (fun x =>
    match die with
    | some d => { x with unreachable := true, accDie := BitVec.ofNat 8 d, accCount := satInc x.accCount }
    | none => { x with badAccess := true, accCount := satInc x.accCount })

/-- An access by master m to the die of window w: f where the die can be reached (16 R475).
DEDUCED: log entry 12. -/
def accessDie (m w : Nat) (f : State → State) (s : State) : State :=
  if !s.hasPath m then s else if s.reachable w then f s else accessRefused m (some w) s

end Sys2Proof.Machine
end

