-- ==== Sys2Proof/Machine/Flags.lean ====
section
/-! DEFINITION. Fault flags: the sources, enables and timers of Vent and the raising of a source
(13 R401 to R404, R408, R414, R417). -/

namespace Sys2Proof.Machine

/-- The source index exists on the die (13 R401). -/
def sourceListed (d src : Nat) : Bool :=
  match dieKind d with
  | .none => false
  | .td => decide (src ≤ 4) || decide (8 ≤ src ∧ src ≤ 12)
  | .is => decide (src ≤ 4)
  | .tile => decide (src ≤ 4) || decide (8 ≤ src ∧ src ≤ 15) || (src == 16 && (d == 4 || d == 12))
  | .plane => decide (src ≤ 4) || src == 8
  | .caldera => decide (src ≤ 4) || decide (8 ≤ src ∧ src ≤ 30)
  | .lane => decide (src ≤ 4) || src == 8

/-- Sources whose default enable is "Always 1" (13 R401). DEDUCED: log entry 143. -/
def sourceAlways (d src : Nat) : Bool := src == 0 || (dieKind d == .td && src == srcThermTrip)

/-- Sources whose default enable is "Fixed 0" (13 R401). -/
def sourceFixed0 (d src : Nat) : Bool :=
  src == srcSymCe || (dieKind d == .td && (src == srcThermSensor || src == srcIsErr)) ||
    (dieKind d == .tile && src == srcHaFail)

/-- The default enable of a source (13 R401). -/
def sourceDefault (d src : Nat) : Bool :=
  sourceListed d src && !sourceFixed0 d src &&
  !(src == srcD2dFail ||
    (dieKind d == .tile && (src == srcGcrcRel || src == srcGcrcEgr)) ||
    (dieKind d == .caldera && (src == srcCaIntake || src == srcParityStore)))

/-- The enable bits that a write can change (13 R414). -/
def sourceWritable (d src : Nat) : Bool :=
  sourceListed d src && !sourceFixed0 d src && !sourceAlways d src

/-- The source is enabled: its default, changed where the owner wrote it (13 R414). -/
def State.sourceEnabled (s : State) (d src : Nat) : Bool :=
  if sourceWritable d src then xor (sourceDefault d src) ((s.die d).enableFlip.getLsbD src)
  else sourceAlways d src

/-- The sticky bit of a source (13 R403). -/
def State.stickyBit (s : State) (d src : Nat) : Bool := (s.die d).sticky.getLsbD src

/-- The reading of a die's sensor in 1/16 degree. -/
def Die.tempVal (d : Die) : Int := d.temp.toInt

/-- Dies whose valid reading is at least c degrees (01 R28). -/
def State.diesAt (s : State) (c : Int) : List Nat :=
  (List.range 104).filter (fun n =>
    (s.die n).tempValid && decide (16 * c ≤ (s.die n).tempVal))

/-- The unit kind and number of a whole die (13 R406). -/
def wholeDie (d : Nat) : Option VUnit :=
  match dieKind d with
  | .tile => some { kind := .tile, die := d, idx := 0xFF }
  | .plane => some { kind := .plane, die := d, idx := 0xFF }
  | .caldera => some { kind := .caldera, die := d, idx := 0xFF }
  | .lane => some { kind := .lane, die := d, idx := 0xFF }
  | _ => none

/-- The die that THERM_HIGH isolates for die n: for M(4c) to M(4c+3), C(c) (13 R401). -/
def thermUnitDie (n : Nat) : Nat := if 72 ≤ n ∧ n < 104 then dieCaldera ((n - 72) / 4) else n

/-- The units a source isolates, as 13 R401 names them: none is the safe state, an empty list is a
source that records only. -/
def State.unitsOf (s : State) (d src : Nat) : Option (List VUnit) :=
  let whole (n : Nat) : Option (List VUnit) := (wholeDie n).map (fun u => [u])
  let idx := tget 0 (s.die d).unitIdx src
  let plane : Option (List VUnit) := some [{ kind := .plane, die := diePlane idx, idx := 0xFF }]
  if src = 0 then none
  else if src = srcSymCe then some []
  else if src < 4 then whole d
  else match dieKind d with
    | .tile =>
      if src = srcPoolPtr then some [{ kind := .pool, die := d, idx := idx }]
      else if src = srcFabCrc then plane
      else if src = srcHaFail then some []
      else whole d
    | .caldera =>
      if 8 ≤ src ∧ src < 24 then some [{ kind := .engine, die := d, idx := src % 8 }]
      else if src = srcCaFabCrc then plane
      else whole d
    | .td =>
      if src = srcThermHigh then (s.diesAt 105).mapM (fun n => wholeDie (thermUnitDie n))
      else if src = srcThermTrip then none
      else if src = srcAggLost then (if idx = 0 then some [] else whole idx)
      else some []
    | _ => whole d

/-- The unit is isolated already (13 R406). -/
def State.unitIsolated (s : State) (u : VUnit) : Bool :=
  (s.die u.die).isolated ||
  (u.kind == .engine && (s.die u.die).engIso.getLsbD u.idx) ||
  (u.kind == .pool && (s.die u.die).poolIso.getLsbD u.idx)

/-- The isolation of the unit, or of one it lies inside, awaits acknowledgement (13 R405). -/
def State.unitIsolating (s : State) (u : VUnit) : Bool :=
  s.vent.isolating.any (fun i => i.unit == u || (i.unit.die == u.die && i.unit.idx == 0xFF))

/-- The die is isolated, or its isolation is under way. -/
def State.dieOut (s : State) (d : Nat) : Bool :=
  (s.die d).isolated || s.vent.isolating.any (fun i => i.unit.die == d && i.unit.idx == 0xFF)

/-- Post VENT with an action and arg1 (13 R417). -/
def State.ventEvent (s : State) (d src action arg1 : Nat) : State :=
  s.event evVent d src action arg1

/-- arg1 of a unit (13 R417). DEDUCED: log entry 146. -/
def ventArg1 (u : VUnit) : Nat :=
  u.die + 256 * u.idx + 65536 *
    (match u.kind with
     | .pool => 1 | .engine => 2 | .caldera => 3 | .plane => 4 | .tile => 5 | .lane => 6)

/-- Start the timer of a source whose bit is set and that is enabled, unless every unit it names is
isolated already (13 R404, R408). A source that names no unit yet has its timer too: the dies of
THERM_HIGH are those at expiry (13 R401). -/
def State.startVentTimer (s : State) (d src : Nat) : State :=
  let inside := match s.unitsOf d src with
    | some us => !us.isEmpty && us.all (fun u => s.unitIsolated u)
    | none => false
  if s.sourceEnabled d src && s.stickyBit d src && !s.vent.inSafe && !inside then
    let tm : VTimer := { startedAt := s.now, windowUs := s.vent.windowUs.toNat }
    s.modDie d (fun x => { x with timers := tset none x.timers src (some tm) })
  else s

/-- Raise a source on a die (13 R403): its bit sets, its timer starts if it is enabled, and the event
VENT with action RAISED is posted on a change from 0 to 1. idx is the pool, plane or die named. Where the owner's clear
came in the same cycle, the bit has stayed set (R9, R408): no change is posted. -/
def State.raise (s : State) (d src : Nat) (idx : Nat := 0) : State :=
  if !sourceListed d src then s
  else if s.stickyBit d src then s.hwSet (wbSticky d src)
  else
    let stays := s.justSet oscCycle (wbCleared d src)
    let s := s.hwSet (wbSticky d src)
    let s := s.modDie d (fun x =>
      { x with sticky := setBit x.sticky src true, unitIdx := tset 0 x.unitIdx src idx })
    (s.startVentTimer d src).when (!stays) (fun s => s.ventEvent d src 1 0)

/-- The die's Vent collector runs: TD's from bring-up on, another's once the die is out of reset
(02 R56). DEDUCED: log entry 149. -/
def State.collects (s : State) (d : Nat) : Bool :=
  dieKind d != .none && (if d = dieTD then s.boot.row != .held else (s.die d).released && !(s.die d).inReset)

/-- TD has seen no heartbeat of the die for 100 µs (13 R402). -/
def State.silent (s : State) (d : Nat) : Bool := s.collects d && s.past (s.die d).heartbeatAt 100000

/-- The source's condition persists, so that a clear is followed by the bit setting again (13 R403): what its bit then
names. DEDUCED: log entry 147. -/
def State.persisting (s : State) (d src : Nat) : Option Nat :=
  let names := tget 0 (s.die d).unitIdx src
  let when (c : Bool) : Option Nat := if c then some names else none
  if src = srcVtSelf then when ((s.die d).copyDiff != 0)
  else if src = srcClkLoss then when (!(s.die d).clockBad.isEmpty)
  else if src = srcD2dFail then when ((s.die d).failedModules != 0)
  else if d ≠ dieTD then none
  else if src = srcThermHigh then when (!(s.diesAt 105).isEmpty)
  else if src = srcThermTrip then when (!(s.diesAt 115).isEmpty)
  else if src = srcThermSensor then when ((List.range 104).any (fun n => (s.die n).sensorBad))
  else if src = srcAggLost then (names :: List.range 68).find? s.silent
  else none

/-- Clear sticky bits by a W1C write of the owner: their timers stop, and a source whose condition
persists sets its bit again in the next cycle (13 R403, R404, R408). A bit that was raised in the same cycle stays set, and its timer
restarts (R9, R408). -/
def State.clearSticky (s : State) (d : Nat) (mask : Nat) : State :=
  let set := (List.range 64).filter (fun i => bitOf mask i && s.stickyBit d i)
  let hit := set.filter (fun i => !s.justSet oscCycle (wbSticky d i))
  let s := s.forEach (set.filter (fun i => s.justSet oscCycle (wbSticky d i))) (fun s i => s.startVentTimer d i)
  let s := s.modDie d (fun x =>
    { x with sticky := hit.foldl (fun v i => setBit v i false) x.sticky
             timers := hit.foldl (fun t i => tset none t i none) x.timers })
  let s := s.forEach hit (fun s i => match s.persisting d i with
    | some n => s.raise d i n
    | none => s)
  s.forEach hit (fun s i => s.hwSet (wbCleared d i))

/-- Write 32 enable bits from source index lo on (13 R404, R414): timers of sources whose bits are set
start when enabled and stop when disabled. -/
def State.writeEnables (s : State) (d lo v : Nat) : State :=
  s.forEach (List.range 32) (fun s i =>
    let src := lo + i
    let want := bitOf v i
    if !sourceWritable d src || s.sourceEnabled d src == want then s
    else
      let s := s.modDie d (fun x =>
        { x with enableFlip := setBit x.enableFlip src (xor (sourceDefault d src) want) })
      if want then s.startVentTimer d src
      else s.modDie d (fun x => { x with timers := tset none x.timers src none }))

/-- Count a corrected symbol on a die, or an uncorrectable row, and raise the source (13 R392). -/
def State.symCorrected (s : State) (d : Nat) : State :=
  (s.modDie d (fun x => { x with symCe := satInc x.symCe })).raise d srcSymCe

def State.symUncorrectable (s : State) (d src : Nat) (idx : Nat := 0) : State :=
  (s.modDie d (fun x => { x with symUe := satInc x.symUe })).raise d src idx

/-- A read of a row that is held in SRAM on a die (13 R392): whether it delivers the row. src: the source of the memory. -/
def sramRead (d src : Nat) (flaw : Flaw) (s : State) : Bool × State :=
  match flaw with
  | .corrected => (true, s.symCorrected d)
  | .uncorrectable => (false, s.symUncorrectable d src)
  | .shared _ _ => (false, s.symUncorrectable d srcSharedUe)
  | _ => (true, s)

/-- A read of a row of GDDR7 device dev of Caldera die c: whether it delivers the row (13 R391, R392). An access whose
EDC or command/address parity fails is retried up to 3 times, each counted; where the retries are exhausted, MEM_LINK is
raised, the device is trained again (16 R480), and the row counts as one that the symbol code cannot correct.
DEDUCED: log entry 260. -/
def gddrRead (c dev : Nat) (flaw : Flaw) (s : State) : Bool × State :=
  let d := dieCaldera c
  match flaw with
  | .corrected => (true, s.symCorrected d)
  | .uncorrectable => (false, s.symUncorrectable d srcMemUe)
  | .edc n =>
    let s := s.modDie d (fun x => { x with aux0 := satAdd x.aux0 (min n 3) })
    if n ≤ 3 then (true, s)
    else
      let s := s.modCaldera c (fun x => { x with mc := tmod {} x.mc dev (fun m => { m with retrains := satInc m.retrains }) })
      (false, (s.raise d srcMemLink).symUncorrectable d srcMemUe)
  | _ => (true, s)

end Sys2Proof.Machine
end

