-- ==== Sys2Proof/Machine/Float.lean ====
section
/-! DEFINITION. Float, the load-step governor: the rise and fall buckets, the requests that wait on them, and
engine starts and stops (02 R38 to R45). -/

namespace Sys2Proof.Machine

/-- Rail groups, in the order of 01 R24: VDD_TD, CORE_T, CORE_P, CORE_C, LANE, VDDA_LANE, MEM, VDDQ_MEM, H. -/
def rgCoreC : Nat := 3

/-- The groups that one step of a change charges, with the milliamperes (R39). -/
def changeCharges (c : FloatChange) (die : Nat) : List (Nat × Nat) :=
  match c with
  | .engine => [(rgCoreC, 2400)]
  | .admission => [(1, 600), (2, 200)]
  | .pacing => [(6, 500), (7, 500)]
  | .lane => [(4, 1400), (5, 700)]
  | .dieClock =>
    match dieKind die with
    | .tile => [(1, 1300)]
    | .plane => [(2, 800)]
    | .caldera => [(rgCoreC, 2000)]
    | _ => []

/-- The buckets of group k with 0.3 A for each ns since they were last filled, at most 2.4 A (R38). -/
def State.bucket (s : State) (k : Nat) : Bucket :=
  let b := tget ({} : Bucket) s.float.buckets k
  let fill (x : Nat) : Nat := min 2400 (x + 300 * (s.now - b.at_))
  { rise := fill b.rise, fall := fill b.fall, at_ := s.now }

/-- The charge of a bucket in one direction. -/
def Bucket.holds (b : Bucket) (up : Bool) : Nat := if up then b.rise else b.fall

/-- Every bucket holds its charge (R38, R40). -/
def State.bucketsHold (s : State) (up : Bool) (ch : List (Nat × Nat)) : Bool :=
  ch.all (fun e => decide (e.2 ≤ (s.bucket e.1).holds up))

/-- Remove the charges from the buckets (R38, R40). -/
def payBuckets (up : Bool) (ch : List (Nat × Nat)) (s : State) : State :=
  s.forEach ch (fun s e =>
    let b := s.bucket e.1
    let b := if up then { b with rise := b.rise - e.2 } else { b with fall := b.fall - e.2 }
    { s with float := { s.float with buckets := tset {} s.float.buckets e.1 b } })

/-- a is granted before b where both wait on one group: in the order raised, and in one tick by die number
and unit (R40). -/
def reqBefore (a b : FloatReq) : Bool :=
  decide (a.raisedAt < b.raisedAt) || (a.raisedAt == b.raisedAt &&
    (decide (a.die < b.die) || (a.die == b.die && decide (a.unit ≤ b.unit))))

/-- Put a request in its place (R40). -/
def insertReq (x : FloatReq) : List FloatReq → List FloatReq
  | [] => [x]
  | y :: ys => if reqBefore y x then y :: insertReq x ys else x :: y :: ys

/-- Ask Float for a change. -/
def askFloat (x : FloatReq) (s : State) : State :=
  { s with float := { s.float with waiting := insertReq x s.float.waiting } }

/-- Ask for the fall of an engine that runs to idle, the engines in ascending order (R42); one that waits already is
not asked for again. -/
def askStops (es : List Nat) (s : State) : State :=
  s.forEach es (fun s e =>
    let x : FloatReq :=
      { change := .engine, up := false, die := dieCaldera (e / 8), unit := e % 8, raisedAt := s.now }
    if !(s.engine e).running ||
        s.float.waiting.any (fun y => !y.past && y.change == .engine && y.die == x.die && y.unit == x.unit) then s
    else askFloat x s)

/-- A stop that waits is withdrawn: the engine adds again at full rate (R42). -/
def keepRunning (es : List Nat) (s : State) : State :=
  { s with float := { s.float with waiting := s.float.waiting.filter (fun x =>
      x.past || !(x.change == .engine && !x.up && es.contains (8 * (x.die - 28) + x.unit))) } }

/-- Ask for n admission steps down of a tile (R39, R44). -/
def askAdmissionFall (t : Nat) (s : State) : State :=
  let n := tget 0 s.admitted t
  s.when (n != 0) (askFloat
    { change := .admission, up := false, die := dieTile t, unit := 0, raisedAt := s.now, steps := n })

/-- Ask for the memory pacing of a Caldera die to fall to nothing (R39, R45). -/
def askPacingFall (c : Nat) (s : State) : State :=
  let n := (s.caldera c).pacing
  s.when (n != 0) (askFloat
    { change := .pacing, up := false, die := dieCaldera c, unit := 0, raisedAt := s.now, steps := n })

/-- Withdraw what waits for engines, admission and pacing. -/
def dropWork (s : State) : State :=
  let kept := s.float.waiting.filter (fun x => x.past || x.change == .lane || x.change == .dieClock)
  { s with float := { s.float with starts := [], waiting := kept } }

/-- Every engine, tile and memory controller comes down through the fall buckets: each falls by the steps that it
stands at (R37, R45). -/
def askWorkFalls (s : State) : State :=
  let s := askStops (List.range 64) (dropWork s)
  let s := s.forEach (List.range 16) (fun s t => askAdmissionFall t s)
  s.forEach (List.range 8) (fun s c => askPacingFall c s)

/-- GDDR7 of a Caldera die enters self-refresh once its memory controllers have stepped down (R45). -/
def selfRefreshAt (c : Nat) (s : State) : State :=
  s.when ((s.caldera c).pacing == 0) (fun s => s.modCaldera c (fun x =>
    { x with mc := tupd {} x.mc (List.range 4) (fun _ m => { m with selfRefresh := m.trained }) }))

/-- The 1/32 parts of its full rate that a tile fills with null cells: its arrivals fell, and the steps down wait
for the fall bucket (R44). Null cells carry nothing, take no buffer and are discarded at the tile's output. -/
def State.fillSteps (s : State) (t : Nat) : Nat :=
  s.float.waiting.foldl (fun n x => if x.change == .admission && !x.up && !x.past && x.die == dieTile t then n + x.steps else n) 0

/-- Cells that a tile's admitted rate lets in for each window of 128 ns: 32 lanes, one cell on each in 5.12 ns, by
1/32 parts (R44). DESIGN CHOICE: log entry 200. -/
def State.admittedCells (s : State) (t : Nat) : Nat := 25 * tget 0 s.admitted t

/-- A cell arrives at a tile. -/
def noteArrival (t : Nat) (s : State) : State :=
  s.modTile t (fun x => { x with arrivals := (s.now / 128, (if x.arrivals.1 = s.now / 128 then x.arrivals.2 else 0) + 1) })

/-- The tile's arrivals exceed its admitted rate: it withholds link credits (R44). -/
def State.overAdmitted (s : State) (t : Nat) : Bool :=
  let a := (s.tile t).arrivals
  a.1 == s.now / 128 && decide (s.admittedCells t < a.2)

/-- Ask Float to enable or disable a lane; a change of the lane that still waits is withdrawn, and one in that state
already needs no change (R39). DESIGN CHOICE: log entry 163. -/
def askLane (l : Nat) (up : Bool) (s : State) : State :=
  let s := { s with float := { s.float with
    waiting := s.float.waiting.filter (fun x => x.past || !(x.change == .lane && x.die == 36 + laneDieOf l && x.unit == l % 16)) } }
  if (s.lane l).enabled == up then s
  else askFloat { change := .lane, up := up, die := 36 + laneDieOf l, unit := l % 16, raisedAt := s.now } s

/-- The two requests wait on a common group. -/
def sharesGroup (a b : FloatReq) : Bool :=
  (changeCharges a.change a.die).any (fun e => (changeCharges b.change b.die).any (fun d => d.1 == e.1))

/-- The request waits on VDD_CORE_C. -/
def onCoreC (x : FloatReq) : Bool := (changeCharges x.change x.die).any (fun e => e.1 == rgCoreC)

/-- The first request that is not behind another on a group it charges and whose buckets hold its charge; a
request on VDD_CORE_C is also behind the engine starts raised no later than it (R40, DEDUCED, log entry 130). -/
def State.grantable (s : State) : List FloatReq → List FloatReq → Option FloatReq
  | _, [] => none
  | ahead, x :: xs =>
    let behind := ahead.any (sharesGroup x) ||
      (onCoreC x && s.float.starts.any (fun q => decide (q.raisedAt ≤ x.raisedAt)))
    if !behind && s.bucketsHold x.up (changeCharges x.change x.die) then some x
    else s.grantable (ahead ++ [x]) xs

/-- Record the wait of a granted change (16 R478). -/
def waited (since : Nat) (s : State) : State :=
  let w := min (2 ^ 32 - 1) (s.now - since)
  { s with float := { s.float with maxWait := BitVec.ofNat 32 (max s.float.maxWait.toNat w) } }

/-- What one granted step of a change does (R39); the fall of what a reset of the package has stopped shows nowhere. -/
def changeStep (x : FloatReq) (s : State) : State :=
  let step (n top : Nat) : Nat := if x.up then min top (n + 1) else n - 1
  if x.past then s
  else match x.change with
  | .lane => s.modLane (16 * (x.die - 36) + x.unit) (fun l => { l with enabled := x.up })
  | .admission => { s with admitted := tmod 0 s.admitted (x.die - 4) (fun n => step n 32) }
  | .pacing =>
    let s := s.modCaldera (x.die - 28) (fun c => { c with pacing := step c.pacing 16 })
    s.when s.halted (selfRefreshAt (x.die - 28))
  | .engine => s.modEngine (8 * (x.die - 28) + x.unit) (fun e => { e with running := x.up })
  | .dieClock => s

/-- Take one step of a request off the list. -/
def takeStep (x : FloatReq) : List FloatReq → List FloatReq
  | [] => []
  | y :: ys =>
    if y = x then (if 1 < y.steps then { y with steps := y.steps - 1 } :: ys else ys) else y :: takeStep x ys

/-- The next waiting change is granted (R38, R40). -/
def grantNext (s : State) : State :=
  match s.grantable [] s.float.waiting with
    | none => s
    | some x =>
      let s := payBuckets x.up (changeCharges x.change x.die) s
      let s := { s with float := { s.float with waiting := takeStep x s.float.waiting } }
      changeStep x (s.when (!x.past) (waited x.raisedAt))

/-- Package reset: every field takes its reset value, but for the contents of the image store and the inputs, which
are not the Driant's (R10, R26, R52). What the model holds beside the machine goes on: the queue, the time, the
free values, the identifiers and what has left the block. -/
def packageReset (cause : BitVec 4) (s : State) : State :=
  { State.reset with
    pending := s.pending, now := s.now, freeIx := s.freeIx, nextId := s.nextId, sent := s.sent
    pins := { pwrOk := s.pins.pwrOk, pkgRstN := s.pins.pkgRstN, hThermN := s.pins.hThermN
              tck := s.pins.tck, tms := s.pins.tms, tdi := s.pins.tdi, trstN := s.pins.trstN }
    boot := { cause := cause, zeroAt := s.now }
    is0 := { flash := s.is0.flash, opSealed := s.is0.opSealed }
    is1 := { flash := s.is1.flash, opSealed := s.is1.opSealed } }

/-- The 1/64 parts of its rate at which a die's core clocks run (R39). -/
def State.clockLevel (s : State) (d : Nat) : Nat :=
  s.float.waiting.foldl (fun n x =>
    if x.past || x.change != .dieClock || x.die != d then n else if x.up then n - x.steps else n + x.steps)
    (if (s.die d).released then 64 else 0)

/-- What a reset of the package leaves to Float: the falls of everything that draws current, which wait on their buckets
and are granted in the reset and after it (R38 to R40). DEDUCED: log entry 251. -/
def State.coolDown (s : State) : FloatState :=
  let kept := s.float.waiting.filter FloatReq.past
  let at_ := { s with float := { s.float with waiting := [] } }
  let at_ := askWorkFalls at_
  let at_ := at_.forEach ((List.range 512).filter (fun l => (s.lane l).enabled)) (fun s l => askLane l false s)
  let at_ := at_.forEach ((List.range 8).map diePlane ++ (List.range 16).map dieTile ++ (List.range 8).map dieCaldera)
    (fun x d => x.when (s.clockLevel d != 0) (askFloat
      { change := .dieClock, up := false, die := d, unit := 8, raisedAt := s.now, steps := s.clockLevel d }))
  { waiting := kept ++ at_.float.waiting.map (fun x => { x with past := true }), buckets := s.float.buckets }

/-- The power-fault ramp ends in package reset once no fall waits, and at most 5 µs after its start (R37).
DESIGN CHOICE: log entry 201. -/
def rampEnd (s : State) : State :=
  match s.float.rampFrom with
  | none => s
  | some u => if s.float.waiting.isEmpty || s.past u 5000 then packageReset 1 s else s

/-- FLOAT_GRANT: the next waiting change is granted; in the power-fault ramp the falls are, and then the package is
in reset (R37, R38, R40). -/
def floatGrant (s : State) : State :=
  if s.float.rampFrom.isSome then
    let s := rampEnd s
    s.when s.float.rampFrom.isSome (fun s => rampEnd (grantNext s))
  else grantNext s

/-- ENGINE_START: the next start in the order of R42, at least 8 ticks after the one before and with a full
rise bucket. The request of an engine that runs by now takes no place. -/
def engineStart (s : State) : State :=
  if s.halted then s
  else match s.float.starts with
    | [] => s
    | q :: qs =>
      if (s.engine q.engine).running || !(s.engine q.engine).inService then
        { s with float := { s.float with starts := qs } }
      else
        let spaced := match s.float.lastStart with
          | some u => s.past u 8
          | none => true
        let behind := s.float.waiting.any (fun x => onCoreC x && decide (x.raisedAt < q.raisedAt))
        if !spaced || behind || !s.bucketsHold true (changeCharges .engine 28) then s
        else
          let s := payBuckets true (changeCharges .engine 28) s
          let s := { s with float := { s.float with
                       starts := qs, lastStart := some s.now, engineStarts := satInc s.float.engineStarts } }
          (waited q.raisedAt s).modEngine q.engine (fun e => { e with running := true })

/-- The request stands behind no other on a group it charges, among those that wait. -/
def State.firstInLine (s : State) (x : FloatReq) : Bool :=
  !(s.float.waiting.takeWhile (fun y => y != x)).any (sharesGroup x) &&
  !(onCoreC x && s.float.starts.any (fun q => decide (q.raisedAt ≤ x.raisedAt)))

/-- An invocation that has launched and not ended may be adding on the engine (R42). -/
def State.engineAdds (s : State) (e : Nat) : Bool :=
  s.invs.any (fun k => match k.2 with
    | some v => v.engines.contains e && v.launched && v.state != .abort && v.state != .done
    | none => false)

/-- ENGINE_STOP: an engine on which no invocation adds any longer, whose stop waits and is first in line on
VDD_CORE_C, stops through the fall bucket (R40, R42). -/
def engineStop (e : Nat) (s : State) : State :=
  match s.float.waiting.find? (fun x =>
      !x.past && x.change == .engine && !x.up && x.die == dieCaldera (e / 8) && x.unit == e % 8) with
  | none => s
  | some x =>
    let ch := changeCharges .engine x.die
    if s.engineAdds e || !s.firstInLine x || !s.bucketsHold false ch then s
    else
      let s := payBuckets false ch s
      let s := { s with float := { s.float with waiting := takeStep x s.float.waiting } }
      changeStep x (waited x.raisedAt s)

/-- PWR_OK[k] falls, k not 0, while the Driant is out of reset: one MSI-X message on vector 0 where the host attach is
up, without the cause word; Float stops all work, withdraws every rise and files the fall of every engine, tile, memory
controller and lane, and package reset follows (R37, R52, 12 R371). A fall in reset leaves it in package reset, and one in the ramp only shows on the input.
DEDUCED: log entry 153. -/
def pwrOkFall (k : Nat) (s : State) : State :=
  let s := { s with pins := { s.pins with pwrOk := setBit s.pins.pwrOk k false } }
  if s.float.rampFrom.isSome then s
  else if s.boot.row == .held then packageReset 1 s
  else
    let s := askWorkFalls (s.msix 0)
    let s := { s with float := { s.float with waiting := s.float.waiting.filter (fun x => !x.up) } }
    let s := s.forEach ((List.range 512).filter (fun l => (s.lane l).enabled)) (fun s l => askLane l false s)
    rampEnd { s with float := { s.float with stopped := true, rampFrom := some s.now } }

/-- PWR_OK[0] falls: TD stops at once, and the package is in reset (R37, R52). -/
def pwrOk0Fall (s : State) : State :=
  packageReset 1 { s with pins := { s.pins with pwrOk := setBit s.pins.pwrOk 0 false } }

/-- ADMISSION_STEP of a tile: taken at once where nothing waits ahead of it and the buckets hold, and
otherwise it waits (R39, R44). -/
def admissionStep (tile : Nat) (up : Bool) (s : State) : State :=
  let n := tget 0 s.admitted tile
  if s.halted || !s.dieRuns (dieTile tile) || (if up then decide (32 ≤ n) else n == 0) then s
  else
    let x : FloatReq := { change := .admission, up := up, die := dieTile tile, unit := 0, raisedAt := s.now }
    let ch := changeCharges x.change x.die
    if s.float.waiting.any (sharesGroup x) || !s.bucketsHold up ch then askFloat x s
    else changeStep x (waited s.now (payBuckets up ch s))

/-! ## The commands -/

/-- FLOAT_GRANT (R38), also while the package is held in reset: then it grants the falls that the reset left. -/
def execFloatGrant (t : Nat) (s : State) : Out := runPin true t floatGrant s

/-- PWR_OK_FALL of an input other than PWR_OK[0] (R37). -/
def execPwrOkFall (t k : Nat) (s : State) : Out := runPin (decide (1 ≤ k ∧ k ≤ 8)) t (pwrOkFall k) s

/-- PWR_OK0_FALL (R37). -/
def execPwrOk0Fall (t : Nat) (s : State) : Out := runPin true t pwrOk0Fall s

/-- ENGINE_START (R42). -/
def execEngineStart (t : Nat) (s : State) : Out := run true t engineStart s

/-- ENGINE_STOP (R42). -/
def execEngineStop (t e : Nat) (s : State) : Out := run (decide (e < 64)) t (engineStop e) s

/-- ADMISSION_STEP (R44). -/
def execAdmissionStep (t tile : Nat) (up : Bool) (s : State) : Out :=
  run (decide (tile < 16)) t (admissionStep tile up) s

end Sys2Proof.Machine
end

