-- ==== Sys2Proof/Machine/Arith.lean ====
section
/-! DEFINITION. The arithmetic of the engines: element types, decoding, products, basin entries,
rounding, Tephra, results, partials and restore expansion (07 R195 to R224). -/

namespace Sys2Proof.Machine

/-! ## Element types (R195, R196) -/

def etInt8 : Nat := 0x01
def etFp32 : Nat := 0x06
def etMxE4M3 : Nat := 0x09
def etMxE5M2 : Nat := 0x0A
def etMxInt8 : Nat := 0x0B
def etRsInt8 : Nat := 0x10
def etRsInt4 : Nat := 0x11
def etRsLut4 : Nat := 0x12

/-- The code is assigned (R195). -/
def etKnown (c : Nat) : Bool := decide (1 ≤ c ∧ c ≤ 0x0B) || decide (0x10 ≤ c ∧ c ≤ 0x12)

/-- An MX type. -/
def etMx (c : Nat) : Bool := decide (9 ≤ c ∧ c ≤ 0x0B)

/-- An RS type. -/
def etRs (c : Nat) : Bool := decide (0x10 ≤ c ∧ c ≤ 0x12)

/-- An element count of a type must be a multiple of this (R196). -/
def etMultiple (c : Nat) : Nat := if etMx c then 32 else if etRs c then 64 else 1

/-- Width in bits of an integer type. -/
def etIntBits (c : Nat) : Option Nat :=
  if c = 1 then some 8 else if c = 2 then some 16 else if c = 3 then some 32 else none

/-- A floating-point format (R197, R210). -/
structure Fmt where
  /-- bits of an encoding -/
  size : Nat
  /-- precision -/
  p : Nat
  emin : Int
  emax : Int
  /-- the top exponent holds finite values, and only f = 7 is NaN (E4M3) -/
  e4m3 : Bool := false
  deriving DecidableEq, Repr

def fmtFp32 : Fmt := { size := 32, p := 24, emin := -126, emax := 127 }
def fmtFp16 : Fmt := { size := 16, p := 11, emin := -14, emax := 15 }
def fmtBf16 : Fmt := { size := 16, p := 8, emin := -126, emax := 127 }
def fmtE4m3 : Fmt := { size := 8, p := 4, emin := -6, emax := 8, e4m3 := true }
def fmtE5m2 : Fmt := { size := 8, p := 3, emin := -14, emax := 15 }

/-- The format of the elements of a floating-point or MXFP8 type. -/
def etFmt (c : Nat) : Option Fmt :=
  if c = 4 then some fmtFp16 else if c = 5 then some fmtBf16 else if c = 6 then some fmtFp32
  else if c = 7 ∨ c = 9 then some fmtE4m3 else if c = 8 ∨ c = 0x0A then some fmtE5m2 else none

/-- The largest finite value is this many quanta at exponent emax (R210). -/
def Fmt.topK (f : Fmt) : Nat := if f.e4m3 then 14 else 2 ^ f.p - 1
def Fmt.topQe (f : Fmt) : Int := f.emax - (f.p - 1)

/-- Bytes of an element that has whole bytes. -/
def etSize (c : Nat) : Nat := if c = 2 ∨ c = 4 ∨ c = 5 then 2 else if c = 3 ∨ c = 6 then 4 else 1

/-- Bytes of a segment of n elements (R196). -/
def segLen (c n : Nat) : Nat :=
  if etMx c then 128 + n else if c = etRsInt8 then 512 + n else if c = etRsInt4 then 512 + (n + 1) / 2
  else if c = etRsLut4 then 64 + (n + 1) / 2 else n * etSize c

/-- Segments of an invocation of this element count, and elements of one of them (R196). -/
def segCount (count : Nat) : Nat := (count + 4095) / 4096
def segElems (count s : Nat) : Nat := min 4096 (count - 4096 * s)

/-! ## Decoding (R197, R198) -/

/-- A decoded element: a finite value (-1)^neg * m * 2^e, an infinity or NaN. -/
inductive Val where
  | fin (neg : Bool) (m : Nat) (e : Int)
  | inf (neg : Bool)
  | nan
  deriving DecidableEq, Repr

/-- Decode an encoding of a floating-point format (R197). -/
def Fmt.decode (f : Fmt) (b : Nat) : Val :=
  let w := f.size - f.p
  let neg := bitOf b (f.size - 1)
  let e := bitsOf b (f.p - 1) w
  let m := bitsOf b 0 (f.p - 1)
  let e0 := f.emin - (f.p - 1)
  if e = 2 ^ w - 1 ∧ !f.e4m3 then (if m = 0 then .inf neg else .nan)
  else if f.e4m3 ∧ e = 15 ∧ m = 7 then .nan
  else if e = 0 then .fin neg m e0
  else .fin neg (2 ^ (f.p - 1) + m) (e0 + e - 1)

/-- A signed integer as a value. -/
def Val.ofInt (v : Int) (e : Int) : Val := .fin (decide (v < 0)) v.natAbs e

/-- Decode an element of a type other than RS, its MX scale aside (R197). -/
def decodeElem (c b : Nat) : Val :=
  if c = etMxInt8 then .ofInt (signedOf 8 b) (-6)
  else match etIntBits c, etFmt c with
    | some w, _ => .ofInt (signedOf w b) 0
    | none, some f => f.decode b
    | none, none => .nan

/-- Apply an E8M0 scale byte (R198). -/
def Val.scale (x : Nat) : Val → Val
  | .fin n m e => if x = 255 then .nan else .fin n m (e + x - 127)
  | .inf n => if x = 255 then .nan else .inf n
  | .nan => .nan

/-- Element j of a segment of a type other than RS (R196 to R198). -/
def elemVal (c : Nat) (seg : List Byte) (j : Nat) : Val :=
  if etMx c then (decodeElem c (byteAt seg (128 + j)).toNat).scale (byteAt seg (j / 32)).toNat
  else decodeElem c (fieldOf seg (j * etSize c) (etSize c))

/-! ## Products (R199, R200) -/

/-- The product x * w * 2^k (R199). -/
def product (x w : Val) (k : Int) : Val :=
  match x, w with
  | .nan, _ => .nan
  | _, .nan => .nan
  | .inf a, .fin b m _ => if m = 0 then .nan else .inf (xor a b)
  | .fin a m _, .inf b => if m = 0 then .nan else .inf (xor a b)
  | .inf a, .inf b => .inf (xor a b)
  | .fin a m e, .fin b n f => .fin (xor a b) (m * n) (e + f + k)

/-- The weight 1. -/
def Val.one : Val := .fin false 1 0

/-- A number with its sign. -/
def withSign (neg : Bool) (m : Nat) : Int := if neg then -(m : Int) else m

/-! ## Basin entries (R201, R202) -/

/-- s lies in the 104-bit window. -/
def fitsWindow (s : Int) : Bool := decide (-(2 : Int) ^ 103 ≤ s) && decide (s < (2 : Int) ^ 103)

/-- v * 2^k for a count k of 0 or more. -/
def shiftUp (v k : Int) : Int := v * 2 ^ k.toNat

/-- Add a finite non-zero value m * 2^e (R202). -/
def Entry.add (t : Entry) (m e : Int) : Entry :=
  if t.promoted then { t with n := t.n + shiftUp m (e + 320) }
  else if !t.live then
    if fitsWindow m then { t with live := true, win := m, wbase := e }
    else { t with live := true, promoted := true, win := 0, wbase := 0, n := shiftUp m (e + 320) }
  else
    let b := min t.wbase e
    let s := shiftUp t.win (t.wbase - b) + shiftUp m (e - b)
    if fitsWindow s then { t with win := s, wbase := b }
    else { t with promoted := true, win := 0, wbase := 0, n := shiftUp s (b + 320) }

/-- A zero of this sign (R202). -/
def Entry.zero (t : Entry) (neg : Bool) : Entry := { t with seen := true, zeroPos := t.zeroPos || !neg }

/-- Bits of a number. -/
def bitLen (n : Nat) : Nat := if n = 0 then 0 else Nat.log2 n + 1

/-- Add a product under the test of the exact domain (R200): the entry, and whether under_flush counts.
DESIGN CHOICE: log entry 65. -/
def Entry.addVal (t : Entry) (v : Val) : Entry × Bool :=
  match v with
  | .nan => ({ t with nan := true }, false)
  | .inf n => (if n then { t with ninf := true } else { t with pinf := true }, false)
  | .fin neg m e =>
    let top : Int := e + bitLen m - 1
    if m = 0 then (t.zero neg, false)
    else if 320 ≤ top then
      ({ t with oneg := t.oneg || neg, opos := t.opos || !neg, zeroPos := true }, false)
    else if top < -320 then (t.zero neg, true)
    else
      let t := { t with seen := true, zeroPos := true }
      if e < -320 then
        let m' := m / 2 ^ (-320 - e).toNat
        (t.add (withSign neg m') (-320), true)
      else (t.add (withSign neg m) e, false)

/-- The finite value a < the finite value b, -0 below +0 (R208). -/
def finLess (an : Bool) (am : Nat) (ae : Int) (bn : Bool) (bm : Nat) (be : Int) : Bool :=
  let k := min ae be
  let a := shiftUp (withSign an am) (ae - k)
  let b := shiftUp (withSign bn bm) (be - k)
  decide (a < b) || (am == 0 && bm == 0 && an && !bn)

/-- Hold a finite value m * 2^e in place of the value held so far: in the record where the entry is promoted,
otherwise in the window, or in a record where it does not fit (R202, R208). -/
def Entry.hold (t : Entry) (m e : Int) : Entry :=
  if t.promoted then { t with n := shiftUp m (e + 320) }
  else if fitsWindow m then { t with win := m, wbase := if m = 0 then 0 else e }
  else { t with promoted := true, win := 0, wbase := 0, n := shiftUp m (e + 320) }

/-- Take a contribution of MIN, or of MAX, into an entry (R201, R208). -/
def Entry.extreme (t : Entry) (isMax : Bool) (v : Val) : Entry :=
  match v with
  | .nan => { t with nan := true }
  | .inf n => if n then { t with ninf := true } else { t with pinf := true }
  | .fin neg m e =>
    let (w, b) : Int × Int := if t.promoted then (t.n, -320) else (t.win, t.wbase)
    let tn := decide (w < 0) || (w == 0 && !t.zeroPos)
    let better := if isMax then finLess tn w.natAbs b neg m e else finLess neg m e tn w.natAbs b
    if !t.seen || better then
      { t.hold (withSign neg m) e with
        seen := true, live := t.live || m != 0, zeroPos := m == 0 && !neg }
    else t

/-- The value of an entry in units of 2^-320 (R201). -/
def Entry.num (t : Entry) : Int :=
  if t.promoted then t.n
  else if 0 ≤ t.wbase + 320 then shiftUp t.win (t.wbase + 320) else t.win / 2 ^ (-320 - t.wbase).toNat

/-! ## Tephra (R213) -/

/-- Tephra's constant C. -/
def tephraC : BitVec 64 := 0x9E3779B97F4A7C15

/-- Round i on (a, b) (R213). -/
def tephraRound (k0 k1 : BitVec 64) (i : Nat) (ab : BitVec 64 × BitVec 64) : BitVec 64 × BitVec 64 :=
  let rot := [20, 44, 28, 36].getD i 0
  let k := if i % 2 = 0 then k0 else k1
  let a := ab.1 + ab.2 + k + BitVec.ofNat 64 (i + 1) * tephraC
  (a, ab.2.rotateLeft rot ^^^ a)

/-- Tephra (R213). -/
def tephra (k0 k1 : BitVec 64) (group step index site : Nat) : BitVec 64 :=
  let a := BitVec.ofNat 64 (group % 2 ^ 16 + step % 2 ^ 48 * 2 ^ 16)
  let b := BitVec.ofNat 64 (index % 2 ^ 32 + site % 2 ^ 32 * 2 ^ 32)
  let ab := (List.range 4).foldl (fun x i => tephraRound k0 k1 i x) (a, b)
  ab.1 + ab.2

/-! ## Rounding (R210, R211) -/

/-- floor(log2(a / d)) of positive numbers (R210). -/
def floorLog2 (a d : Nat) : Int :=
  let k : Int := (bitLen a : Int) - bitLen d
  if a * 2 ^ (-k).toNat < d * 2 ^ k.toNat then k - 1 else k

/-- Round n / d to an integer: RNE, or SR with the random word (R210). -/
def roundQuotient (sr : Bool) (rbits n d : Nat) : Nat :=
  let k := n / d
  let rem := n % d
  let up := if sr then decide (rbits < rem * 2 ^ 32 / d)
    else decide (2 * rem > d) || (decide (2 * rem = d) && k % 2 == 1)
  if rem ≠ 0 ∧ up then k + 1 else k

/-- The magnitude of num * 2^-320 / den in quanta of 2^qe (R210). -/
def roundAt (sr : Bool) (rbits a den : Nat) (qe : Int) : Nat :=
  let sh := -320 - qe
  if 0 ≤ sh then roundQuotient sr rbits (a * 2 ^ sh.toNat) den
  else roundQuotient sr rbits a (den * 2 ^ (-sh).toNat)

/-- Round to a floating-point format: the encoding, or none where the magnitude overflows (R210). -/
def Fmt.round (f : Fmt) (sr : Bool) (rbits : Nat) (neg : Bool) (a den : Nat) : Option Nat :=
  let sign := b2n neg * 2 ^ (f.size - 1)
  if a = 0 then some sign
  else
    let qe := max (floorLog2 a den - 320) f.emin - (f.p - 1)
    let k := roundAt sr rbits a den qe
    let (k, qe) := if k = 2 ^ f.p then (2 ^ (f.p - 1), qe + 1) else (k, qe)
    if f.topQe < qe ∨ (f.topQe = qe ∧ f.topK < k) then none
    else if k < 2 ^ (f.p - 1) then some (sign + k)
    else some (sign + (qe + f.p - f.emin).toNat * 2 ^ (f.p - 1) + (k - 2 ^ (f.p - 1)))

/-- Round to an integer format of w bits and quantum 2^qe (R210). -/
def roundInt (w : Nat) (qe : Int) (sr : Bool) (rbits : Nat) (neg : Bool) (a den : Nat) : Option Nat :=
  let k := roundAt sr rbits a den qe
  if k > (if neg then 2 ^ (w - 1) else 2 ^ (w - 1) - 1) then none
  else some (fieldOfInt w (withSign neg k))

/-! ## Results (R215 to R217) -/

/-- The state that decides a result element (R215). none_ is an element to which no participant
contributed (R207). -/
inductive Settled where
  | nan
  | inf (neg : Bool)
  | conflict
  | ovf (neg : Bool)
  | value (neg : Bool) (a den : Nat)
  | none_
  deriving DecidableEq, Repr

def opSum : Nat := 1
def opAvg : Nat := 2
def opWsum : Nat := 3
def opMin : Nat := 4
def opMax : Nat := 5
def opXor : Nat := 6
def opAnd : Nat := 7
def opOr : Nat := 8
def opExpand : Nat := 9

/-- MIN or MAX; a bitwise operation. -/
def opExtreme (op : Nat) : Bool := op == 4 || op == 5
def opBitwise (op : Nat) : Bool := decide (6 ≤ op ∧ op ≤ 8)

/-- The value of an entry over a divisor; an exact zero is -0 when zero_pos is clear (R211). -/
def Entry.value (t : Entry) (den : Nat) : Settled :=
  let v := t.num
  .value (decide (v < 0) || (v == 0 && !t.zeroPos)) v.natAbs den

/-- The state of an entry (R208, R215). den is n for the result of AVG, otherwise 1. DESIGN CHOICE: log entry
223. -/
def Entry.settle (t : Entry) (op den : Nat) : Settled :=
  if opExtreme op then
    let first := if op = opMin then t.ninf else t.pinf
    let last := if op = opMin then t.pinf else t.ninf
    if t.nan then .nan
    else if first then .inf (op == opMin)
    else if t.opos && t.oneg then .conflict
    else if t.opos || t.oneg then .ovf t.oneg
    else if t.seen then t.value 1
    else if last then .inf (op != opMin)
    else .none_
  else if t.nan || (t.pinf && t.ninf) then .nan
  else if t.pinf || t.ninf then .inf t.ninf
  else if t.opos && t.oneg then .conflict
  else if t.opos || t.oneg then .ovf t.oneg
  else if t.seen then t.value den
  else .none_

/-- Nothing has been added to the entry. -/
def Entry.empty (t : Entry) : Bool := !(t.seen || t.nan || t.pinf || t.ninf || t.opos || t.oneg)

/-- The identity of MIN or MAX in a type: what changes no extreme (R207). -/
def identityEntry (op code : Nat) : Entry :=
  let neg := op == opMax
  let held (m : Nat) (e : Int) : Entry := { win := withSign neg m, wbase := e, live := true, seen := true }
  match etIntBits code with
  | some w => held (if neg then 2 ^ (w - 1) else 2 ^ (w - 1) - 1) 0
  | none =>
    if code = etMxInt8 then held (if neg then 128 else 127) 121
    else if code = etMxE4M3 then held 7 133
    else if code = 7 then held 7 6
    else if neg then { ninf := true } else { pinf := true }

/-- An element whose segment has participants, all of them padded there, is the identity of the operation: the exact
zero of a sum, the identity of MIN or MAX (R207, R240). DEDUCED: log entry 222. -/
def Entry.padded (t : Entry) (op code ns : Nat) : Entry :=
  if ns = 0 || !t.empty then t
  else if opExtreme op then identityEntry op code else { t with seen := true }

/-- Counters that one element moves (R218). -/
def Arith.nanResult (a : Arith) : Arith := { a with nanResults := satInc a.nanResults }
def Arith.conv (a : Arith) : Arith := { a with convOvf := satInc a.convOvf }
def Arith.conf (a : Arith) : Arith := { a with ovfConflict := satInc a.ovfConflict }

/-- Add counts to counts, saturating. -/
def Arith.plus (a b : Arith) : Arith :=
  { convOvf := satAdd a.convOvf b.convOvf.toNat, ovfConflict := satAdd a.ovfConflict b.ovfConflict.toNat
    underFlush := satAdd a.underFlush b.underFlush.toNat, nanResults := satAdd a.nanResults b.nanResults.toNat
    mxNanBlocks := satAdd a.mxNanBlocks b.mxNanBlocks.toNat, xpBad := satAdd a.xpBad b.xpBad.toNat
    promotions := satAdd a.promotions b.promotions.toNat }

/-- The canonical NaN of a format (R216). -/
def Fmt.nanBits (f : Fmt) : Nat :=
  if f.e4m3 then 0x7F
  else 2 ^ (f.size - 1) - 2 ^ (f.p - 2)

/-- The encoding of an infinity of a format (R216). -/
def Fmt.infBits (f : Fmt) (ovfInf neg : Bool) : Nat :=
  if f.e4m3 then (if ovfInf then 0x7F else 0x7E + 0x80 * b2n neg)
  else 2 ^ (f.size - 1) - 2 ^ (f.p - 1) + b2n neg * 2 ^ (f.size - 1)

/-- The encoding of an overflow of a format (R216). -/
def Fmt.ovfBits (f : Fmt) (ovfInf neg : Bool) : Nat :=
  if ovfInf then f.infBits true neg
  else if f.e4m3 then 0x7E + 0x80 * b2n neg
  else 2 ^ (f.size - 1) - 2 ^ (f.p - 1) - 1 + b2n neg * 2 ^ (f.size - 1)

/-- How an output element is rounded: type, overflow mode, rounding mode. -/
structure OutMode where
  code : Nat
  ovfInf : Bool
  sr : Bool
  op : Nat
  deriving DecidableEq, Repr

/-- Width in bits of an integer output, MXINT8 included. -/
def outIntBits (c : Nat) : Option Nat := if c = etMxInt8 then some 8 else etIntBits c

/-- The encoding of a special state, or of an element without contribution (R207, R216). -/
def specialBits (o : OutMode) (st : Settled) : Nat :=
  match etFmt o.code with
  | some f =>
    match st with
    | .nan => f.nanBits
    | .conflict => f.nanBits
    | .inf n => f.infBits o.ovfInf n
    | .ovf n => f.ovfBits o.ovfInf n
    | .none_ => if o.op = opSum ∨ o.op = opWsum then 0 else f.nanBits
    | .value _ _ _ => 0
  | none =>
    let w := (outIntBits o.code).getD 8
    match st with
    | .ovf false => 2 ^ (w - 1) - 1
    | .ovf true => 2 ^ (w - 1)
    | _ => 0

/-- Count what the state of an element moves (R215, R216). -/
def countState (st : Settled) (a : Arith) : Arith :=
  match st with
  | .nan => a.nanResult
  | .conflict => a.conf
  | .ovf _ => a.conv
  | _ => a

/-- Encode one element of a type without a block scale (R215, R216), counting into a. -/
def encodeElem (o : OutMode) (st : Settled) (rbits : Nat) (a : Arith) : Nat × Arith :=
  match st with
  | .value neg v den =>
    let r := match outIntBits o.code, etFmt o.code with
      | some w, _ => roundInt w 0 o.sr rbits neg v den
      | none, some f => f.round o.sr rbits neg v den
      | none, none => some 0
    match r with
    | some b => (b, a)
    | none => (specialBits o (.ovf neg), a.conv)
  | st => (specialBits o st, countState st a)

/-- The scale exponent of a block before its limit: ⌊log2 max |v|⌋ - emax_elem, 0 without a non-zero
value (R217). -/
def blockScale (c : Nat) (sts : List Settled) : Int :=
  let emax : Int := if c = etMxE4M3 then 8 else if c = etMxE5M2 then 15 else 0
  let logs := sts.filterMap (fun st => match st with
    | .value _ a den => if a = 0 then none else some (floorLog2 a den - 320)
    | _ => none)
  match logs with
  | [] => 0
  | l :: ls => ls.foldl max l - emax

/-- Encode a finite element of an MX block: v / 2^X rounded; a magnitude above the largest of its sign is
set to it, or overflows when X was limited at 127 (R217). -/
def encodeMxValue (o : OutMode) (x : Int) (limited neg : Bool) (a den rbits : Nat) (ar : Arith) : Nat × Arith :=
  let (a, den) := if 0 < x then (a, den * 2 ^ x.toNat) else (a * 2 ^ (-x).toNat, den)
  let r := match etFmt o.code with
    | some f => f.round o.sr rbits neg a den
    | none => roundInt 8 (-6) o.sr rbits neg a den
  match r with
  | some b => (b, ar)
  | none =>
    if limited then (specialBits o (.ovf neg), ar.conv)
    else (specialBits { o with ovfInf := false } (.ovf neg), ar)

/-- Encode a block of an MX type (R217): the scale byte and the element bytes. rbits by position. -/
def encodeBlock (o : OutMode) (sts : List Settled) (rbits : List Nat) (a : Arith) : Nat × List Nat × Arith :=
  let raw := blockScale o.code sts
  let x := max (-127) (min 127 raw)
  let step (acc : List Nat × Arith) (p : Settled × Nat) : List Nat × Arith :=
    let (b, ar) := match p.1 with
      | .value neg v den => encodeMxValue o x (decide (127 < raw)) neg v den p.2 acc.2
      | st => (specialBits o st, countState st acc.2)
    (acc.1 ++ [b], ar)
  let (bs, a) := (sts.zip rbits).foldl step ([], a)
  if o.code = etMxInt8 ∧ sts.contains .nan then
    (0xFF, bs.map (fun _ => 0), { a with mxNanBlocks := satInc a.mxNanBlocks })
  else ((x + 127).toNat, bs, a)

/-- Encode a whole segment from its elements' states (R196, R210 to R217). rb gives an element's random
word. -/
def encodeSegment (o : OutMode) (sts : List Settled) (rb : Nat → Nat) (a : Arith) : List Byte × Arith :=
  if etMx o.code then
    let n := sts.length
    let step (acc : List Byte × List Byte × Arith) (b : Nat) : List Byte × List Byte × Arith :=
      let (sc, bs, ar) := encodeBlock o ((sts.drop (32 * b)).take 32)
        ((List.range 32).map (fun i => rb (32 * b + i))) acc.2.2
      (acc.1 ++ [BitVec.ofNat 8 sc], acc.2.1 ++ bs.map (BitVec.ofNat 8), ar)
    let (sc, bs, a) := (List.range ((n + 31) / 32)).foldl step ([], [], a)
    (padTo 128 sc ++ bs, a)
  else
    let step (acc : List Byte × Nat × Arith) (st : Settled) : List Byte × Nat × Arith :=
      let (b, ar) := encodeElem o st (rb acc.2.1) acc.2.2
      (acc.1 ++ leBytes (etSize o.code) b, acc.2.1 + 1, ar)
    let (bs, _, a) := sts.foldl step ([], 0, a)
    (bs, a)

/-! ## Exact partials (R220 to R222) -/

/-- A code word of R220. -/
def xpCode (c : Nat) : Nat := 0x800 * 2 ^ 52 + c

/-- Split a number into an odd part and a power of two, at most k steps. -/
def oddPart : Nat → Nat → Nat → Nat × Nat
  | 0, a, k => (a, k)
  | fuel + 1, a, k => if a % 2 = 0 ∧ a ≠ 0 then oddPart fuel (a / 2) (k + 1) else (a, k)

/-- Bits 116 to 123 of an entry, promoted set (R203). -/
def Entry.stateByte (t : Entry) : Nat :=
  b2n t.live + 2 + 4 * b2n t.nan + 8 * b2n t.pinf + 16 * b2n t.ninf + 32 * b2n t.opos + 64 * b2n t.oneg +
    128 * b2n t.zeroPos

/-- The magma record of an entry, as element j of its segment, with its owner (R203). -/
def Entry.record (t : Entry) (j owner : Nat) : List Byte :=
  leBytes 84 (fieldOfInt 672 t.num) ++ leBytes 1 t.stateByte ++ leBytes 2 (j % 4096) ++ zeros 1 ++
    leBytes 4 owner ++ zeros 4

/-- The escape record of element j (R203). DEDUCED: log entry 64. -/
def Entry.escape (t : Entry) (j : Nat) : List Byte := t.record j 0

/-- The XP64 word of an entry, and whether its escape record follows (R221). -/
def Entry.xp64 (t : Entry) (op : Nat) : Nat × Bool :=
  let v := t.num
  let finite : Nat × Bool :=
    if v = 0 then (if t.zeroPos then 0 else xpCode 8, false)
    else
      let (m, k) := oddPart 672 v.natAbs 0
      if m ≤ 2 ^ 51 - 1 then
        (fieldOfInt 52 (withSign (decide (v < 0)) m) + fieldOfInt 12 ((k : Int) - 320) * 2 ^ 52, false)
      else (xpCode 1, true)
  match t.settle op 1 with
  | .nan => (xpCode 2, false)
  | .inf n => (xpCode (if n then 4 else 3), false)
  | .conflict => (xpCode 7, false)
  | .ovf n => (xpCode (if n then 6 else 5), false)
  | .none_ => (xpCode 8, false)
  | .value _ _ _ => finite

/-- OR the state bits of an escape record into an entry, promoted aside (R222). -/
def Entry.orState (t : Entry) (b : Nat) : Entry :=
  { t with live := t.live || bitOf b 0, nan := t.nan || bitOf b 2, pinf := t.pinf || bitOf b 3
           ninf := t.ninf || bitOf b 4, opos := t.opos || bitOf b 5, oneg := t.oneg || bitOf b 6
           zeroPos := t.zeroPos || bitOf b 7 }

/-- Take a finite value m * 2^e of a partial into an entry (R202, R208). -/
def Entry.takeFinite (t : Entry) (op : Nat) (m e : Int) : Entry :=
  if opExtreme op then t.extreme (op == opMax) (.fin (decide (m < 0)) m.natAbs e)
  else if m = 0 then t.zero false
  else { t with seen := true, zeroPos := true }.add m e

/-- Add an XP64 word of a type (R222): the entry, and whether xp_bad counts. -/
def Entry.addWord (t : Entry) (op code w : Nat) (rec_ : Option (Int × Nat)) : Entry × Bool :=
  let noOvf := opExtreme op && etMx code
  let xe := signedOf 12 (bitsOf w 52 12)
  let xm := signedOf 52 (bitsOf w 0 52)
  let bad : Entry × Bool := ({ t with nan := true }, true)
  if xe = -2048 then
    match bitsOf w 0 52, rec_ with
    | 1, some (n, st) => ((t.takeFinite op n (-320)).orState st, false)
    | 2, _ => ({ t with nan := true }, false)
    | 3, _ => ({ t with pinf := true }, false)
    | 4, _ => ({ t with ninf := true }, false)
    | 5, _ => if noOvf then bad else ({ t with opos := true }, false)
    | 6, _ => if noOvf then bad else ({ t with oneg := true }, false)
    | 7, _ => if noOvf then bad else ({ t with opos := true, oneg := true }, false)
    | 8, _ =>
      (if opExtreme op then t.extreme (op == opMax) (.fin true 0 0) else t.zero true, false)
    | _, _ => bad
  else if xe < -320 ∨ 351 < xe then bad
  else (t.takeFinite op xm xe, false)

/-! ## Whole segments of contributions -/

/-- Take one decoded contribution of an operation into an entry, counting into a. -/
def Entry.take (t : Entry) (op : Nat) (x w : Val) (k : Int) (a : Arith) : Entry × Arith :=
  if opExtreme op then (t.extreme (op == opMax) x, a)
  else
    let (t', flush) := t.addVal (product x w k)
    (t', if flush then { a with underFlush := satInc a.underFlush } else a)

/-- Count promotions of a segment's entries. -/
def promotionsOf (old new : List Entry) : Nat :=
  ((old.zip new).filter (fun p => !p.1.promoted && p.2.promoted)).length

/-- Add the first n elements of a contribution's segment into entries; the other positions are padded
(R199 to R202, R207, R208). w is the member's weight, k the group's exponent shift. -/
def addElements (op c n : Nat) (w : Val) (k : Int) (seg : List Byte) (es : List Entry) :
    List Entry × Arith :=
  let r := es.foldl (fun (acc : List Entry × Nat × Arith) t =>
    let j := acc.2.1
    if j < n then
      let (t, a) := t.take op (elemVal c seg j) w k acc.2.2
      (t :: acc.1, j + 1, a)
    else (t :: acc.1, j + 1, acc.2.2)) ([], 0, {})
  (r.1.reverse, r.2.2)

/-- Add the XP64 words of an EXACT-UP partial (R222). recs: element, N and state of each record. -/
def addWords (op code : Nat) (words : List Byte) (recs : List (Nat × Int × Nat)) (es : List Entry) :
    List Entry × Arith :=
  let r := es.foldl (fun (acc : List Entry × Nat × Arith) t =>
    let j := acc.2.1
    let rec_ := (recs.find? (fun r => r.1 == j)).map Prod.snd
    let (t, bad) := t.addWord op code (fieldOf words (8 * j) 8) rec_
    (t :: acc.1, j + 1, if bad then { acc.2.2 with xpBad := satInc acc.2.2.xpBad } else acc.2.2)) ([], 0, {})
  (r.1.reverse, r.2.2)

/-- The pad byte of a bitwise operation (R207). -/
def padByte (op : Nat) : Byte := if op = opAnd then 0xFF else 0

/-- One byte of a bitwise operation (R209). -/
def bitwiseByte (op : Nat) (a b : Byte) : Byte :=
  if op = opXor then a ^^^ b else if op = opAnd then a &&& b else a ||| b

/-- The bytes of a contribution of n elements in a segment of total elements: its own bytes, pad bytes up
to the end of the segment's data, zero in the areas of absent blocks (R196, R207). -/
def padBytes (op c n total : Nat) (seg : List Byte) : List Byte :=
  let own (lo len room : Nat) : List Byte := sliceOf seg lo len ++ List.replicate (room - len) (padByte op)
  let b32 (k : Nat) : Nat := (k + 31) / 32
  let b64 (k : Nat) : Nat := 8 * ((k + 63) / 64)
  let half (k : Nat) : Nat := (k + 1) / 2
  if etMx c then padTo 128 (own 0 (b32 n) (b32 total)) ++ own 128 n total
  else if c = etRsInt8 then padTo 512 (own 0 (b64 n) (b64 total)) ++ own 512 n total
  else if c = etRsInt4 then padTo 512 (own 0 (b64 n) (b64 total)) ++ own 512 (half n) (half total)
  else if c = etRsLut4 then own 0 (if n = 0 then 0 else 64) 64 ++ own 64 (half n) (half total)
  else own 0 (n * etSize c) (total * etSize c)

/-- Combine a contribution's bytes (R209). -/
def addBytes (op : Nat) (a b : List Byte) : List Byte :=
  (a.zip b).map (fun p => bitwiseByte op p.1 p.2)

/-! ## Restore expansion (R223, R224) -/

/-- The decoded value of element j of an RS segment (R224). -/
def expandVal (c : Nat) (seg : List Byte) (j : Nat) : Val :=
  let nib (off : Nat) : Nat := bitsOf (byteAt seg (off + j / 2)).toNat (4 * (j % 2)) 4
  if c = etRsLut4 then fmtFp32.decode (fieldOf seg (4 * nib 64) 4)
  else
    let h := 8 * (j / 64)
    let scale := fmtFp32.decode (fieldOf seg h 4)
    let z := signedOf 8 (byteAt seg (h + 4)).toNat
    let q := if c = etRsInt8 then signedOf 8 (byteAt seg (512 + j)).toNat else signedOf 4 (nib 512)
    product scale (.ofInt (q - z) 0) 0

/-- Expand a segment of n elements to its result bytes (R224). -/
def expandSegment (o : OutMode) (c n : Nat) (seg : List Byte) (rb : Nat → Nat) (a : Arith) :
    List Byte × Arith :=
  let sts := (List.range n).map (fun j => (({} : Entry).addVal (expandVal c seg j)).1.settle opSum 1)
  encodeSegment o sts rb a

end Sys2Proof.Machine
end

