-- ==== Sys2Proof/Machine/Basin.lean ====
section
/-! DEFINITION. Where a Caldera die keeps things: the banks of its basin, working slots, landing places and
magma records (07 R201, R203, 09 R262, R263, R271), and the device space of its GDDR7 (09 R283). -/

namespace Sys2Proof.Machine

/-! ## The banks (09 R262, R263) -/

/-- The areas of a die's 512 banks (R262). -/
inductive BankArea where
  | working (engine : Nat)
  | landing
  | magma
  deriving DecidableEq, Repr

/-- The area of a bank (R262). -/
def bankArea (bank : Nat) : BankArea :=
  if bank < 384 then .working (bank / 48) else if bank < 448 then .landing else .magma

/-- Bank and byte offset of entry j of slot n of engine e (R263). -/
def entryPlace (e n j : Nat) : Nat × Nat :=
  let g := n * 1024 + j / 4
  (48 * e + g % 48, g / 48 * 64 + j % 4 * 16)

/-- Bank and byte offset of magma record r (R263). -/
def magmaPlace (r : Nat) : Nat × Nat := (448 + r % 64, 96 * (r / 64))

/-- Bank and byte offset of landing place x (R263). -/
def landingPlace (x : Nat) : Nat × Nat := (384 + x % 64, 256 * (x / 64))

/-- The lowest number from k on that is not used; fuel at least the length of used finds one. -/
def lowestFree (used : List Nat) : Nat → Nat → Nat
  | 0, k => k
  | fuel + 1, k => if used.contains k then lowestFree used fuel (k + 1) else k

/-- The lowest number that is not used. -/
def firstFree (used : List Nat) : Nat := lowestFree used used.length 0

/-! ## Working slots (09 R266, R271) -/

/-- Working slots of an engine that are reserved (R293). -/
def Engine.slotsUsed (x : Engine) : Nat := (x.slots.filter (fun e => e.2.isSome)).length

/-- Reserve n free slots of an engine for invocation record k, the lowest first. DESIGN CHOICE: log entry 219. -/
def Engine.reserve (x : Engine) (k n : Nat) : Engine :=
  let free := ((List.range 72).filter (fun i => (tget none x.slots i).isNone)).take n
  { x with slots := free.foldl (fun t i => tset none t i (some k)) x.slots }

/-- Give back the slots of invocation record k. -/
def Engine.release (x : Engine) (k : Nat) : Engine :=
  { x with slots := x.slots.filter (fun e => e.2 != some k) }

/-- A slot is bound to the segment (R271). -/
def Seg.bound (g : Seg) : Bool := g.slot.isSome

/-- Segment j of an invocation. -/
def Inv.seg (v : Inv) (j : Nat) : Seg := tget {} v.segs j
def Inv.modSeg (v : Inv) (j : Nat) (f : Seg → Seg) : Inv := { v with segs := tmod {} v.segs j f }

/-- The engine that handles segment j (09 R261). -/
def Inv.engineOf (v : Inv) (j : Nat) : Nat := v.engines.getD (j % max 1 v.engines.length) 0

/-- The slots of an engine that segments of an invocation hold. -/
def Inv.slotsBound (v : Inv) (e : Nat) : List Nat :=
  (v.segs.filter (fun g => v.engineOf g.1 == e)).filterMap (fun g => g.2.slot)

/-- The lowest slot that invocation record k has reserved on engine e and no segment holds. -/
def State.slotFor (s : State) (k : Nat) (v : Inv) (e : Nat) : Option Nat :=
  (List.range 72).find? (fun n => tget none (s.engine e).slots n == some k && !(v.slotsBound e).contains n)

/-- Bind a free reserved slot of invocation k to segment j, and clear its entries (R271). Only a segment that
CREDIT may cover takes one. DEDUCED: log entry 60. -/
def bindSeg (k j : Nat) (s : State) : State :=
  match s.inv k with
  | none => s
  | some v =>
    let window := ((s.group v.group).record.map (fun r => r.creditWindow)).getD 0
    let open_ := !v.reserving && v.state != .abort && v.state != .done
    let fits := decide (v.front ≤ j) && decide (j < v.front + window)
    if !open_ || !fits || (v.seg j).bound || (v.seg j).produced || (v.seg j).freed then s
    else
      match s.slotFor k v (v.engineOf j) with
      | none => s
      | some n => s.modInv k (fun v => v.map (fun v => v.modSeg j (fun g => { g with slot := some n, entries := [] })))

/-! ## Magma records (07 R203, 09 R279) -/

/-- Magma records in use (R294). -/
def Caldera.magmaUsed (c : Caldera) : Nat := (c.magma.filter (fun e => e.2.isSome)).length

/-- Give each element that a segment's add has promoted a magma record, the lowest that is free, in rising
position; the entry names it (07 R201). DESIGN CHOICE: log entry 220. -/
def takeMagma (k j : Nat) (old new : List Entry) (m : Tab (Option MagmaOwner)) :
    List Entry × Tab (Option MagmaOwner) :=
  let r := (old.zip new).foldl (fun (acc : List Entry × Nat × Tab (Option MagmaOwner)) p =>
    let (es, i, m) := acc
    if p.2.promoted && !p.1.promoted then
      let x := firstFree (m.map Prod.fst)
      ({ p.2 with win := x } :: es, i + 1, tset none m x (some { inv := k, seg := j, elem := i }))
    else (p.2 :: es, i + 1, m)) ([], 0, m)
  (r.1.reverse, r.2.2)

/-- Free the magma records of segment j of invocation k. -/
def Caldera.freeMagma (c : Caldera) (k j : Nat) : Caldera :=
  { c with magma := c.magma.filter (fun e => match e.2 with
      | some o => !(o.inv == k && o.seg == j)
      | none => true) }

/-- The number of a basin entry in its die. DESIGN CHOICE: log entry 221. -/
def entryIndex (e n j : Nat) : Nat := (e * 72 + n) * 4096 + j

/-- The 96 bytes of magma record r of Caldera die c; zero while it is free (07 R203). -/
def State.magmaRecord (s : State) (c r : Nat) : List Byte :=
  match tget none (s.caldera c).magma r with
  | none => zeros 96
  | some o =>
    match s.inv o.inv with
    | none => zeros 96
    | some v =>
      let g := v.seg o.seg
      (g.entries.getD o.elem {}).record o.elem (entryIndex (v.engineOf o.seg % 8) (g.slot.getD 0) o.elem)

/-- The 16 bytes of a basin entry (07 R201). -/
def Entry.bytes (t : Entry) : List Byte :=
  leBytes 13 (fieldOfInt 104 t.win) ++
    leBytes 3 (fieldOfInt 12 t.wbase + 2 ^ 12 * (b2n t.live + 2 * b2n t.promoted + 4 * b2n t.nan + 8 * b2n t.pinf +
      16 * b2n t.ninf + 32 * b2n t.opos + 64 * b2n t.oneg + 128 * b2n t.zeroPos))

/-- The invocations of which a row of 64 bytes of a bank of Caldera die c holds entries or magma records (R262,
R263). -/
def State.rowHolders (s : State) (c bank row : Nat) : List Nat :=
  match bankArea bank with
  | .working e => (tget none (s.engine (8 * c + e)).slots ((48 * row + bank % 48) / 1024)).toList
  | .landing => []
  | .magma => ((s.caldera c).magma.filterMap (fun e =>
      let p := magmaPlace e.1
      if p.1 = bank ∧ p.2 / 64 ≤ row ∧ row ≤ (p.2 + 95) / 64 then e.2.map (fun o => o.inv) else none)).eraseDups

/-! ## The device space of GDDR7 (09 R283) -/

/-- Rows of 64 data bytes that a partition of this many device bytes holds, each with its 4 check bytes (R283). -/
def partRows (bytes : Nat) : Nat := bytes / 68

/-- Where byte b of a partition's share lies on die c: the device, and the byte within the partition's space on
that device. Units of 1 KiB alternate over the die's four devices (R283). -/
def devicePlace (c b : Nat) : Nat × Nat := (4 * c + b / 1024 % 4, b / 4096 * 1024 + b % 1024)

/-- The devices that hold row k of a share on die c, the one that holds its first byte first (R283). -/
def rowDevices (c k : Nat) : List Nat :=
  [(devicePlace c (68 * k)).1, (devicePlace c (68 * k + 67)).1].eraseDups

/-- The first and last row of block i of a parity share, a block and its directory entry taking 4,112 data
bytes (R283). -/
def blockRows (i : Nat) : Nat × Nat := (4112 * i / 64, (4112 * i + 4111) / 64)

/-- The Caldera die whose GDDR7 holds the sixteenth share of a tile's telemetry history. DEDUCED: log entry 232. -/
def historyDie (t : Nat) : Nat := t / 2

/-! ## Encryption at rest (15 R465) -/

/-- The device, of its die's four, that holds the first byte of row r of a share. -/
def rowDevice (r : Nat) : Nat := 68 * r / 1024 % 4

/-- How many of the first n rows of a share device d holds; 1,024 rows fill 17 units of each device. -/
def rowsOn (d n : Nat) : Nat := n / 1024 * 256 + ((List.range (n % 1024)).filter (fun r => rowDevice r == d)).length

/-- Rows of a die's share of the four partitions. -/
def State.shareRows (s : State) : List Nat :=
  [s.pkg.partA, s.pkg.partB, s.pkg.partRes, s.pkg.partHist].map (fun b => partRows (b / 8))

/-- The partition that row k of a die's share of GDDR7 lies in, and the row of that partition's share. -/
def partOfRow : List Nat → Nat → Nat × Nat
  | [], k => (0, k)
  | n :: rest, k => if k < n then (0, k) else ((partOfRow rest (k - n)).1 + 1, (partOfRow rest (k - n)).2)

/-- The block of a parity share whose last row is row r (R283). -/
def blockEnding (r : Nat) : Option Nat :=
  let i := (64 * r + 63 - 4111) / 4112
  if (blockRows i).2 = r then some i else none

/-- The tweak of row r of partition p's share on die c: m * 2^26 + k. DEDUCED: log entry 233. -/
def State.rowTweak (s : State) (c p r : Nat) : Nat :=
  let d := rowDevice r
  (4 * c + d) * 2 ^ 26 + (s.shareRows.take p).foldl (fun n rows => n + rowsOn d rows) 0 + rowsOn d r

/-- The memory key of a slice. -/
def State.sliceKey (s : State) (slice : Nat) : Option (BitVec 512) :=
  (tget none s.trust.sliceKeys slice).map Prod.fst

/-- The ciphertext that stands in GDDR7 for bytes from data byte a of a share on, written under a key. a is a
multiple of 16, as every entry, block and record begins at one. -/
def State.sealed (s : State) (c p a : Nat) (key : Option (BitVec 512)) (plain : List Byte) : List Byte :=
  (blocks16 plain).zipIdx.flatMap (fun e =>
    let u := a / 16 + e.2
    xtsSealBlock (key.getD Config.clearedKey) (s.rowTweak c p (u / 4)) (u % 4) e.1)

/-- What a read of such bytes decrypts to under the key of the moment. -/
def State.unsealed (s : State) (c p a : Nat) (key : Option (BitVec 512)) (cipher : List Byte) : List Byte :=
  (blocks16 cipher).zipIdx.flatMap (fun e =>
    let u := a / 16 + e.2
    xtsOpenBlock (key.getD Config.clearedKey) (s.rowTweak c p (u / 4)) (u % 4) e.1)

/-- Bytes written under one key and read under another; under the key they were written with they read as
written. -/
def State.reread (s : State) (c p a : Nat) (written now : Option (BitVec 512)) (plain : List Byte) : List Byte :=
  if written = now then plain else s.unsealed c p a now (s.sealed c p a written plain)

/-- Record i of a tile's share of the telemetry history, as TELEM_SNAP reads it (06 R186, R465). -/
def State.historyRecord (s : State) (t i : Nat) : List Byte :=
  let r := tget { key := s.pkg.zeroKey } s.pkg.history (t * 2 ^ 32 + i)
  s.reread (historyDie t) 3 (32 * (t % 2 * (s.tile t).fm.shareRecords + i)) r.key s.trust.pkgKey (padTo 32 r.bytes)

/-- The directory entry of a parity block (09 R287). -/
def PBlock.entry (p : PBlock) : List Byte :=
  leBytes 8 p.folded.toNat ++ leBytes 4 p.crcAcc.toNat ++ leBytes 2 p.blockLo.toNat ++ leBytes 2 p.epochSeq.toNat

end Sys2Proof.Machine
end

