-- ==== Sys2Proof/Machine/Coding.lean ====
section
/-! DEFINITION. The coding of a lane: bit order, Gray-coded PAM4, the RS(544,514) code and the scrambler (03 R62
to R64), and the layout of a cell (R67). -/

namespace Sys2Proof

/-! ## Bits and symbols (R62) -/

/-- The bits of a byte string in the order they are sent: ascending offset, least significant bit first. -/
def bitsLsb (bs : List Byte) : List Bool := bs.flatMap (fun b => (List.range 8).map b.getLsbD)

/-- A number from its bits, the first least significant. -/
def bitsNat : List Bool → Nat
  | [] => 0
  | b :: bs => b2n b + 2 * bitsNat bs

/-- Pieces of n elements, at most k of them. -/
def pieces {α : Type} (n : Nat) : Nat → List α → List (List α)
  | 0, _ => []
  | k + 1, l => if l.isEmpty then [] else l.take n :: pieces n k (l.drop n)

/-- The bytes that a bit string spells. -/
def bytesOfBits (l : List Bool) : List Byte := (pieces 8 l.length l).map (fun p => BitVec.ofNat 8 (bitsNat p))

/-- The level of a pair of bits, the first the more significant of the Gray code. -/
def grayLevel (a b : Bool) : Nat := if a then (if b then 2 else 3) else (if b then 1 else 0)

/-- The PAM4 symbols of a bit string: one for each pair of bits. -/
def pam4 : List Bool → List Nat
  | a :: b :: l => grayLevel a b :: pam4 l
  | _ => []

/-! ## RS(544,514) over GF(2^10) (R62) -/

/-- Multiply by the primitive element in GF(2^10). The field polynomial x^10 + x^3 + 1 is that of IEEE 802.3 Clause
119, which R62 names. PRESUMED: log entry 202. -/
def gfX (a : BitVec 10) : BitVec 10 := if a.msb then (a <<< 1) ^^^ 9 else a <<< 1

/-- The product in GF(2^10). -/
def gfMul (a b : BitVec 10) : BitVec 10 :=
  ((List.range 10).foldl (fun (p : BitVec 10 × BitVec 10) i =>
    (if b.getLsbD i then p.1 ^^^ p.2 else p.1, gfX p.2)) (0, a)).1

/-- A power of the primitive element. -/
def gfPow : Nat → BitVec 10
  | 0 => 1
  | n + 1 => gfX (gfPow n)

/-- The product of a polynomial, leading coefficient first, with x + a. -/
def polyTimes (g : List (BitVec 10)) (a : BitVec 10) : List (BitVec 10) :=
  List.zipWith (· ^^^ ·) (g ++ [0]) (0 :: g.map (gfMul a))

/-- The generator polynomial: the product of x + α^j, j from 0 to 29. PRESUMED: log entry 202. -/
def rsGenerator : List (BitVec 10) := (List.range 30).foldl (fun g j => polyTimes g (gfPow j)) [1]

/-- One message symbol into the division by the generator polynomial: the remainder register, leading first. -/
def rsStep (g : List (BitVec 10)) (r : List (BitVec 10)) (m : BitVec 10) : List (BitVec 10) :=
  let f := m ^^^ r.headD 0
  List.zipWith (fun a b => a ^^^ gfMul f b) (r.drop 1 ++ [0]) (g.drop 1)

/-- The 30 parity symbols of a message, the first symbol sent leading. -/
def rsParity (msg : List (BitVec 10)) : List (BitVec 10) :=
  msg.foldl (rsStep rsGenerator) (List.replicate 30 0)

/-- Symbols of ten bits, the first bit sent the least significant. PRESUMED: log entry 202. -/
def rsSymbols (l : List Bool) : List (BitVec 10) := (pieces 10 l.length l).map (fun p => BitVec.ofNat 10 (bitsNat p))

/-- The bits of symbols. -/
def symbolBits (l : List (BitVec 10)) : List Bool := l.flatMap (fun c => (List.range 10).map c.getLsbD)

/-- A codeword: 5,140 data bits and the 300 parity bits behind them. -/
def rsEncode (data : List Bool) : List Bool := data ++ symbolBits (rsParity (rsSymbols data))

/-- A codeword divides by the generator polynomial. -/
def rsIsCodeword (w : List (BitVec 10)) : Bool :=
  decide (w.length = 544) && rsParity (w.take 514) == w.drop 514

/-- Symbols in which two words differ. -/
def rsDistance (a b : List (BitVec 10)) : Nat := ((List.zipWith (fun x y => b2n (x != y)) a b).foldl (· + ·) 0)

/-- What a decoder makes of a received word: it corrects it to this codeword, at most 15 symbols away. A word with no
such codeword is uncorrectable. -/
def rsCorrectsTo (received w : List (BitVec 10)) : Bool := rsIsCodeword w && decide (rsDistance received w ≤ 15)

/-- What a lane carries of 5,140 bits of its slot stream: their codeword, as PAM4 levels. -/
def codewordLevels (data : List Bool) : List Nat := pam4 (rsEncode data)

/-! ## The symbol code of the memories (13 R392) -/

/-- Multiply by the primitive element in GF(2^8), field polynomial x^8 + x^4 + x^3 + x^2 + 1. -/
def symX (a : Byte) : Byte := if a.msb then (a <<< 1) ^^^ 0x1D else a <<< 1

/-- The product in GF(2^8). -/
def symMul (a b : Byte) : Byte :=
  ((List.range 8).foldl (fun (p : Byte × Byte) i => (if b.getLsbD i then p.1 ^^^ p.2 else p.1, symX p.2)) (0, a)).1

/-- A power of the primitive element. -/
def symPow : Nat → Byte
  | 0 => 1
  | n + 1 => symX (symPow n)

/-- The generator polynomial, leading coefficient first: the product of x + α^j, j from 0 to 3. PRESUMED: log entry
202. -/
def symGenerator : List Byte :=
  (List.range 4).foldl (fun g j => List.zipWith (· ^^^ ·) (g ++ [0]) (0 :: g.map (symMul (symPow j)))) [1]

/-- The 4 check bytes of a row. -/
def symCheck (row : List Byte) : List Byte :=
  row.foldl (fun (r : List Byte) m =>
    let f := m ^^^ r.headD 0
    List.zipWith (fun a b => a ^^^ symMul f b) (r.drop 1 ++ [0]) (symGenerator.drop 1)) (zeros 4)

/-- The 68 bytes in which a row of 64 is stored. -/
def symStored (row : List Byte) : List Byte := padTo 64 row ++ symCheck (padTo 64 row)

/-- What a read of 68 stored bytes delivers: the row, and whether a symbol was corrected, where at most one symbol is
wrong; nothing where more are. -/
def symRead (b : List Byte) : Option (List Byte × Bool) :=
  let ok (b : List Byte) : Bool := symCheck (b.take 64) == b.drop 64
  if ok b then some (b.take 64, false)
  else
    ((List.range 68).findSome? (fun i =>
      ((List.range 256).map (fun v => b.set i (BitVec.ofNat 8 v))).find? ok)).map (fun c => (c.take 64, true))

/-! ## The scrambler (R64) -/

/-- The generator x^31 + x^28 + 1 as it is loaded: all ones. -/
def scrOnes : BitVec 31 := BitVec.allOnes 31

/-- One bit of the generator and its next state. Its output is the sum that enters the register. DESIGN CHOICE: log
entry 203. -/
def scrStep (g : BitVec 31) : Bool × BitVec 31 :=
  let b := xor (g.getLsbD 30) (g.getLsbD 27)
  (b, (g <<< 1) ||| BitVec.ofNat 31 (b2n b))

/-- A bit string XORed with the generator's output, and the generator behind it. -/
def scramble : BitVec 31 → List Bool → List Bool × BitVec 31
  | g, [] => ([], g)
  | g, b :: l =>
    let (k, g) := scrStep g
    let (r, g) := scramble g l
    (xor b k :: r, g)

/-- A slot of a frame as it enters the FEC: slot 0 plain, every other one scrambled, the generator loaded at slot
1. -/
def slotLine (slot : Nat) (g : BitVec 31) (bs : List Byte) : List Byte × BitVec 31 :=
  if slot = 0 then (bs, scrOnes)
  else
    let (l, g) := scramble (if slot = 1 then scrOnes else g) (bitsLsb bs)
    (bytesOfBits l, g)

/-- Slots of a frame (R63). -/
def frameSlots : Nat := 1285

/-- A slot of a frame is a control slot (R63). -/
def controlSlot (slot : Nat) : Bool := slot % 28 == 0

/-- The next slot position. -/
def nextSlot (slot : Nat) : Nat := (slot + 1) % frameSlots

/-! ## Cells (R67) -/

/-- A cell of 264 bytes: header bytes 0 to 3, cell_crc over them and the body, and the body. -/
def cellBytes (ctype : BitVec 4) (vc : BitVec 3) (sub : Bool) (seq : BitVec 12) (crPair : BitVec 4)
    (crCount : Byte) (body : List Byte) : List Byte :=
  let h := leBytes 1 (ctype.toNat + 16 * vc.toNat + 128 * b2n sub) ++ leBytes 2 (seq.toNat + 4096 * crPair.toNat) ++
    [crCount]
  let b := padTo 256 body
  h ++ leBytes 4 (crc32c (h ++ b)).toNat ++ b

end Sys2Proof
end

