-- ==== Sys2Proof/Machine/Packets.lean ====
section
/-! DEFINITION. Packets on the lane and in fabric packet form: header, lengths, trailer, encryption
(04 R102 to R109, 05 R145). -/

namespace Sys2Proof.Machine

/-- A packet on this virtual channel carries a collective header (R102). -/
def hasColl (vc : BitVec 3) : Bool := vc == 1 || vc == 2 || vc == 7

/-- The header fields of 64 bytes (R103), with the reserved bits of bytes 0 to 17 (R112). -/
def parseHdr (b : List Byte) : PktHdr :=
  let b0 := (byteAt b 0).toNat
  let b1 := (byteAt b 1).toNat
  let w8 := fieldOf b 8 4
  let w16 := fieldOf b 16 2
  { rsv := BitVec.ofNat 12 (bitsOf b0 7 1 + 2 * bitsOf b1 7 1 + 4 * bitsOf w8 23 9 + 2048 * bitsOf w16 15 1)
    hdrFormat := BitVec.ofNat 4 (bitsOf b0 0 4), vc := BitVec.ofNat 3 (bitsOf b0 4 3)
    cls := BitVec.ofNat 2 (bitsOf b1 0 2), lc := bitOf b1 2, enc := bitOf b1 3, mcast := bitOf b1 4
    pin := bitOf b1 5, keyPhase := bitOf b1 6, dst := BitVec.ofNat 16 (fieldOf b 2 2)
    src := BitVec.ofNat 16 (fieldOf b 4 2), slice := byteAt b 6, hops := byteAt b 7
    flowLabel := BitVec.ofNat 20 (bitsOf w8 0 20), dlCrossed := BitVec.ofNat 3 (bitsOf w8 20 3)
    seq := BitVec.ofNat 32 (fieldOf b 12 4), payLen := BitVec.ofNat 15 (bitsOf w16 0 15)
    launch := BitVec.ofNat 64 (fieldOf b 24 8), gcmCtr := BitVec.ofNat 56 (fieldOf b 32 7)
    hdrCrc := BitVec.ofNat 16 (fieldOf b 62 2) }

/-- Header bytes 0 to 17, reserved bits as they arrived (R103, R112, R145). DEDUCED: log entry 186. -/
def hdrHead (h : PktHdr) : List Byte :=
  let r := h.rsv.toNat
  [BitVec.ofNat 8 (h.hdrFormat.toNat + 16 * h.vc.toNat + 128 * bitsOf r 0 1),
   BitVec.ofNat 8 (h.cls.toNat + 4 * b2n h.lc + 8 * b2n h.enc + 16 * b2n h.mcast + 32 * b2n h.pin +
     64 * b2n h.keyPhase + 128 * bitsOf r 1 1)] ++
  leBytes 2 h.dst.toNat ++ leBytes 2 h.src.toNat ++ [h.slice, h.hops] ++
  leBytes 4 (h.flowLabel.toNat + 2 ^ 20 * h.dlCrossed.toNat + 2 ^ 23 * bitsOf r 2 9) ++ leBytes 4 h.seq.toNat ++
  leBytes 2 (h.payLen.toNat + 2 ^ 15 * bitsOf r 11 1)

/-- Header bytes 0 to 61. -/
def hdr62 (h : PktHdr) : List Byte :=
  hdrHead h ++ zeros 6 ++ leBytes 8 h.launch.toNat ++ leBytes 7 h.gcmCtr.toNat ++ zeros 23

/-- The 64-byte header with its hdr_crc computed, every reserved byte zero (R104, R145). -/
def hdrBytes (h : PktHdr) : List Byte := hdr62 h ++ leBytes 2 (crc16 (hdr62 h)).toNat

/-- hdr_crc verifies over received bytes (R104). -/
def hdrCrcOk (b : List Byte) : Bool := (crc16 (sliceOf b 0 62)).toNat == fieldOf b 62 2

/-- The packet length L of R102. -/
def pktLen (h : PktHdr) : Nat :=
  64 + (if hasColl h.vc then 32 else 0) + h.payLen.toNat + (if h.enc then 16 else 0) + 8

/-- Cells of a packet of length L (R102). -/
def cellsOf (l : Nat) : Nat := (l + 255) / 256

/-- Cells of the fabric packet form (R145). -/
def fabCells (payLen : Nat) : Nat := (64 + payLen + 255) / 256

/-- The trailer (R105). -/
def trailerBytes (payCrc : BitVec 32) (present : Bool) : List Byte :=
  leBytes 4 payCrc.toNat ++ [BitVec.ofNat 8 (b2n present), 0, 0, 0]

/-- The classes a virtual channel accepts (06 R169): D 0, T 1, G 2, B 3. -/
def classOnVc (vc : BitVec 3) (cls : BitVec 2) : Bool :=
  if vc == 1 || vc == 2 then cls == 0
  else if vc == 3 then cls == 1
  else if vc == 4 then cls == 2
  else if vc == 5 || vc == 6 then cls == 3
  else true

/-- The GCM IV of R108: the salt bytes in the order of its installation, the pair, and gcm_ctr with its most
significant byte first. -/
def gcmIv (salt : BitVec 32) (pair : Nat) (ctr : Nat) : List Byte :=
  leBytes 4 salt.toNat ++ leBytes 1 pair ++ beBytes 7 ctr

/-- Where the plaintext of a packet of this header starts and how long it is: the collective header, if
present, and the payload (R107). -/
def plainLen (h : PktHdr) : Nat := (if hasColl h.vc then 32 else 0) + h.payLen.toNat

/-- A key of one phase and direction. -/
def PortKeys.rx (k : PortKeys) (phase : Bool) : LinkKey := if phase then k.rx1 else k.rx0
def PortKeys.tx (k : PortKeys) (phase : Bool) : LinkKey := if phase then k.tx1 else k.tx0

/-- Change a receive or transmit key. -/
def PortKeys.setRx (k : PortKeys) (phase : Bool) (v : LinkKey) : PortKeys :=
  if phase then { k with rx1 := v } else { k with rx0 := v }
def PortKeys.setTx (k : PortKeys) (phase : Bool) (v : LinkKey) : PortKeys :=
  if phase then { k with tx1 := v } else { k with tx0 := v }

/-- A receive key of the phase was installed now: what is checked in this cycle is checked under the key that was in
force before (15 R464). -/
def State.justRekeyed (s : State) (port : Nat) (phase : Bool) : Bool :=
  match (s.portKeys port).oldRx with
  | some (t, ph, _) => t == s.now && ph == phase
  | none => false

/-- The receive key of a phase for a packet that is checked now (15 R464). -/
def State.rxKey (s : State) (port : Nat) (phase : Bool) : LinkKey :=
  match s.justRekeyed port phase, (s.portKeys port).oldRx with
  | true, some (_, _, k) => k
  | _, _ => (s.portKeys port).rx phase

/-- The plaintext behind the header as far as it has arrived: decrypted where enc is 1 and the key is
installed (R107, R145). -/
def State.plainOf (s : State) (p : InPkt) : List Byte :=
  let h := parseHdr p.bytes
  let body := p.bytes.drop 64
  if h.enc then
    let k := s.rxKey p.port h.keyPhase
    match k.key with
    | some key =>
      xorBytes body (gcmStream key (gcmIv k.salt p.pair h.gcmCtr.toNat) (plainLen h))
    | none => body
  else body

/-- The tag of a whole packet verifies (R107, R110 check 5). -/
def State.tagOk (s : State) (p : InPkt) : Bool :=
  let h := parseHdr p.bytes
  let k := s.rxKey p.port h.keyPhase
  let n := plainLen h
  match k.key with
  | some key =>
    gcmTag key (gcmIv k.salt p.pair h.gcmCtr.toNat)
      (sliceOf p.bytes 0 64 ++ sliceOf p.bytes (64 + n + 16) 8) (sliceOf p.bytes 64 n)
      == sliceOf p.bytes (64 + n) 16
  | none => false

/-- The packet as it leaves on a link: header, collective header, payload, tag and trailer (R102,
R107). key is the transmit key and salt of the port, where it encrypts. -/
def wireBytes (h : PktHdr) (coll payload : List Byte) (payCrc : BitVec 32) (crcPresent : Bool)
    (pair : Nat) (key : Option (BitVec 256 × BitVec 32)) : List Byte :=
  let hb := hdrBytes h
  let plain := (if hasColl h.vc then padTo 32 coll else []) ++ padTo h.payLen.toNat payload
  let tr := trailerBytes payCrc crcPresent
  match key with
  | some (k, salt) =>
    let iv := gcmIv salt pair h.gcmCtr.toNat
    let ct := xorBytes plain (gcmStream k iv plain.length)
    hb ++ ct ++ gcmTag k iv (hb ++ tr) ct ++ tr
  | none => hb ++ plain ++ tr

/-- The header slot of the fabric packet form (05 R145), as the ingress sends it. -/
def headerSlot (h : PktHdr) (coll : List Byte) : List Byte :=
  hdrHead h ++ zeros 6 ++ leBytes 8 h.launch.toNat ++ (if hasColl h.vc then padTo 32 coll else zeros 32)

/-- Byte string of a fabric packet: the header slot and the payload (05 R145). -/
def fabricForm (h : PktHdr) (coll payload : List Byte) : List Byte :=
  headerSlot h coll ++ padTo h.payLen.toNat payload

/-- A fabric packet's body with this index (05 R145). -/
def fabBody (form : List Byte) (i : Nat) : List Byte := sliceOf form (256 * i) 256

/-- The header that a header slot holds (05 R145). -/
def slotHdr (b : List Byte) : PktHdr :=
  { parseHdr (sliceOf b 0 32 ++ zeros 32) with gcmCtr := 0, hdrCrc := 0 }

/-- The smallest pool whose data area holds pay_len (05 R156). -/
def poolFor (payLen : Nat) : Nat :=
  if payLen ≤ 256 then 0 else if payLen ≤ 1024 then 1 else if payLen ≤ 4096 then 2 else 3

end Sys2Proof.Machine
end

