-- ==== Sys2Proof/Machine/Lookup.lean ====
section
/-! DEFINITION. Ports, slices, the route table, sets, path spreading and the lookup of a packet, and the packets that
the Driant originates (03 R95, 04 R110 to R127, 09 R261, R276, 14 R420). -/

namespace Sys2Proof.Machine

/-! ## Ports (03 R95) -/

/-- A port begins at lane p. -/
def State.startsPort (s : State) (p : Nat) : Bool :=
  decide (p < 512) && (s.laneDie (laneDieOf p)).startMap.getLsbD (p % 16)

/-- The width of the port that begins at bit q of a start map (R95). -/
def mapWidth (m : BitVec 16) (q : Nat) : Nat :=
  match (List.range 16).find? (fun i => decide (q < i) && m.getLsbD i) with
  | some q' => q' - q
  | none => 16 - q

/-- The width of port p. -/
def State.portWidth (s : State) (p : Nat) : Nat := mapWidth (s.laneDie (laneDieOf p)).startMap (p % 16)

/-- The port is enabled in the sense of R95. -/
def State.portEnabled (s : State) (p : Nat) : Bool :=
  s.startsPort p && (s.laneDie (laneDieOf p)).enable.getLsbD (p % 16) && (s.laneDie (laneDieOf p)).inUse

/-- The lanes of port p, from lane index 0. -/
def State.portLanes (s : State) (p : Nat) : List Nat := (List.range (s.portWidth p)).map (fun i => p + i)

/-- The port that lane l belongs to: the last start bit at or below it. -/
def State.portOfLane (s : State) (l : Nat) : Nat :=
  let m := (s.laneDie (laneDieOf l)).startMap
  let q := ((List.range (l % 16 + 1)).reverse.find? (fun i => m.getLsbD i)).getD 0
  l / 16 * 16 + q

/-- A start map is valid (R95). -/
def mapValid (m : BitVec 16) : Bool :=
  m.getLsbD 0 && (List.range 16).all (fun q =>
    !m.getLsbD q || ([1, 2, 4, 8, 16].contains (mapWidth m q) && decide (q % mapWidth m q = 0)))

/-- The ports that begin on the lanes of tile t. -/
def State.tilePorts (s : State) (t : Nat) : List Nat :=
  ((List.range 32).map (fun j => 32 * t + j)).filter s.startsPort

/-- The port may encrypt what it sends: its selected transmit phase holds a key, or enc is 0 (15 R464). -/
def State.txKeyed (s : State) (p : Nat) : Bool :=
  !(s.cfg p).enc || ((s.portKeys p).tx (s.portKeys p).selTx).key.isSome

/-- The port is available on a virtual channel (R122, 15 R464). -/
def State.available (s : State) (p : Nat) (vc : BitVec 3) : Bool :=
  s.startsPort p && s.txKeyed p &&
    ((s.port p).state == .active || ((s.port p).state == .quarantine && vc == 0))

/-- A packet of this slice is permitted on the port (R114). -/
def PortCfg.permits (c : PortCfg) (slice : Nat) : Bool := c.slices.getLsbD slice

/-- The slice an EXCLUSIVE port is exclusive to is another one (R119). -/
def PortCfg.exclusiveOther (c : PortCfg) (slice : Nat) : Bool := c.mode == 1 && !c.permits slice

/-! ## Entries (R113, R115 to R117) -/

def rkInvalid : Nat := 0
def rkPort : Nat := 1
def rkSet : Nat := 2
def rkMcast : Nat := 3

/-- The fields of a route entry (R116). -/
def entryKind (w : W32) : Nat := bitsOf w.toNat 0 2
def entryHashOnly (w : W32) : Bool := w.getLsbD 2
def entryTarget (w : W32) : Nat := bitsOf w.toNat 8 12
def entrySlice (w : W32) : Nat := bitsOf w.toNat 24 8

/-- An entry as it is stored for a slice: reserved bits zero, the slice field set (R116, R118). -/
def entryFor (slice : Nat) (w : Nat) : W32 :=
  BitVec.ofNat 32 (bitsOf w 0 3 + 256 * bitsOf w 8 12 + 2 ^ 24 * slice)

/-- The slice descriptor, set and entry of the route state. -/
def State.slice (s : State) (k : Nat) : SliceDesc := tget ({} : SliceDesc) s.routing.slices k
def State.rset (s : State) (k : Nat) : RSet := tget ({} : RSet) s.routing.sets k
def State.route (s : State) (x : Nat) : W32 := tget (0 : W32) s.routing.routes x

/-- The members of a set, in ascending port number (R117). -/
def RSet.ports (r : RSet) : List Nat := (List.range 512).filter (fun p => r.members.getLsbD p)

/-- The length of a slice's region. -/
def SliceDesc.len (d : SliceDesc) : Nat := d.epCount.toNat + d.mcCount.toNat

/-- The index x lies in the region of a valid descriptor. -/
def SliceDesc.covers (d : SliceDesc) (x : Nat) : Bool :=
  d.valid && decide (d.routeBase.toNat ≤ x ∧ x < d.routeBase.toNat + d.len)

/-- The route index of a packet (R115). -/
def routeIndex (d : SliceDesc) (h : PktHdr) : Option Nat :=
  if h.mcast then
    if h.dst.toNat ≥ d.mcCount.toNat then none
    else some (d.routeBase.toNat + d.epCount.toNat + h.dst.toNat)
  else if h.dst.toNat < d.epLo.toNat ∨ h.dst.toNat - d.epLo.toNat ≥ d.epCount.toNat then none
  else some (d.routeBase.toNat + (h.dst.toNat - d.epLo.toNat))

/-! ## Path spreading (R124 to R127) -/

/-- A packet is pinned (R124). -/
def pinned (h : PktHdr) : Bool := h.pin || h.vc == 0 || h.vc == 3 || h.vc == 7

/-- The hash of R125: CRC-32C whose initial value is the seed. -/
def sprayHash (seed : W32) (h : PktHdr) : Nat :=
  let key := leBytes 2 h.src.toNat ++ leBytes 2 h.dst.toNat ++ [h.slice] ++
    leBytes 3 h.flowLabel.toNat ++ leBytes 4 (if pinned h then 0 else h.seq.toNat)
  (key.foldl crc32Byte seed ^^^ 0xFFFFFFFF).toNat

/-- Cells waiting in output queue (p, vc): those of queued packets and the unsent ones of packets in
progress (DEDUCED, log entry 21). -/
def State.queueCells (s : State) (p : Nat) (vc : BitVec 3) : Nat :=
  let o := s.outPort p
  let enc := (s.cfg p).enc
  (o.queue.filter (fun q => q.hdr.vc == vc)).foldl
    (fun n q => n + cellsOf (pktLen { q.hdr with enc := enc })) 0 +
  (o.prog.filter (fun g => g.pkt.hdr.vc == vc)).foldl (fun n g => n + (g.cells - g.sentCells)) 0

/-- The quantised level of R126. -/
def levelOf (depth : Nat) : Nat := if depth = 0 then 0 else min 15 (1 + Nat.log2 depth)

/-- The spray choice of R125 over live members m: the member and whether the choice is adaptive. -/
def spray (h : PktHdr) (m : List Nat) (seed : W32) (level : Nat → Nat) (margin : Nat)
    (adaptive : Bool) : Nat × Bool :=
  let n := m.length
  let k := sprayHash seed h * n / 2 ^ 32
  let at_ (i : Nat) := m.getD i 0
  if !adaptive then (at_ k, false)
  else
    let best := (List.range (n - 1)).foldl (fun best i =>
      let j := (k + i + 1) % n
      if level (at_ j) < level (at_ best) then j else best) k
    if level (at_ best) + margin < level (at_ k) then (at_ best, true) else (at_ k, false)

/-- DET_STRICT covers the slice (R127, 11 R340). -/
def State.strictSlice (s : State) (slice : Nat) : Bool := s.ftc.detStrict && (s.slice slice).priv

/-! ## Local delivery (R111, 09 R261, 14 R420) -/

/-- The physical engine that logical engine k maps to, where its map entry is valid (09 R260). -/
def State.physEngine (s : State) (k : Nat) : Option Nat :=
  let e := s.emap k
  if e.valid then some (e.physX.toNat ^^^ k) else none

/-- The default engine: the lowest-numbered physical engine in service (09 R261). -/
def State.defaultEngine (s : State) : Nat :=
  ((List.range 64).find? (fun e => (s.engine e).inService)).getD 0

/-- The group of a collective header (08 R227). -/
def collGroup (coll : List Byte) : Nat := fieldOf coll 0 2

/-- The segment of a collective header. -/
def collSeg (coll : List Byte) : Nat := bitsOf (fieldOf coll 16 4) 0 20

/-- The tiles' copy of a group (09 R261). -/
def State.planCopy (s : State) (g : Nat) : PlanCopy := tget ({} : PlanCopy) s.copyPlans g

/-- The physical engine that the tiles' copy of the map gives logical engine k (09 R261). -/
def State.copyEngine (s : State) (k : Nat) : Option Nat :=
  let e := tget ({} : EngMap) s.copyMap k
  if e.valid then some (e.physX.toNat ^^^ k) else none

/-- The physical engine a message of this header on vc 1 or 7 is delivered to, by the tiles' copies (09 R261). -/
def State.engineFor (s : State) (vc : BitVec 3) (coll : List Byte) : Nat :=
  let p := s.planCopy (collGroup coll)
  if p.count = 0 then s.defaultEngine
  else
    let k := if vc == 7 then p.first else p.first + collSeg coll % p.count
    (s.copyEngine k).getD s.defaultEngine

/-- Change entry k of the map; the tiles' copies follow before the change completes (09 R261). -/
def remap (k : Nat) (f : EngMap → EngMap) (s : State) : State :=
  let s := s.modEmap k f
  { s with copyMap := tset ({} : EngMap) s.copyMap k (s.emap k) }

/-- The tiles' copies of a group follow its record and plan (09 R261). -/
def copyPlan (g : Nat) (s : State) : State :=
  let x := s.group g
  let c : PlanCopy := match x.record, x.plan with
    | some r, some p => { first := p.engineFirst, count := p.engineCount, slice := r.slice }
    | some r, none => { slice := r.slice }
    | none, _ => {}
  { s with copyPlans := tset ({} : PlanCopy) s.copyPlans g c }

/-- The lowest-numbered Caldera die in service (09 R281). -/
def State.firstCaldera (s : State) : Nat :=
  ((List.range 8).find? (fun c => !(s.caldera c).lost)).getD 0

/-- The fields of a fold tag (14 R421). -/
def tagType (tag : Nat) : Nat := bitsOf tag 0 3
def tagGroup (tag : Nat) : Nat := bitsOf tag 3 4
def tagEpochB (tag : Nat) : Bool := bitOf tag 7
def tagMember (tag : Nat) : Nat := bitsOf tag 8 6
def tagSlot (tag : Nat) : Nat := bitsOf tag 14 2
def tagSeq (tag : Nat) : Nat := bitsOf tag 16 8
def tagBlock (tag : Nat) : Nat := bitsOf tag 24 32

/-- Parity group g and one of its epochs. -/
def State.pgroup (s : State) (g : Nat) : PGroup := tget ({} : PGroup) s.recov.groups g
def PGroup.epoch (g : PGroup) (b : Bool) : Epoch := if b then g.epochB else g.epochA

/-- The Caldera dies of a live list, ascending (09 R286). -/
def liveDies (live : BitVec 8) : List Nat := (List.range 8).filter (fun c => live.getLsbD c)

/-- The home die of block b of group g in an epoch (09 R286). -/
def homeDie (live : BitVec 8) (g b : Nat) : Option Nat :=
  let l := liveDies live
  if l.isEmpty then none else some (l.getD ((b + g) % l.length) 0)

/-- The die a fold packet is delivered to (14 R420). -/
def State.foldDie (s : State) (tag : Nat) : Nat :=
  let g := s.pgroup (tagGroup tag)
  if (tagType tag = 1 ∨ tagType tag = 2) ∧ g.defined then
    (homeDie (g.epoch (tagEpochB tag)).live (tagGroup tag) (tagBlock tag)).getD s.firstCaldera
  else s.firstCaldera

/-- The packet is addressed to parity_ep as a fold packet (14 R420). -/
def State.isFold (s : State) (h : PktHdr) : Bool :=
  s.recov.parityEp != 0xFFFF && h.dst == s.recov.parityEp && !h.mcast && h.vc == 4 && h.cls == 2

/-! ## The decision at lookup (R110 checks 8, 10 and 11, R123) -/

/-- What a lookup decided: the failed check (0 where none), the fabric ports and masks, the copies not
made, and an adaptive choice. -/
structure Decision where
  fail : Nat := 0
  silent : Bool := false
  toMgmt : Bool := false
  dests : List (Nat × BitVec 32) := []
  skips : Nat := 0
  egSlice : Nat := 0
  adaptive : Bool := false
  deriving DecidableEq, Repr

/-- Ports grouped by tile, in ascending tile (05 R153). -/
def portDests (ports : List Nat) : List (Nat × BitVec 32) :=
  (List.range 16).filterMap (fun t =>
    let ps := ports.filter (fun p => tileOf p == t)
    if ps.isEmpty then none
    else some (t, ps.foldl (fun m p => setBit m (p % 32) true) (0 : BitVec 32)))

/-- Check 11: the egress port permits the slice, and encrypts when the slice is confidential. -/
def State.egressOk (s : State) (p : Nat) (slice : Nat) : Bool :=
  (s.cfg p).permits slice && (!(s.slice slice).conf || (s.cfg p).enc)

/-- Look up a routed packet: checks 8, 9, 10 and 11 (R110). arrival is the ingress port, where there is
one; check9 is false for a packet that the Driant originates (09 R276). -/
def State.lookup (s : State) (h : PktHdr) (arrival : Option Nat) (seed : W32) (mayAdapt check9 : Bool)
    (margin : Nat) : Decision :=
  let d := s.slice h.slice.toNat
  match (if d.valid then routeIndex d h else none) with
  | none => { fail := 8 }
  | some x =>
    let e := s.route x
    let k := entryKind e
    if k = rkInvalid then { fail := 8 }
    else if check9 && decide (h.hops.toNat + 1 > d.hopLimit.toNat) then { fail := 9 }
    else if k = rkMcast then
      let members := (s.rset (entryTarget e)).ports.filter (fun p => some p != arrival)
      let live := members.filter (fun p => s.available p h.vc)
      let good := live.filter (fun p => s.egressOk p h.slice.toNat)
      let skips := members.length - live.length
      let bad := live.length - good.length
      if live.isEmpty then { fail := 8, skips := skips }
      else if good.isEmpty then { silent := true, skips := skips, egSlice := bad }
      else { dests := portDests good, skips := skips, egSlice := bad }
    else
      let live := if k = rkPort then [entryTarget e].filter (fun p => s.available p h.vc)
        else (s.rset (entryTarget e)).ports.filter (fun p => s.available p h.vc)
      if live.isEmpty then { fail := 10 }
      else
        let (p, ad) := if k = rkPort then (live.getD 0 0, false)
          else spray h live seed (fun p => levelOf (s.queueCells p h.vc)) margin
            (mayAdapt && !pinned h && !entryHashOnly e && !s.strictSlice h.slice.toNat)
        if s.egressOk p h.slice.toNat then { dests := portDests [p], adaptive := ad }
        else { fail := 11, adaptive := ad }

/-- The egress tile confirms that each port of port_mask is named by the entry under one descriptor
(13 R394). -/
def State.confirmUnder (s : State) (d : SliceDesc) (h : PktHdr) (ports : List Nat) : Bool :=
  match (if d.valid then routeIndex d h else none) with
  | none => false
  | some x =>
    let e := s.route x
    if entryKind e = rkPort then ports.all (fun p => p == entryTarget e)
    else if entryKind e = rkInvalid then false
    else ports.all (fun p => (s.rset (entryTarget e)).members.getLsbD p)

/-- Route confirmation under the slice's descriptor or, within 10 µs of a commit, its previous one
(13 R394). -/
def State.confirms (s : State) (h : PktHdr) (ports : List Nat) : Bool :=
  s.confirmUnder (s.slice h.slice.toNat) h ports ||
  (match tget none s.routing.prev h.slice.toNat with
   | some (d, at_) => decide (s.now < at_ + 10000) && s.confirmUnder d h ports
   | none => false)

/-! ## Packets that a die originates (09 R276) -/

/-- Change the counters of a user (R296). -/
def State.countIntake (s : State) (die u : Nat) (f : IntakeCnt → IntakeCnt) : State :=
  s.modCaldera die (fun c => { c with intake := tmod {} c.intake u f })

/-- Stage the cells of a packet in index order, the copies of each cell in ascending destination. -/
def stageCells (f id n : Nat) (dests : List Nat) (s : State) : State :=
  let new := (List.range n).flatMap (fun i =>
    dests.map (fun d => ({ pkt := id, dst := d, index := i } : Staged)))
  { s with fabric := { s.fabric with staged := tset [] s.fabric.staged f (tget [] s.fabric.staged f ++ new) } }

/-- Build a packet on a die for a unit (an engine 0 to 7, or 8 for the fold unit) and hand it to the egress
(09 R275, R276). A packet that fails check 8, 10 or 11 is discarded and counted in egress_drop of the
engine. frees names the segment whose slot waits for the packet. -/
def sendFrom (die unit : Nat) (h : PktHdr) (coll payload : List Byte) (payCrc : BitVec 32)
    (frees : Option (Nat × Nat)) (s : State) : State :=
  let c := s.caldera die
  if c.lost then s
  else
    let key := h.dst.toNat * 8 + h.vc.toNat
    let h := { h with src := s.pkg.selfEp, hops := 0, seq := tget 0 c.seqs key
                      payLen := BitVec.ofNat 15 payload.length }
    let s := s.modCaldera die (fun c => { c with seqs := tset 0 c.seqs key (h.seq + 1) })
    let d := s.lookup h none (s.tile die).seed false false 0
    if d.fail ≠ 0 ∨ d.silent then
      if unit < 8 then s.countIntake die unit (fun k => { k with egressDrop := satInc k.egressDrop }) else s
    else
      let (id, s) := s.fresh
      let str := d.dests.map (fun x => ({ dst := x.1, mask := x.2, relSeq := 0, sentCells := 0 } : Stream))
      let p : CaPkt := { hdr := h, coll := coll, payload := payload, payCrc := payCrc
                         streams := str, frees := frees }
      let s := s.modCaldera die (fun c => { c with egress := c.egress ++ [(id, p)] })
      let s := match frees with
        | some (k, g) => s.modInv k (fun v => v.map (fun v =>
            { v with segs := tmod {} v.segs g (fun x => { x with leaving := x.leaving + 1 }) }))
        | none => s
      stageCells (16 + die) id (fabCells payload.length) (d.dests.map Prod.fst) s

end Sys2Proof.Machine
end

