-- ==== Sys2Proof/Machine/Operands.lean ====
section
/-! DEFINITION. The operand forms of descriptors: the header and the body of every kind, the checks of
R364 that look at the bytes alone, the queue of descriptors in hand and where a body's data stand
(12 R363 to R366, R374, R375). -/

namespace Sys2Proof.Machine

/-- Descriptor kinds (R365). -/
def dkGroupInstall : Nat := 0x01
def dkPlanLoad : Nat := 0x02
def dkRouteUpdate : Nat := 0x03
def dkShaperSet : Nat := 0x04
def dkPortCtl : Nat := 0x05
def dkWiringAccept : Nat := 0x06
def dkKeyInstall : Nat := 0x07
def dkParityGroup : Nat := 0x08
def dkRebuild : Nat := 0x09
def dkResync : Nat := 0x0A
def dkTelemSnap : Nat := 0x0B
def dkAttest : Nat := 0x0C
def dkHandover : Nat := 0x0D
def dkNop : Nat := 0x0E

/-- A descriptor of this kind runs alongside the others (R365). -/
def dkAlongside (k : Nat) : Bool := k == dkTelemSnap || k == dkAttest || k == dkNop

/-- The fence bit of a descriptor (R363). -/
def descFence (d : List Byte) : Bool := (byteAt d 1).getLsbD 1

/-- The bytes of the body that each kind names (R366): first offset and length. -/
def bodyNamed (k : Nat) : List (Nat × Nat) :=
  if k = dkGroupInstall then [(8, 10)]
  else if k = dkPlanLoad then [(8, 14)]
  else if k = dkRouteUpdate then [(8, 2), (12, 20)]
  else if k = dkShaperSet then [(8, 4), (16, 8)]
  else if k = dkPortCtl then [(8, 3), (12, 14), (32, 8)]
  else if k = dkWiringAccept then [(8, 2)]
  else if k = dkKeyInstall then [(8, 4), (16, 10)]
  else if k = dkParityGroup then [(8, 16)]
  else if k = dkRebuild then [(8, 5)]
  else if k = dkResync then [(8, 2), (16, 6)]
  else if k = dkTelemSnap then [(8, 1), (12, 8), (24, 8)]
  else if k = dkAttest then [(8, 12), (24, 12)]
  else if k = dkHandover then [(8, 1)]
  else []

/-- The operation field of a kind that has one: its value and the largest assigned value (R366). -/
def bodyOp (k : Nat) (d : List Byte) : Nat × Nat :=
  if k = dkRouteUpdate then (fieldOf d 8 1, 5)
  else if k = dkShaperSet then (fieldOf d 9 1, 3)
  else if k = dkPortCtl then (fieldOf d 10 1, 4)
  else if k = dkKeyInstall then (fieldOf d 8 1, 3)
  else if k = dkParityGroup then (fieldOf d 9 1, 4)
  else (1, 1)

/-- R364 check 2: the kind, its operation and the mode of a WIRE are assigned, and no reserved bit or byte is set. -/
def descReservedOk (d : List Byte) : Bool :=
  let k := descKind d
  let (op, top) := bodyOp k d
  decide (1 ≤ k ∧ k ≤ 0x0E) && decide (1 ≤ op ∧ op ≤ top) &&
  decide ((byteAt d 1).toNat < 4) &&
  ((List.range 56).all (fun i =>
    (bodyNamed k).any (fun p => decide (p.1 ≤ i + 8 ∧ i + 8 < p.1 + p.2)) || byteAt d (i + 8) == 0)) &&
  (k != dkKeyInstall || decide (fieldOf d 9 1 < 8)) &&
  (k != dkPortCtl || op != 2 || decide (fieldOf d 12 4 < 3)) &&
  ((k != dkParityGroup || decide (fieldOf d 11 1 < 2)) && (k != dkRebuild || decide (fieldOf d 12 1 < 2)))

/-- The host or staging ranges that a body names, address and length (R366). -/
def bodyRanges (d : List Byte) : List (Nat × Nat) :=
  let k := descKind d
  let op := (bodyOp k d).1
  let a16 := fieldOf d 16 8
  if k = dkGroupInstall then [(fieldOf d 8 8, 64)]
  else if k = dkPlanLoad then [(fieldOf d 8 8, fieldOf d 16 4)]
  else if k = dkRouteUpdate then
    if op = 1 then [(fieldOf d 24 8, 4 * fieldOf d 16 4)]
    else if op = 2 then [(fieldOf d 24 8, 64)]
    else if op = 4 then [(fieldOf d 24 8, 16)] else []
  else if k = dkShaperSet then [(a16, if op = 1 then 32 else if op = 2 then 16 else 8192)]
  else if k = dkPortCtl then if op = 3 then [(fieldOf d 32 8, 512)] else []
  else if k = dkKeyInstall then [(a16, fieldOf d 24 2)]
  else if k = dkParityGroup then if op = 1 then [(a16, 8 * fieldOf d 10 1)] else []
  else if k = dkTelemSnap then [(fieldOf d 24 8, 32 * fieldOf d 16 4)]
  else if k = dkAttest then [(fieldOf d 8 8, fieldOf d 16 4), (fieldOf d 24 8, fieldOf d 32 4)]
  else []

/-- R364 check 3 for one range: 64-byte aligned, spanning at most one 4 KiB page for each 4 KiB of its
length (DEDUCED, log entry 14), and inside the 64 KiB staging area where it is staged. -/
def rangeOk (staged : Bool) (r : Nat × Nat) : Bool :=
  let pages := (r.2 + 4095) / 4096
  decide (r.1 % 64 = 0) &&
  (r.2 == 0 || decide ((r.1 + r.2 - 1) / 4096 - r.1 / 4096 + 1 ≤ pages)) &&
  (!staged || decide (r.1 + r.2 ≤ 65536))

/-- R364 check 1 (R363): the check field verifies where it must be present. -/
def descCheckOk (required : Bool) (d : List Byte) : Bool :=
  let present := (byteAt d 1).getLsbD 0
  if present then crc16 (patch d 2 [0, 0]) == BitVec.ofNat 16 (fieldOf d 2 2)
  else !required

/-- The master that the descriptor's addresses lie in the staging area of, if any (R375). -/
def jobStaged (src : JobSrc) : Bool := jobMaster src != mHost

/-- The check_req of a descriptor's ring (R364). -/
def State.checkRequired (s : State) : JobSrc → Bool
  | .ring r _ => (s.ring r).checkReq
  | _ => false

/-! ## Completions (12 R367, R374, R375) -/

/-- The tag of a management packet (15 R466): the first 32 bytes of HMAC-SHA-384 under the slot's key,
over le16(src), le16(dst), the slice byte and payload bytes 0 to pay_len - 33. -/
def mgmtTag (key : BitVec 256) (src dst slice : Nat) (body : List Byte) : List Byte :=
  (hmac (leBytes 32 key.toNat) (leBytes 2 src ++ leBytes 2 dst ++ leBytes 1 slice ++ body)).take 32

/-- A management payload with its 48-byte trailer: counter, reserved, tag (15 R466). -/
def mgmtSeal (key : BitVec 256) (src dst slice ctr : Nat) (body : List Byte) : List Byte :=
  let p := body ++ leBytes 8 ctr ++ zeros 8
  p ++ mgmtTag key src dst slice p

/-- Answer a REMOTE master at an endpoint with a RESPONSE in the slice of its request, a class G packet on VC 0 (R374,
15 R466); the detail stands behind the status, at payload offset 10 (DESIGN CHOICE, log entry 135), and the packet
leaves from the lowest-numbered Caldera die in service (DESIGN CHOICE, log entry 236). -/
def State.respond (s : State) (m req ep slice : Nat) (status : Byte) (detail : Nat) (data : List Byte) : State :=
  let ms := s.master m
  let ctr := ms.mgmtTx + 1
  let body := [0x8, BitVec.ofNat 8 (m - 0x10)] ++ leBytes 2 (data.length / 4) ++ leBytes 4 req ++
    [status, 0] ++ leBytes 2 detail ++ zeros 4 ++ data
  let s := s.modMaster m (fun ms => { ms with mgmtTx := ctr })
  let payload := mgmtSeal (ms.mgmtKey.getD 0) s.pkg.selfEp.toNat ep slice ctr body
  let h : PktHdr := { vc := 0, cls := 2, dst := BitVec.ofNat 16 ep, slice := BitVec.ofNat 8 slice }
  sendFrom s.firstCaldera 8 h [] payload (crc32c payload) none s

/-- Report the completion of a descriptor to where it came from. -/
def State.complete (s : State) (src : JobSrc) (d : List Byte) (status : Byte) (detail : Nat)
    (result : List Byte) : State :=
  let kind := descKind d
  let tag := fieldOf d 4 4
  match src with
  | .ring r slot =>
    let g := s.ring r
    let c := g.cmplRing.toNat
    let rec_ := completionBytes status kind detail r tag slot g.head.toNat s.ftcNow result
    let s := s.modRing c (fun g => { g with reserved := g.reserved - 1 })
    if (s.ring c).enable && (s.ring c).kind == 1 then s.putRecord c rec_ else s.lostRecord
  | .mbox m =>
    let rec_ := completionBytes status kind detail 0x3FFF tag 0 0 s.ftcNow result
    s.modMaster m (fun ms => { ms with mboxCmpl := memWrite 0 ms.mboxCmpl 0 rec_, mboxBusy := false })
  | .mgmt m req ep slice =>
    let rec_ := completionBytes status kind detail 0x3FFF tag 0 0 s.ftcNow result
    s.respond m req ep slice status detail rec_
  | .commit _ _ _ => s

/-- Hand a descriptor to execution: R364 checks 1 to 3, then it joins the descriptors in hand.
DEDUCED: log entry 108. -/
def State.handOver (s : State) (src : JobSrc) (d : List Byte) : State :=
  if !descCheckOk (s.checkRequired src) d then s.complete src d St.descCheck 0 []
  else if !descReservedOk d then s.complete src d St.badDescriptor 1 []
  else if !(bodyRanges d).all (rangeOk (jobStaged src)) then s.complete src d St.badDescriptor 2 []
  else { s with jobs := s.jobs ++ [{ src := src, desc := d }] }

/-- The two descriptors came from the same ring. -/
def sameRing : JobSrc → JobSrc → Bool
  | .ring r _, .ring q _ => r == q
  | _, _ => false

/-- The descriptor at the end of the list may start (R365): a serial one when no serial one is ahead; one of a ring
when every one of its ring ahead has started; one with fence when none of its ring is ahead. -/
def jobMayStart (ahead : List Job) (j : Job) : Bool :=
  (dkAlongside (descKind j.desc) || ahead.all (fun a => dkAlongside (descKind a.desc))) &&
  ahead.all (fun a => !sameRing a.src j.src || a.started) &&
  (!descFence j.desc || ahead.all (fun a => !sameRing a.src j.src))

/-- The first descriptor that may start and that p accepts, and the list without it. -/
def takeJobFrom (p : Job → Bool) : List Job → List Job → Option (Job × List Job)
  | _, [] => none
  | ahead, j :: js =>
    if p j && jobMayStart ahead j then some (j, ahead ++ js)
    else takeJobFrom p (ahead ++ [j]) js

/-- The descriptor of a kind and operation is the next to execute. -/
def jobIs (kind : Nat) (op : Nat) (j : Job) : Bool :=
  descKind j.desc == kind && (op == 0 || (bodyOp kind j.desc).1 == op)

/-- Execute the next descriptor of a kind and operation (R364 check 4, R365) that is ready: f gives its
status, its detail, its result and the state it leaves; nothing happens where none may start, or in the
safe state (R410). -/
def State.runJobIf (s : State) (kind op : Nat) (ready : Job → Bool)
    (f : Job → State → Byte × Nat × List Byte × State) : State :=
  if s.vent.inSafe || s.clkStopped dieTD then s
  else match takeJobFrom (fun j => jobIs kind op j && !j.started && ready j) [] s.jobs with
    | none => s
    | some (j, rest) =>
      let s := { s with jobs := rest }.newCycle
      if !s.isOwner (jobMaster j.src) && kind != dkTelemSnap && kind != dkAttest then
        s.complete j.src j.desc St.notOwner 0 []
      else
        let (st, detail, result, s) := f j s
        s.complete j.src j.desc st detail result

/-- As State.runJobIf, with nothing to wait for. -/
def State.runJob (s : State) (kind op : Nat)
    (f : Job → State → Byte × Nat × List Byte × State) : State :=
  s.runJobIf kind op (fun _ => true) f

/-- Bytes of host memory that a body's address names to be read (R366). -/
def bodyReadLen (d : List Byte) : Nat :=
  if descKind d = dkTelemSnap then 0 else ((bodyRanges d).head?.map Prod.snd).getD 0

/-- The CXL.io read of a body's data fails: the host returns none of the bytes (R360).
DESIGN CHOICE: log entry 242. -/
def Job.readFails (j : Job) (host : List Byte) : Bool :=
  !jobStaged j.src && host.isEmpty && decide (0 < bodyReadLen j.desc)

/-- A CXL.io read for ring r fails: HA_RING.err is set and the ring stops (R360). -/
def ringReadFailed (r : Nat) (s : State) : State :=
  let s := { s with host := { s.host with readErrors := satInc s.host.readErrors } }
  (s.modRing r (fun g => { g with err := true, woken := false })).hwSet (wbErr r)

/-- As State.runJobIf, for a descriptor whose body names data that host holds; where their read fails the descriptor
completes with HOST_READ_ERR (R360). -/
def State.runBodyIf (s : State) (kind op : Nat) (ready : Job → Bool) (host : List Byte)
    (f : Job → State → Byte × Nat × List Byte × State) : State :=
  s.runJobIf kind op ready (fun j s =>
    if j.readFails host then
      (St.hostReadErr, 0, [], match j.src with
        | .ring r _ => ringReadFailed r s
        | _ => s)
    else f j s)

/-- As State.runBodyIf, with nothing to wait for. -/
def State.runBody (s : State) (kind op : Nat) (host : List Byte)
    (f : Job → State → Byte × Nat × List Byte × State) : State :=
  s.runBodyIf kind op (fun _ => true) host f

/-- n bytes that a body's address names: what the host returned, or the master's staging area (R375). -/
def State.jobData (s : State) (src : JobSrc) (addr n : Nat) (host : List Byte) : List Byte :=
  if jobStaged src then memRead 0 (s.master (jobMaster src)).stage addr n else padTo n host

/-- Write n bytes where a body's address names: host memory or the master's staging area (R375). -/
def State.jobStore (s : State) (src : JobSrc) (addr : Nat) (bytes : List Byte) : State :=
  if jobStaged src then
    s.modMaster (jobMaster src) (fun ms => { ms with stage := memWrite 0 ms.stage addr bytes })
  else s.hostWrite addr bytes

end Sys2Proof.Machine
end

