-- ==== Sys2Proof/Machine/Routing.lean ====
section
/-! DEFINITION. The ROUTE_UPDATE operations (04 R116 to R120, R134). -/

namespace Sys2Proof.Machine

/-! ## ROUTE_UPDATE (R118 to R120) -/

/-- The breach of R119 that an entry of slice sl (confidential or not) naming port p makes. The settings of an index that
no longer starts a port stand (DESIGN CHOICE, log entry 270). -/
def portBreach (c : PortCfg) (sl : Nat) (conf : Bool) : Option (Byte × Nat) :=
  if c.exclusiveOther sl then some (St.routeConflict, 1)
  else if !c.permits sl then some (St.sliceViolation, 2)
  else if conf && !c.enc then some (St.routeConflict, 3)
  else none

/-- The breach of R116, R117 or R119 of an entry of slice sl. part: the part of the region it lies in,
where that is known: some true for multicast. -/
def State.entryBreach (s : State) (sl : Nat) (conf : Bool) (part : Option Bool) (w : W32) :
    Option (Byte × Nat) :=
  let k := entryKind w
  let wrong : Bool := match part with
    | some true => k == rkPort || k == rkSet
    | some false => k == rkMcast
    | none => false
  if k = rkInvalid then none
  else if wrong then some (St.routeConflict, 5)
  else if k = rkPort then
    if entryTarget w > 511 then some (St.routeConflict, 5) else portBreach (s.cfg (entryTarget w)) sl conf
  else
    let r := s.rset (entryTarget w)
    if !r.valid || r.slice.toNat != sl || r.members == 0 then some (St.routeConflict, 5)
    else r.ports.findSome? (fun p => portBreach (s.cfg p) sl conf)

/-- The index lies in a committed region of some slice. -/
def State.committed (s : State) (x : Nat) : Bool := s.routing.slices.any (fun d => d.2.covers x)

/-- An index of a range lies in a committed region. -/
def State.rangeCommitted (s : State) (x n : Nat) : Bool :=
  s.routing.slices.any (fun d => d.2.valid && decide (0 < d.2.len) &&
    decide (x < d.2.routeBase.toNat + d.2.len ∧ d.2.routeBase.toNat < x + n))

/-- Set k is named by an entry of a committed region. -/
def State.setInUse (s : State) (k : Nat) : Bool :=
  s.routing.routes.any (fun e => s.committed e.1 && decide (2 ≤ entryKind e.2) && entryTarget e.2 == k)

/-- Writes of a range wait for the previous region of a slice, 10 µs after its commit (13 R394). -/
def State.prevHolds (s : State) (x n : Nat) : Bool :=
  s.routing.prev.any (fun e => match e.2 with
    | some (d, _) => d.valid && decide (x < d.routeBase.toNat + d.len ∧ d.routeBase.toNat < x + n)
    | none => false)

/-- A ROUTE_UPDATE of this operation may start: it does not write into a previous region. -/
def State.routeReady (s : State) (op : Nat) (j : Job) : Bool :=
  let x := if op = 1 then fieldOf j.desc 12 4 else fieldOf j.desc 20 4
  !(decide (op = 1 ∨ op = 3) && s.prevHolds x (fieldOf j.desc 16 4))

/-- The answer of a descriptor. -/
abbrev Ans := Byte × Nat × List Byte × State

/-- A refusal, which changes nothing. -/
def refuse (s : State) (b : Byte × Nat) : Ans := (b.1, b.2, [], s)

/-- WRITE_ENTRIES of n entries at index x for slice sl (R118). -/
def routeWriteEntries (sl x n : Nat) (data : List Byte) (s : State) : Ans :=
  if n = 0 ∨ n > 1024 ∨ x + n > 1048576 then refuse s (St.badTarget, 0)
  else if s.rangeCommitted x n then refuse s (St.routeConflict, 6)
  else
    let es := (List.range n).map (fun i => entryFor sl (fieldOf data (4 * i) 4))
    match es.findSome? (s.entryBreach sl (s.slice sl).conf none) with
    | some b => refuse s b
    | none =>
      let r := (List.range n).foldl (fun r i => tset 0 r (x + i) (es.getD i 0)) s.routing.routes
      (St.ok, 0, [], { s with routing := { s.routing with routes := r } })

/-- WRITE_SET of set k for slice sl (R118). -/
def routeWriteSet (sl k : Nat) (data : List Byte) (s : State) : Ans :=
  let r : RSet := { members := BitVec.ofNat 512 (fieldOf data 0 64), slice := BitVec.ofNat 8 sl, valid := true }
  if k > 4095 then refuse s (St.badTarget, 0)
  else if s.setInUse k then refuse s (St.routeConflict, 6)
  else if r.members == 0 then refuse s (St.routeConflict, 5)
  else match r.ports.findSome? (fun p => portBreach (s.cfg p) sl (s.slice sl).conf) with
    | some b => refuse s b
    | none => (St.ok, 0, [], { s with routing := { s.routing with sets := tset {} s.routing.sets k r } })

/-- COPY_REGION of n entries from x to y for slice sl (R118). DEDUCED: log entry 53. -/
def routeCopy (sl x n y : Nat) (s : State) : Ans :=
  if n = 0 ∨ n > 1048576 ∨ x + n > 1048576 ∨ y + n > 1048576 then refuse s (St.badTarget, 0)
  else if s.rangeCommitted y n then refuse s (St.routeConflict, 6)
  else if s.routing.routes.any (fun e => decide (x ≤ e.1 ∧ e.1 < x + n) &&
      entryKind e.2 != rkInvalid && entrySlice e.2 != sl) then refuse s (St.routeConflict, 5)
  else
    let r := (List.range n).foldl
      (fun r i => tset 0 r (y + i) (entryFor sl (s.route (x + i)).toNat)) s.routing.routes
    (St.ok, 0, [], { s with routing := { s.routing with routes := r } })

/-- The descriptor in a 16-byte image (R113). -/
def parseSlice (b : List Byte) : SliceDesc :=
  let b0 := (byteAt b 0).toNat
  { valid := bitOf b0 0, conf := bitOf b0 1, priv := bitOf b0 2, hopLimit := byteAt b 1
    epLo := BitVec.ofNat 16 (fieldOf b 2 2), routeBase := BitVec.ofNat 20 (fieldOf b 4 4)
    epCount := BitVec.ofNat 17 (fieldOf b 8 4), mcCount := BitVec.ofNat 16 (fieldOf b 12 2)
    version := BitVec.ofNat 16 (fieldOf b 14 2) }

/-- Two regions overlap. -/
def regionsOverlap (a b : SliceDesc) : Bool :=
  decide (0 < a.len ∧ 0 < b.len ∧ a.routeBase.toNat < b.routeBase.toNat + b.len ∧
    b.routeBase.toNat < a.routeBase.toNat + a.len)

/-- COMMIT_SLICE of slice sl (R113, R118 to R120, 13 R394). DEDUCED: log entry 54. DEDUCED: log entry 55.
DESIGN CHOICE: log entry 225. -/
def routeCommit (sl : Nat) (data : List Byte) (s : State) : Ans :=
  let old := s.slice sl
  let d := { parseSlice data with version := old.version + 1 }
  if d.epLo.toNat + d.epCount.toNat > 65536 ∨ d.routeBase.toNat + d.len > 1048576 ∨ d.hopLimit = 0 then
    refuse s (St.routeConflict, 4)
  else if s.routing.slices.any (fun e => e.1 != sl && e.2.valid && regionsOverlap d e.2) then
    refuse s (St.routeConflict, 4)
  else
    let breach (i : Nat) : Option (Byte × Nat) :=
      let w := s.route (d.routeBase.toNat + i)
      if entrySlice w != sl then some (St.routeConflict, 5)
      else s.entryBreach sl d.conf (some (decide (d.epCount.toNat ≤ i))) w
    match (List.range d.len).findSome? breach with
    | some b => refuse s b
    | none =>
      let r := { s.routing with slices := tset {} s.routing.slices sl d
                                prev := tset none s.routing.prev sl (some (old, s.now)) }
      (St.ok, 0, leBytes 2 d.version.toNat, { s with routing := r })

/-- CLEAR_SLICE of slice sl (R118). -/
def routeClear (sl : Nat) (s : State) : Ans :=
  (St.ok, 0, [], { s with routing := { s.routing with
    slices := tmod {} s.routing.slices sl (fun d => { d with valid := false }) } })

/-- The slice field of a ROUTE_UPDATE body (12 R366). -/
def ruSlice (j : Job) : Nat := fieldOf j.desc 9 1

/-- The ROUTE_UPDATE commands; host is what the host returned for data_addr. -/
def writeEntriesDesc (host : List Byte) (s : State) : State :=
  s.runBodyIf dkRouteUpdate 1 (s.routeReady 1) host (fun j s =>
    let n := fieldOf j.desc 16 4
    routeWriteEntries (ruSlice j) (fieldOf j.desc 12 4) n
      (s.jobData j.src (fieldOf j.desc 24 8) (4 * min n 1024) host) s)

def writeSetDesc (host : List Byte) (s : State) : State :=
  s.runBody dkRouteUpdate 2 host (fun j s =>
    routeWriteSet (ruSlice j) (fieldOf j.desc 12 4) (s.jobData j.src (fieldOf j.desc 24 8) 64 host) s)

def copyRegionDesc (s : State) : State :=
  s.runJobIf dkRouteUpdate 3 (s.routeReady 3) (fun j s =>
    routeCopy (ruSlice j) (fieldOf j.desc 12 4) (fieldOf j.desc 16 4) (fieldOf j.desc 20 4) s)

def commitSliceDesc (host : List Byte) (s : State) : State :=
  s.runBody dkRouteUpdate 4 host (fun j s =>
    routeCommit (ruSlice j) (s.jobData j.src (fieldOf j.desc 24 8) 16 host) s)

def clearSliceDesc (s : State) : State :=
  s.runJob dkRouteUpdate 5 (fun j s => routeClear (ruSlice j) s)

/-- PREV_DESCRIPTOR_EXPIRY (13 R394). -/
def prevExpiry (sl : Nat) (s : State) : State :=
  match tget none s.routing.prev sl with
  | some (_, at_) =>
    s.when (s.past at_ 10000) (fun s =>
      { s with routing := { s.routing with prev := tset none s.routing.prev sl none } })
  | none => s

/-! ## The check of port configurations against committed regions (R121) -/

/-- The slices whose committed regions name port p, with their conf bits. -/
def State.slicesNaming (s : State) (p : Nat) : List (Nat × Bool) :=
  (s.routing.slices.filter (fun d => d.2.valid &&
    s.routing.routes.any (fun e => d.2.covers e.1 &&
      ((entryKind e.2 == rkPort && entryTarget e.2 == p) ||
       (decide (2 ≤ entryKind e.2) && (s.rset (entryTarget e.2)).members.getLsbD p))))).map
    (fun d => (d.1, d.2.conf))

/-- The first breach of R119 that configuration c of port p makes, in the row order of the table
(R133). -/
def State.configBreach (s : State) (p : Nat) (c : PortCfg) : Option (Byte × Nat) :=
  let ns := s.slicesNaming p
  if ns.any (fun n => c.exclusiveOther n.1) then some (St.routeConflict, 1)
  else if ns.any (fun n => !c.permits n.1) then some (St.sliceViolation, 2)
  else if ns.any (fun n => n.2 && !c.enc) then some (St.routeConflict, 3)
  else none

/-! ## The commands -/

/-- PREV_DESCRIPTOR_EXPIRY (13 R394). -/
def execPrevDescriptorExpiry (t sl : Nat) (s : State) : Out := run (decide (sl < 256)) t (prevExpiry sl) s

end Sys2Proof.Machine
end

