-- ==== Sys2Proof/Machine/Hod.lean ====
section
/-! DEFINITION. Hod: pools, scrims, admission, charges and over bits (05 R155 to R168, 06 R187). -/

namespace Sys2Proof.Machine

/-- Stride, default count and default base of pool k (R155). -/
def poolStride (k : Nat) : Nat := if k = 0 then 320 else if k = 1 then 1088 else if k = 2 then 4160 else 16448
def poolCount (k : Nat) : Nat := if k = 0 then 32768 else if k = 1 then 4096 else if k = 2 then 1024 else 872
def poolBase (k : Nat) : Nat :=
  if k = 0 then 0 else if k = 1 then 0xA00000 else if k = 2 then 0xE40000 else 0x1250000

/-- The default pool k (R155). -/
def poolDefault (k : Nat) : Pool := { base := poolBase k, count := poolCount k }

/-- Pool k of a tile. -/
def Tile.pool (t : Tile) (k : Nat) : Pool := tget (poolDefault k) t.pools k
def Tile.modPool (t : Tile) (k : Nat) (f : Pool → Pool) : Tile :=
  { t with pools := tmod (poolDefault k) t.pools k f }

/-- Buffers not in the scrim, n_k − free (R162, R187): those in use, and those lost to a quarantine (R158). -/
def Pool.inUse (p : Pool) : Nat := p.used + p.lost.length

/-- Buffers in the scrim (R162). -/
def Pool.free (p : Pool) : Nat := p.count - p.used - p.lost.length

/-- The address of the first free buffer (R162): the last one returned, else the next never taken. While none is free
the spec names no value, and the address behind the last buffer shows (DESIGN CHOICE, log entry 217). -/
def Pool.head (p : Pool) (k : Nat) : Nat :=
  match p.back with
  | a :: _ => a
  | [] => p.base + p.fresh * poolStride k

/-- The scrim without its head. -/
def Pool.pop (p : Pool) : Pool :=
  match p.back with
  | _ :: as => { p with back := as, used := p.used + 1 }
  | [] => { p with fresh := p.fresh + 1, used := p.used + 1 }

/-- The checks of R158 on a link word read from pool k's scrim. The range and stride checks are on the
next of a word that is not the last (DEDUCED, log entry 26). -/
def linkOk (p : Pool) (k : Nat) (w : Nat) : Bool :=
  let next := bitsOf w 0 25
  let end_ := bitOf w 27
  bitsOf w 25 2 == k && bitsOf w 28 36 == 0 && end_ == decide (p.free = 1) &&
  (end_ || (decide (p.base ≤ next ∧ next < p.base + p.count * poolStride k) &&
    decide ((next - p.base) % poolStride k = 0)))

/-- The link word that the thread holds in the head buffer (R157). DEDUCED: log entry 29. -/
def Pool.linkWord (p : Pool) (k : Nat) : Nat :=
  let next := (p.pop).head k
  if p.free = 1 then k * 2 ^ 25 + 2 ^ 27 else next + k * 2 ^ 25

/-- A high-water mark of a tile; which: 0 FM_HWM_POOL, 1 FM_HWM_PORT, 2 FM_HWM_Q (06 R187, R194). -/
def Tile.mark (x : Tile) (which i : Nat) : Nat :=
  if which = 0 then tget 0 x.hwmPool i else if which = 1 then tget 0 x.hwmPort i else tget 0 x.hwmQ i

/-- A charge is about to raise a mark: what the mark was before the charges of this cycle is kept, for a read of the
cycle (06 R187). -/
def Tile.markOld (x : Tile) (now which i : Nat) : Tile :=
  let k := 256 * which + i
  if (tget (0, 0) x.hwmOld k).1 = mgCycle now + 1 then x
  else { x with hwmOld := tset (0, 0) x.hwmOld k (mgCycle now + 1, x.mark which i) }

/-- What a read of a mark shows: a charge of the same cycle is left out (06 R187). -/
def Tile.markShown (x : Tile) (now which i : Nat) : Nat :=
  let e := tget (0, 0) x.hwmOld (256 * which + i)
  if e.1 = mgCycle now + 1 then e.2 else x.mark which i

/-- Take a buffer from the first pool from k on that has one, is not quarantined (R156) and whose scrim is not being
threaded again (R158), checking the link word read (R158). Returns the pool and the address. -/
def takeBuffer (t k : Nat) (flaw : Flaw) : Nat → State → Option (Nat × Nat) × State
  | 0, s => (none, s)
  | fuel + 1, s =>
    if k > 3 then (none, s)
    else
      let p := (s.tile t).pool k
      if p.quarantined || p.free = 0 || ((s.tile t).rebuild && (s.tile t).ctlPool.toNat == k) then
        takeBuffer t (k + 1) flaw fuel s
      else
        let s := match flaw with
          | .corrected => s.symCorrected (dieTile t)
          | .uncorrectable => s.symUncorrectable (dieTile t) srcHodUe
          | _ => s
        let word := match flaw with
          | .link w => w
          | _ => p.linkWord k
        if flaw == .uncorrectable || !linkOk p k word then
          let s := s.modTile t (fun x => x.modPool k (fun p => { p with quarantined := true }))
          takeBuffer t (k + 1) .none fuel (s.raise (dieTile t) srcPoolPtr k)
        else
          let s := s.modTile t (fun x =>
            let x := (x.markOld s.now 0 k).modPool k Pool.pop
            let used := (x.pool k).inUse
            { x with hwmPool := tmod 0 x.hwmPool k (fun m => max m used) })
          (some (k, p.head k), s)

/-- Charges of queue (j, vc) of a tile. -/
def Tile.charge (t : Tile) (j vc : Nat) : Charge := tget ({} : Charge) t.charges (j * 8 + vc)

/-- A port's charge in one category, summed over its virtual channels. -/
def Tile.portReserve (t : Tile) (j : Nat) : Nat :=
  (List.range 8).foldl (fun n v => n + (t.charge j v).reserve) 0
def Tile.portCharge (t : Tile) (j : Nat) : Nat :=
  (List.range 8).foldl (fun n v =>
    n + (t.charge j v).reserve + (t.charge j v).shared + (t.charge j v).headroom) 0

/-- The tile's shared and headroom charges. -/
def Tile.sharedUsed (t : Tile) : Nat := t.charges.foldl (fun n e => n + e.2.shared) 0
def Tile.headroomUsed (t : Tile) : Nat := t.charges.foldl (fun n e => n + e.2.headroom) 0

/-- shared_size of a tile (R159). -/
def State.sharedSize (s : State) (t : Nat) : Nat :=
  let x := s.tile t
  let pools := (List.range 4).foldl (fun n k => n + (x.pool k).count * poolStride k) 0
  let reserves := (s.tilePorts t).foldl (fun n p => n + (s.hodCfg p).reserveKib.toNat * 1024) 0
  pools - reserves - x.headroomKib.toNat * 1024

/-- a_v of a tile (R163). -/
def Tile.alphaOf (t : Tile) (vc : Nat) : Nat := bitsOf t.alpha.toNat (4 * vc) 4

/-- The category that takes a buffer of this stride for queue (port p, vc) (R159). -/
def State.category (s : State) (p vc stride : Nat) : Option Category :=
  let t := s.tile (tileOf p)
  let j := p % 32
  let room := s.sharedSize (tileOf p) - t.sharedUsed
  if t.portReserve j + stride ≤ (s.hodCfg p).reserveKib.toNat * 1024 then some .reserve
  else if t.sharedUsed + stride ≤ s.sharedSize (tileOf p) ∧
      ((t.charge j vc).shared + stride) * 16 ≤ 2 ^ t.alphaOf vc * room then some .shared
  else if t.headroomUsed + stride ≤ t.headroomKib.toNat * 1024 then some .headroom
  else none

/-- Add to, or take from, the charge of a queue in a category, and raise the marks of R187. -/
def Charge.add (c : Charge) (k : Category) (n : Nat) : Charge :=
  match k with
  | .reserve => { c with reserve := c.reserve + n }
  | .shared => { c with shared := c.shared + n }
  | .headroom => { c with headroom := c.headroom + n }
def Charge.sub (c : Charge) (k : Category) (n : Nat) : Charge :=
  match k with
  | .reserve => { c with reserve := c.reserve - n }
  | .shared => { c with shared := c.shared - n }
  | .headroom => { c with headroom := c.headroom - n }
def Charge.total (c : Charge) : Nat := c.reserve + c.shared + c.headroom

/-- Admit one buffer for port p and vc, named for pool k (R156, R159); none where the copy is
discarded, counted in hod_drop. -/
def admitBuf (p vc k : Nat) (flaw : Flaw) (s : State) : Option Buf × State :=
  let t := tileOf p
  let j := p % 32
  let drop (s : State) := s.modPortCntOf p (fun c => { c with hodDrop := satInc c.hodDrop })
  match s.category p vc (poolStride k) with
  | none => (none, drop s)
  | some cat =>
    let (got, s) := takeBuffer t k flaw 4 s
    match got with
    | none => (none, drop s)
    | some (pool, addr) =>
      let s := s.modTile t (fun x =>
        let x := (x.markOld s.now 1 j).markOld s.now 2 (j * 8 + vc)
        let x := { x with charges := tmod {} x.charges (j * 8 + vc) (fun c => c.add cat (poolStride k)) }
        let pc := x.portCharge j
        let qc := (x.charge j vc).total
        { x with hwmPort := tmod 0 x.hwmPort j (fun m => max m pc)
                 hwmQ := tmod 0 x.hwmQ (j * 8 + vc) (fun m => max m qc) })
      let s := if cat = .headroom then
          s.modPortCntOf p (fun c => { c with headroomPkts := satInc c.headroomPkts }) else s
      (some { j := j, vc := vc, pool := pool, addr := addr, stride := poolStride k, cat := cat }, s)

/-- Return a buffer: its charge to its category, the buffer to the head of its pool's scrim, or nowhere
while the pool is quarantined (R157 to R159). -/
def freeBuffer (t : Nat) (s : State) (b : Buf) : State :=
  s.modTile t (fun x =>
    let x := { x with charges := tmod {} x.charges (b.j * 8 + b.vc) (fun c => c.sub b.cat b.stride) }
    x.modPool b.pool (fun p =>
      if p.quarantined then { p with used := p.used - 1, lost := b.addr :: p.lost }
      else { p with used := p.used - 1, back := b.addr :: p.back }))

/-- Output queue (port p, vc) is over (R160). -/
def State.queueOver (s : State) (p vc : Nat) : Bool :=
  let t := s.tile (tileOf p)
  let j := p % 32
  let room := s.sharedSize (tileOf p) - t.sharedUsed
  decide (0 < (t.charge j vc).headroom) ||
  (decide (t.portReserve j + 320 > (s.hodCfg p).reserveKib.toNat * 1024) &&
    decide (2 ^ t.alphaOf vc * room ≤ (t.charge j vc).shared * 16))

/-- POOL_REBUILD: the owner writes PT_HOD_CTL with rebuild = 1 (R158, R165, 13 R406). A pool that is not quarantined is
rebuilt too, and hands out no buffer until the rebuild has ended (DESIGN CHOICE, log entry 218). -/
def poolRebuild (m t k : Nat) (s : State) : State :=
  s.ownerWrite m (fun s =>
    let x := s.tile t
    if x.rebuild then s
    else
      let p := x.pool k
      let bad := decide (p.used ≠ 0) || (s.die (dieTile t)).poolIso.getLsbD k
      s.modTile t (fun x => { x with ctlPool := BitVec.ofNat 2 k, rebuild := !bad, rebuildRefused := bad }))

/-- POOL_REBUILD_DONE: the scrim is threaded again in ascending address order (R158). -/
def poolRebuildDone (t : Nat) (s : State) : State :=
  if (s.tile t).rebuild then
    let k := (s.tile t).ctlPool.toNat
    s.modTile t (fun x =>
      { x.modPool k (fun p => { p with fresh := 0, back := [], lost := [], quarantined := false })
        with rebuild := false })
  else s

/-- Take a high-water mark of tile t: its value, and the mark starts again at the present use (06 R187).
which: as Tile.mark. -/
def hwmTake (t which i : Nat) (s : State) : Nat × State :=
  let x := s.tile t
  let x' :=
    if which = 0 then { x with hwmPool := tset 0 x.hwmPool i (x.pool i).inUse }
    else if which = 1 then { x with hwmPort := tset 0 x.hwmPort i (x.portCharge i) }
    else { x with hwmQ := tset 0 x.hwmQ i (x.charge (i / 8) (i % 8)).total }
  (x.markShown s.now which i,
    s.modTile t (fun _ => { x' with hwmOld := tset (0, 0) x.hwmOld (256 * which + i) (0, 0) }))

/-- HWM_READ by master m (06 R187, R194). -/
def hwmRead (m t which i : Nat) (s : State) : State :=
  let off := if which = 0 then 0xB100 + 4 * i else if which = 1 then 0xB200 + 4 * i
    else 0xB400 + 0x20 * (i / 8) + 4 * (i % 8)
  let (v, s) := if s.reachable (dieTile t) then hwmTake t which i s
    else (0xFFFFFFFF, accessRefused m (some (dieTile t)) s)
  s.emit (.value m (dieTile t * windowSize + off) (BitVec.ofNat 32 v))

/-! ## The commands -/

/-- POOL_REBUILD (05 R158). -/
def execPoolRebuild (t m tile k : Nat) (s : State) : Out :=
  run (isMaster m && decide (tile < 16) && decide (k < 4)) t (accessDie m (dieTile tile) (poolRebuild m tile k)) s

/-- POOL_REBUILD_DONE (05 R158). -/
def execPoolRebuildDone (t tile : Nat) (s : State) : Out :=
  run (decide (tile < 16)) t (onDie (dieTile tile) (poolRebuildDone tile)) s

/-- HWM_READ (06 R187). -/
def execHwmRead (t m tile which i : Nat) (s : State) : Out :=
  run (isMaster m && decide (tile < 16) && decide (which < 3) &&
    decide (i < (if which = 0 then 4 else if which = 1 then 32 else 256))) t (onPath m (hwmRead m tile which i)) s

end Sys2Proof.Machine
end

