-- ==== Sys2Proof/Machine/Queues.lean ====
section
/-! DEFINITION. Joining an output queue, the hold timer of an unavailable port, launch holds, and the
fences of signals (04 R122, R129, 06 R170, R171, 10 R314 to R317, 11 R333). -/

namespace Sys2Proof.Machine

/-- sub and dl_crossed at an egress port (04 R129). -/
def egressSub (h : PktHdr) (c : PortCfg) : Bool × BitVec 3 :=
  if c.axis == 0 then (false, h.dlCrossed)
  else
    let a := c.axis.toNat - 1
    let d := if c.dateline then setBit h.dlCrossed a true else h.dlCrossed
    (d.getLsbD a, d)

/-- The valid flow queue of a tile whose key a packet equals (06 R171). -/
def State.flowQueueOf (s : State) (p : Nat) (h : PktHdr) : Option Nat :=
  (s.fqCfg.find? (fun e => e.1 / 4096 == tileOf p && e.2.valid && e.2.port.toNat == p % 32 &&
    e.2.vc == h.vc && e.2.slice == h.slice && e.2.flowLabel == h.flowLabel)).map Prod.fst

/-- The port is in a state in which its hold timer runs (04 R122). -/
def State.portOut (s : State) (p : Nat) : Bool :=
  (s.port p).state != .active && (s.port p).state != .quarantine

/-- Packets that a flow queue holds, those in progress among them (DEDUCED, log entry 23). -/
def State.fqPkts (s : State) (p f : Nat) : List QPkt :=
  let o := s.outPort p
  (o.prog.map Prog.pkt ++ o.queue).filter (fun q => q.fq == some f)

/-- The port of a flow queue. -/
def State.fqPort (s : State) (f : Nat) : Nat := 32 * (f / 4096) + (s.fq f).port.toNat

/-- Every flow queue of port p that holds no packet has entitlement 0 (06 R176). -/
def fqsEmptied (p : Nat) (s : State) : State :=
  { s with fqRun := tmap {} (fun f r =>
      if f / 4096 == tileOf p && (s.fq f).port.toNat == p % 32 && (s.fqPkts p f).isEmpty then { r with entitlement := 0 }
      else r) s.fqRun }

/-- A packet of port p that no flow queue holds has been sent or discarded: the fences that wait on its list wait on
one packet less (06 R171). DEDUCED: log entry 22. -/
def fenceStep (p : Nat) (s : State) (q : QPkt) : State :=
  let waits (f : Nat) : Bool := q.fq.isNone && f / 4096 == tileOf p && (s.fq f).port.toNat == p % 32 &&
    (s.fq f).vc == q.hdr.vc && (s.fq f).slice == q.hdr.slice
  { s with fqRun := tmap {} (fun f r => if waits f then { r with fence := r.fence - 1 } else r) s.fqRun }

/-- Discard a packet queued for a port, counted in hold_drop (04 R122). -/
def holdDrop (p : Nat) (s : State) (q : QPkt) : State :=
  (freeBuffer (tileOf p) s q.buf).modPktCntOf p (fun c => { c with holdDrop := satInc c.holdDrop })

/-- The launch hold of a packet at port p has ended, by the copy of the FTC that the port's tile holds (11 R333). -/
def State.launchDue (s : State) (p : Nat) (h : PktHdr) : Bool :=
  !h.lc || decide (h.launch.toNat ≤ s.ftcAt (dieTile (tileOf p)))

/-- A packet joins the output queue of port p (06 R170, R171); it is discarded where the port's hold
timer has run out (04 R122). DEDUCED: log entry 189. -/
def joinQueue (p : Nat) (q : QPkt) (s : State) : State :=
  if s.portOut p && (s.outPort p).holdOut then holdDrop p s q
  else
    let (sub, dl) := egressSub q.hdr (s.cfg p)
    let h := { q.hdr with dlCrossed := dl }
    let q := { q with hdr := h, sub := sub, fq := s.flowQueueOf p h, joinedAt := s.now
                      launched := s.launchDue p h }
    s.modOutPort p (fun o => { o with queue := o.queue ++ [q] })

/-- LAUNCH_HOLD_END: held packets of port p whose launch count has come, or that joined launch_max ago,
become eligible; the second kind counts in launch_far (11 R333). -/
def launchHoldEnd (p : Nat) (s : State) : State :=
  let maxNs := s.ftc.launchMax.toNat * 1000000
  let due (q : QPkt) : Bool := !q.launched && s.launchDue p q.hdr
  let far (q : QPkt) : Bool := !q.launched && !s.launchDue p q.hdr && s.past q.joinedAt maxNs
  let n := ((s.outPort p).queue.filter far).length
  let s := s.modOutPort p (fun o =>
    { o with queue := o.queue.map (fun q => if due q || far q then { q with launched := true } else q) })
  { s with ftc := { s.ftc with launchFar := satAdd s.ftc.launchFar n } }

/-- PORT_HOLD_EXPIRY: the hold timer of port p reaches port_hold, and every packet queued for it is
discarded (04 R122); in the safe state they stay in Hod (13 R410). -/
def holdExpiry (p : Nat) (s : State) : State :=
  match (s.outPort p).holdFrom with
  | some h =>
    if !s.vent.inSafe && s.portOut p && s.past h (1000 * (s.cfg p).portHold.toNat) && !(s.outPort p).holdOut then
      let qs := (s.outPort p).queue
      let s := s.modOutPort p (fun o => { o with queue := [], holdOut := true })
      fqsEmptied p ((s.forEach qs (fenceStep p)).forEach qs (holdDrop p))
    else s
  | none => s

/-- The port entered a state: the hold timer starts outside ACTIVE and QUARANTINE and stops inside
(04 R122). -/
def holdTimer (p : Nat) (s : State) : State :=
  if s.portOut p then
    s.modOutPort p (fun o => { o with holdFrom := some (o.holdFrom.getD s.now) })
  else s.modOutPort p (fun o => { o with holdFrom := none, holdOut := false })

/-! ## Fences (10 R314 to R317) -/

/-- The port's partner is an endpoint (10 R314, 03 R78). -/
def State.endpointFacing (s : State) (p : Nat) : Bool := byteAt (s.port p).partner 11 == 0x02

/-- msg of a collective header. -/
def collMsg (coll : List Byte) : Nat := bitsOf (byteAt coll 8).toNat 4 4

/-- aux of a collective header. -/
def collAux (coll : List Byte) : Nat := fieldOf coll 24 8

/-- The packet is a SIGNAL (08 R226, 10 R312). -/
def isSignal (q : QPkt) : Bool := q.hdr.vc == 7 && collMsg q.coll == 9

/-- fence_vc and fence of a SIGNAL (10 R312). -/
def sigVc (coll : List Byte) : Nat := bitsOf (collAux coll) 16 3
def sigFence (coll : List Byte) : Nat := bitsOf (collAux coll) 20 40

/-- The packet with fence_broken set (08 R227). -/
def setBroken (q : QPkt) : QPkt := { q with coll := patch q.coll 20 [byteAt q.coll 20 ||| 2] }

/-- A fence entry: port j, src, fence_vc, count, last change. -/
abbrev FenceEntry := Nat × Nat × Nat × Int × Nat

def fenceIs (j src vc : Nat) (e : FenceEntry) : Bool := e.1 == j && e.2.1 == src && e.2.2.1 == vc

/-- A signal leaves the fence handling with fence_broken = 1 (10 R315, R316). -/
def passBroken (p : Nat) (q : QPkt) (s : State) : State :=
  let s := s.modTile (tileOf p) (fun t => { t with fBroken := satInc t.fBroken })
  let quiet := match (s.port p).fenceEvtAt with
    | some a => decide (s.now < a + 1000000)
    | none => false
  let s := if quiet then s
    else (s.modPort p (fun x => { x with fenceEvtAt := some s.now })).event 0x42 (dieTile (tileOf p)) p
      q.hdr.src.toNat (sigVc q.coll)
  joinQueue p (setBroken q) s

/-- The signals held on one entry, in arrival order. -/
def Tile.heldOn (t : Tile) (j src vc : Nat) : List (Nat × Nat × Nat × Nat × Nat × QPkt) :=
  t.heldSignals.filter (fun h => h.1 == j && h.2.1 == src && h.2.2.1 == vc)

/-- A fence count as its signed 41 bits hold it; what they hold of a sum outside their range is open (10 R314, DESIGN
CHOICE, log entry 235). -/
def fence41 (v : Int) : Int :=
  if -(2 ^ 40) ≤ v ∧ v < 2 ^ 40 then v else (Config.fenceOver v).toInt

/-- Subtract a fence from an entry's count. -/
def fenceSub (j src vc f now : Nat) (t : Tile) : Tile :=
  { t with fences := t.fences.map (fun e =>
      if fenceIs j src vc e then (e.1, e.2.1, e.2.2.1, fence41 (e.2.2.2.1 - f), now) else e) }

/-- Free an entry whose count is 0 and that holds no signal (10 R317). -/
def fenceFree (j src vc : Nat) (t : Tile) : Tile :=
  if (t.heldOn j src vc).isEmpty then
    { t with fences := t.fences.filter (fun e => !(fenceIs j src vc e && e.2.2.2.1 == 0)) }
  else t

/-- Release held signals of an entry whose fence is met, first in arrival order (10 R315). -/
def fenceTest (p src vc : Nat) : Nat → State → State
  | 0, s => s
  | fuel + 1, s =>
    let t := s.tile (tileOf p)
    let j := p % 32
    match (t.heldOn j src vc).head?, t.fences.find? (fenceIs j src vc) with
    | some h, some e =>
      if (h.2.2.2.1 : Int) ≤ e.2.2.2.1 then
        let s := s.modTile (tileOf p) (fun t =>
          { fenceSub j src vc h.2.2.2.1 s.now t with heldSignals := t.heldSignals.erase h
                                                     fReleased := satInc t.fReleased })
        fenceTest p src vc fuel (joinQueue p h.2.2.2.2.2 s)
      else s
    | _, _ => s.modTile (tileOf p) (fenceFree j src vc)

/-- Count a tracked packet whose last cell left port p, and test the fences waiting on it (10 R314). -/
def fenceCount (p : Nat) (h : PktHdr) (s : State) : State :=
  let t := s.tile (tileOf p)
  let j := p % 32
  if h.mcast || !s.endpointFacing p || !(s.hodCfg p).trackVcs.getLsbD h.vc.toNat then s
  else if t.fences.any (fenceIs j h.src.toNat h.vc.toNat) then
    let s := s.modTile (tileOf p) (fun t => { t with fences := t.fences.map (fun e =>
      if fenceIs j h.src.toNat h.vc.toNat e && h.payLen != 0 then
        (e.1, e.2.1, e.2.2.1, fence41 (e.2.2.2.1 + h.payLen.toNat), s.now) else e) })
    fenceTest p h.src.toNat h.vc.toNat (t.heldSignals.length + 1) s
  else if t.fences.length ≥ 8192 then
    s.modTile (tileOf p) (fun t => { t with fUntracked := satInc t.fUntracked })
  else
    let s := s.modTile (tileOf p) (fun t =>
      { t with fences := t.fences ++ [(j, h.src.toNat, h.vc.toNat, (h.payLen.toNat : Int), s.now)] })
    fenceTest p h.src.toNat h.vc.toNat 1 s

/-- FENCE_SIGNAL_ARRIVAL: the first signal waiting at the tile's fences is handled by the first row of
10 R315 whose condition holds. -/
def fenceArrival (t : Nat) (s : State) : State :=
  match (s.tile t).atFence with
  | [] => s
  | (p, q) :: rest =>
    let s := s.modTile t (fun x => { x with atFence := rest })
    let x := s.tile t
    let j := p % 32
    let vc := sigVc q.coll
    let src := q.hdr.src.toNat
    let have_ := x.fences.any (fenceIs j src vc)
    if sigFence q.coll = 0 then joinQueue p q s
    else if (s.port p).state != .active then passBroken p q s
    else if !(s.hodCfg p).trackVcs.getLsbD vc then passBroken p q s
    else if (!have_ && decide (x.fences.length ≥ 8192)) || decide (x.heldSignals.length ≥ 1024) then
      passBroken p q s
    else
      let s := s.modTile t (fun x =>
        { x with fences := if have_ then x.fences else x.fences ++ [(j, src, vc, 0, s.now)]
                 heldSignals := x.heldSignals ++ [(j, src, vc, sigFence q.coll, s.now, q)] })
      fenceTest p src vc (x.heldSignals.length + 2) s

/-- Release held signals with fence_broken = 1, each fence subtracted (10 R316). -/
def breakHeld (t : Nat) (s : State) (h : Nat × Nat × Nat × Nat × Nat × QPkt) : State :=
  let p := 32 * t + h.1
  let s := s.modTile t (fun x =>
    { fenceSub h.1 h.2.1 h.2.2.1 h.2.2.2.1 s.now x with heldSignals := x.heldSignals.erase h })
  let s := passBroken p h.2.2.2.2.2 s
  fenceTest p h.2.1 h.2.2.1 ((s.tile t).heldSignals.length + 1) s

/-- FENCE_TIMEOUT: held signals of port p that arrived timeout_us ago are released broken (10 R316).
DEDUCED: log entry 188. -/
def fenceTimeout (p : Nat) (s : State) : State :=
  let due := (s.tile (tileOf p)).heldSignals.filter (fun h => h.1 == p % 32 &&
    s.past h.2.2.2.2.1 (1000 * (s.hodCfg p).timeoutUs.toNat))
  s.forEach due (breakHeld (tileOf p))

/-- Every held signal of port p, or of one of its virtual channels, is released broken and the entries
are freed (10 R316, R317). -/
def fenceDrop (p : Nat) (vcGone : Nat → Bool) (s : State) : State :=
  let t := tileOf p
  let hs := (s.tile t).heldSignals.filter (fun h => h.1 == p % 32 && vcGone h.2.2.1)
  let s := s.forEach hs (breakHeld t)
  s.modTile t (fun x => { x with fences := x.fences.filter (fun e => !(e.1 == p % 32 && vcGone e.2.2.1)) })

/-- FENCE_EVICT: an entry that holds no signal and has not changed for 10 × timeout_us is freed
(10 R317). -/
def fenceEvict (p src vc : Nat) (s : State) : State :=
  let t := s.tile (tileOf p)
  let j := p % 32
  let stale (e : FenceEntry) : Bool := fenceIs j src vc e && (t.heldOn j src vc).isEmpty &&
    s.past e.2.2.2.2 (10000 * (s.hodCfg p).timeoutUs.toNat)
  if t.fences.any stale then
    s.modTile (tileOf p) (fun x => { x with fences := x.fences.filter (fun e => !stale e)
                                            fEvicted := satInc x.fEvicted })
  else s

/-! ## The commands -/

/-- PORT_HOLD_EXPIRY (04 R122). -/
def execPortHoldExpiry (t p : Nat) (s : State) : Out := run (decide (p < 512)) t (onDie (dieTile (tileOf p)) (holdExpiry p)) s

/-- LAUNCH_HOLD_END (11 R333). -/
def execLaunchHoldEnd (t p : Nat) (s : State) : Out := run (decide (p < 512)) t
  (onDie (dieTile (tileOf p)) (launchHoldEnd p)) s

/-- FENCE_SIGNAL_ARRIVAL (10 R315). -/
def execFenceSignalArrival (t tile : Nat) (s : State) : Out := run (decide (tile < 16)) t
  (onDie (dieTile tile) (fenceArrival tile)) s

/-- FENCE_TIMEOUT (10 R316). -/
def execFenceTimeout (t p : Nat) (s : State) : Out := run (decide (p < 512)) t
  (onDie (dieTile (tileOf p)) (fenceTimeout p)) s

/-- FENCE_EVICT (10 R317). -/
def execFenceEvict (t p src vc : Nat) (s : State) : Out :=
  run (decide (p < 512) && decide (src < 65536) && decide (vc < 8)) t
    (onDie (dieTile (tileOf p)) (fenceEvict p src vc)) s

end Sys2Proof.Machine
end

