-- ==== Sys2Proof/Machine/Fabric.lean ====
section
/-! DEFINITION. Ingress checks and lookup, ingress staging, the planes, reassembly and release
(04 R110 to R112, R123, 05 R136 to R154, 13 R394, R395). -/

namespace Sys2Proof.Machine

/-! ## Ingress (04 R110, 05 R139, R145) -/

/-- The packet's fabric packet form, as far as its bytes have arrived (05 R145). -/
def State.formOf (s : State) (p : InPkt) : List Byte :=
  let h := parseHdr p.bytes
  let h := { h with hops := satInc h.hops }
  let plain := s.plainOf p
  let c := if hasColl h.vc then 32 else 0
  fabricForm h (plain.take c) (plain.drop c)

/-- The body of fabric cell i is complete: the lane bytes it needs have arrived (05 R139). -/
def bodyReady (p : InPkt) (h : PktHdr) (i : Nat) : Bool :=
  p.whole || decide (64 + (if hasColl h.vc then 32 else 0) + min h.payLen.toNat (256 * i + 192) ≤ p.bytes.length)

/-- Cells of port p that are staged; the copies of a multicast cell take one place (R139, R153). DESIGN CHOICE: log
entry 215. -/
def State.stagedOf (s : State) (p : Nat) : Nat :=
  let mine := (tget [] s.fabric.staged (tileOf p)).filter (fun c => (s.inPkt c.pkt).map InPkt.port == some p)
  ((mine.map (fun c => (c.pkt, c.index))).eraseDups).length

/-- Ingress staging has a place for a cell of port p: 4 for each of its lanes (R139, R143). -/
def State.stageRoom (s : State) (p : Nat) : Bool := decide (s.stagedOf p < 4 * s.portWidth p)

/-- Stage the fabric cells of a packet whose bodies are complete, in index order, the copies of each cell
in ascending destination, as far as ingress staging has room for its port (05 R139, R153). -/
def stageFrom (id : Nat) : Nat → State → State
  | 0, s => s
  | fuel + 1, s =>
    match s.inPkt id with
    | none => s
    | some p =>
      let h := parseHdr p.bytes
      if p.verdict != .sending || p.staged ≥ fabCells h.payLen.toNat || !bodyReady p h p.staged || !s.stageRoom p.port then s
      else
        let f := tileOf p.port
        let new := p.streams.map (fun d => ({ pkt := id, dst := d.dst, index := p.staged } : Staged))
        let q := tget [] s.fabric.staged f ++ new
        let s := { s with fabric := { s.fabric with staged := tset [] s.fabric.staged f q } }
        stageFrom id fuel (s.modInPkt id (fun x => x.map (fun x => { x with staged := x.staged + 1 })))

/-- Stage all that can be staged (a packet has at most 65 cells). -/
def stage (id : Nat) (s : State) : State := stageFrom id 65 s

/-- Places of port p in ingress staging have come free: the cells of its packets that wait are staged, those of the
earliest packet first (R139). -/
def restage (p : Nat) (s : State) : State :=
  let ids := s.inPkts.filterMap (fun e => if e.2.map InPkt.port == some p then some e.1 else none)
  s.forEach ids (fun s id => stage id s)

/-- Name the queues that the held credits of a packet wait on (05 R160, 09 R269). -/
def nameHeld (id port pair : Nat) (users : List Nat) (s : State) : State :=
  s.modPort port (fun x => { x with pairs := tmod {} x.pairs pair (fun c =>
    { c with held := c.held.map (fun h => if h.pkt == id then { h with users := users, known := true } else h) }) })

/-- Count one failed check of R110 in PT_PKT_CNT of the ingress port, and post SLICE_VIOLATION for
check 7 (R110). -/
def countCheck (port slice check : Nat) (s : State) : State :=
  let s := s.modPktCntOf port (fun c =>
    match check with
    | 1 => { c with hdrCrc := satInc c.hdrCrc }
    | 2 => { c with malformed := satInc c.malformed }
    | 3 => { c with lenErr := satInc c.lenErr }
    | 4 => { c with encMismatch := satInc c.encMismatch }
    | 5 => { c with gcmFail := satInc c.gcmFail }
    | 6 => { c with replay := satInc c.replay }
    | 7 => { c with sliceViolation := satInc c.sliceViolation }
    | 8 => { c with noRoute := satInc c.noRoute }
    | 9 => { c with hopLimit := satInc c.hopLimit }
    | 10 => { c with portDown := satInc c.portDown }
    | 11 => { c with egressSlice := satInc c.egressSlice }
    | _ => c)
  let quiet := match (s.port port).sliceEvtAt with
    | some a => decide (s.now < a + 1000000)
    | none => false
  if check = 7 ∧ !quiet then
    (s.modPort port (fun x => { x with sliceEvtAt := some s.now })).event 0x31 (dieTile (tileOf port)) port slice 0
  else s

/-- The header checks that need the header alone (R110 checks 1, 2 and 4): the first that fails, or 0. The trailer byte of
a packet that ends early reads as 0, so crc_present of it is 0 (DESIGN CHOICE, log entry 271). -/
def State.headerCheck (s : State) (p : InPkt) (h : PktHdr) : Nat :=
  let crcPresent := (byteAt p.bytes (pktLen h - 4)).getLsbD 0
  if !hdrCrcOk p.bytes then 1
  else if h.hdrFormat != 1 || h.vc.toNat != p.pair / 2 || decide (h.payLen.toNat > 16384) ||
      !classOnVc h.vc h.cls || (h.cls == 2 && !crcPresent) || (h.mcast && (h.vc == 1 || h.vc == 7)) then 2
  else if h.enc != (s.cfg p.port).enc then 4
  else 0

/-- What the ingress decides about a packet that passed checks 1, 2, 4 and 7 (R110, R111, 14 R420). -/
def State.ingressDecision (s : State) (p : InPkt) (h : PktHdr) : Decision :=
  let t := s.tile (tileOf p.port)
  let coll := (s.plainOf p).take 32
  if s.isFold h then { dests := [(16 + s.foldDie h.launch.toNat, 0)] }
  else if s.recov.parityEp != 0xFFFF && h.dst == s.recov.parityEp && !h.mcast then { fail := 8 }
  else if h.dst == s.pkg.selfEp && !h.mcast then
    if h.vc == 0 then { toMgmt := true }
    else if h.vc == 1 || h.vc == 7 then
      let e := s.engineFor h.vc coll
      { dests := [(16 + e / 8, BitVec.ofNat 32 (e % 8))] }
    else { fail := 8 }
  else s.lookup h (some p.port) t.seed t.adaptEn true t.adaptMargin.toNat

/-- The users that the credits of a packet wait on: its output queues, or its landing user. -/
def heldUsers (h : PktHdr) (dests : List (Nat × BitVec 32)) : List Nat :=
  dests.flatMap (fun d =>
    if d.1 < 16 then (bitsSet d.2.toNat 32).map (fun j => (32 * d.1 + j) * 8 + h.vc.toNat)
    else [4096 + (d.1 - 16) * 9 + (if h.vc == 4 then 8 else d.2.toNat % 8)])

/-- Set the verdict of an ingress packet. DEDUCED: log entry 187. -/
def setVerdict (id : Nat) (v : Verdict) (s : State) : State :=
  s.modInPkt id (fun x => x.map (fun x => { x with verdict := v }))

/-- INGRESS_LOOKUP of ingress packet id (R110). A class G packet is looked up once its trailer has
arrived, because check 2 reads it (DEDUCED, log entry 24). -/
def ingressLookup (id : Nat) (flaw : Flaw) (s : State) : State :=
  match s.inPkt id with
  | none => s
  | some p =>
    let h := parseHdr p.bytes
    if s.halted || p.verdict != .pending || p.bytes.length < 64 || (h.cls == 2 && !p.whole) ||
        !s.dieRuns (dieTile (tileOf p.port)) then s
    else
      let c := s.headerCheck p h
      let slice := h.slice.toNat
      let s := match flaw with
        | .corrected => s.symCorrected (dieTile (tileOf p.port))
        | .uncorrectable => s.symUncorrectable (dieTile (tileOf p.port)) srcRtUe
        | _ => s
      if c = 4 then
        -- discarded at once, but counted once check 3 is settled (R110)
        setVerdict id (.dropped 4) (nameHeld id p.port p.pair [] s)
      else if c ≠ 0 then
        -- discarded at once and counted at once: nothing later is counted (R110)
        setVerdict id (.dropped 0) (nameHeld id p.port p.pair [] (countCheck p.port slice c s))
      else if !(s.cfg p.port).permits slice then
        setVerdict id (.dropped 7) (nameHeld id p.port p.pair [] s)
      else
        let d := if flaw == .uncorrectable then { fail := 8 } else s.ingressDecision p h
        let s := s.modPktCntOf p.port (fun k => { k with mcSkip := satAdd k.mcSkip d.skips })
        let s := if d.adaptive then s.modPktCntOf p.port (fun k => { k with adaptiveDiff := satInc k.adaptiveDiff }) else s
        let s := if d.adaptive && hasColl h.vc then
            let coll := (s.plainOf p).take 32
            { s with reports := s.reports ++ [(collGroup coll, fieldOf coll 2 6, slice)] }
          else s
        if d.fail ≠ 0 then setVerdict id (.dropped d.fail) (nameHeld id p.port p.pair [] s)
        else if d.silent then setVerdict id (.noCopy d.egSlice) (nameHeld id p.port p.pair [] s)
        else if d.toMgmt then setVerdict id .toMgmt (nameHeld id p.port p.pair [] s)
        else
          let s := if h.mcast then s.modTile (tileOf p.port)
              (fun t => { t with mcStreams := satAdd t.mcStreams d.dests.length }) else s
          let str := d.dests.map (fun x => ({ dst := x.1, mask := x.2, relSeq := 0, sentCells := 0 } : Stream))
          let s := s.modInPkt id (fun x => x.map (fun x =>
            { x with verdict := .sending, streams := str, egSlice := d.egSlice }))
          stage id (nameHeld id p.port p.pair (heldUsers h d.dests) s)

/-- The outcome of checks 3, 5 and 6 on a whole packet: the lowest that fails, or 1 PASS (R110, 05
R144). -/
def State.lateCheck (s : State) (p : InPkt) : Nat :=
  let h := parseHdr p.bytes
  let k := s.rxKey p.port h.keyPhase
  if p.cells ≠ cellsOf (pktLen h) then 3
  else if !h.enc then 1
  else if !s.tagOk p then 5
  else if h.gcmCtr.toNat ≤ tget 0 k.ctr p.pair then 6
  else 1

/-- Management authenticates a packet delivered to it (12 R374, 15 R466): class G with pay_crc, the key
of its slot, the counter of the slot greater than the last accepted, and the tag. -/
def mgmtDeliver (h : PktHdr) (crcPresent : Bool) (payload : List Byte) (s : State) : State :=
  let slot := fieldOf payload 1 1
  let m := mRemote slot
  let ms := s.master m
  let n := payload.length - 48
  let ctr := fieldOf payload n 8
  let fail (s : State) : State := { s with trust := { s.trust with mgmtAuthFail := satInc s.trust.mgmtAuthFail } }
  match ms.mgmtKey with
  | some key =>
    if slot ≤ 3 ∧ 64 ≤ payload.length ∧ ms.mgmtRx < ctr ∧ h.cls = 2 ∧ crcPresent ∧
        mgmtSeal key h.src.toNat h.dst.toNat h.slice.toNat ctr (payload.take n) = payload then
      let s := s.modMaster m (fun x => { x with mgmtRx := ctr })
      -- a reserved op (R7, R374) is answered at once and no command waits for it
      let op := fieldOf payload 0 1
      if 1 ≤ op ∧ op ≤ 3 then { s with mgmtIn := s.mgmtIn ++ [(m, h.src.toNat, h.slice.toNat, payload.take n)] }
      else if op = 8 then s
      else s.respond m (fieldOf payload 4 4) h.src.toNat h.slice.toNat St.badDescriptor 1 []
    else fail s
  | none => fail s

/-- Copies of a multicast packet not made because check 11 failed, counted (R110, R123). -/
def countCopies (port n : Nat) (s : State) : State :=
  s.modPktCntOf port (fun k => { k with egressSlice := satAdd k.egressSlice n })

/-- A verdict under which checks 5 and 6 are made: no check before them failed (R110). -/
def Verdict.reaches6 : Verdict → Bool
  | .dropped c => decide (7 ≤ c)
  | _ => true

/-- INGRESS_FINAL_CHECK of a whole packet (R110, 05 R139): checks 3, 5 and 6 are settled, the last cell
becomes eligible with its verdict, and a packet that is not sent is counted once. A packet that passes its tag and
its counter is accepted in the sense of R109 whatever check after them discards it (DESIGN CHOICE, log entry 213);
where a late check fails, no copy that check 11 stopped is counted (DEDUCED, log entry 214). -/
def ingressFinal (id : Nat) (s : State) : State :=
  match s.inPkt id with
  | none => s
  | some p =>
    if !p.whole || p.verdict == .pending || p.final != 0 || !s.dieRuns (dieTile (tileOf p.port)) then s
    else
      let h := parseHdr p.bytes
      let late := s.lateCheck p
      let k := s.rxKey p.port h.keyPhase
      let s := if late = 1 ∧ h.enc ∧ p.verdict.reaches6 then
          s.modPortKeys p.port (fun x => if s.justRekeyed p.port h.keyPhase then x else x.setRx h.keyPhase
            { k with ctr := tset 0 k.ctr p.pair h.gcmCtr.toNat })
        else s
      let slice := h.slice.toNat
      match p.verdict with
      | .dropped c =>
        let s := if c = 0 then s else countCheck p.port slice (if late ≠ 1 then min late c else c) s
        s.modInPkt id (fun _ => none)
      | .noCopy n =>
        let s := if late ≠ 1 then countCheck p.port slice late s else countCopies p.port n s
        s.modInPkt id (fun _ => none)
      | .toMgmt =>
        let s := if late ≠ 1 then countCheck p.port slice late s
          else mgmtDeliver h ((byteAt p.bytes (pktLen h - 4)).getLsbD 0)
            (padTo h.payLen.toNat ((s.plainOf p).take h.payLen.toNat)) s
        s.modInPkt id (fun _ => none)
      | _ =>
        let s := if late ≠ 1 then countCheck p.port slice late s else countCopies p.port p.egSlice s
        stage id (s.modInPkt id (fun x => x.map (fun x => { x with final := BitVec.ofNat 4 late })))

/-! ## The fabric cell (05 R144) -/

/-- The parity of each of the first 32 bytes of a header slot (R104, R144). -/
def slotParity (b : List Byte) : BitVec 32 :=
  (List.range 32).foldl (fun v i =>
    setBit v i (((List.range 8).filter (fun k => (byteAt b i).getLsbD k)).length % 2 == 1)) 0

/-- Bytes 0 to 23 of the fabric header. -/
def FabCell.head24 (c : FabCell) : List Byte :=
  [BitVec.ofNat 8 (b2n c.data + 16 * c.vc.toNat + 128 * b2n c.mcast), BitVec.ofNat 8 c.src,
   BitVec.ofNat 8 (c.dst + 32 * c.pool.toNat), BitVec.ofNat 8 c.index, BitVec.ofNat 8 c.count,
   BitVec.ofNat 8 c.verdict.toNat] ++
  leBytes 2 c.relSeq.toNat ++ leBytes 4 c.mask.toNat ++ leBytes 4 c.hdrParity.toNat ++ leBytes 4 c.payCrc.toNat ++
  leBytes 4 (b2n c.crcPresent)

/-- The fcrc that a cell must carry. -/
def FabCell.crcOf (c : FabCell) : BitVec 32 := crc32c (c.head24 ++ padTo 256 c.body)

/-- The cell with its fcrc. -/
def FabCell.crcSet (c : FabCell) : FabCell := { c with fcrc := c.crcOf }

/-- One credit field. -/
def creditByte : Option Nat → Byte
  | some d => BitVec.ofNat 8 (d + 128)
  | none => 0

/-- The 32-byte fabric header. -/
def FabCell.header (c : FabCell) : List Byte :=
  c.head24 ++ [creditByte c.credits[0]?, creditByte c.credits[1]?, 0, 0] ++ leBytes 4 c.fcrc.toNat

/-- The fcrc of a cell fails at its destination: it was changed on its way, or does not verify (R146). -/
def FabCell.fails (c : FabCell) (corrupt : Bool) : Bool := corrupt || c.fcrc != c.crcOf

/-- The die of a fabric port (R136). -/
def fabDie (f : Nat) : Nat := if f < 16 then dieTile f else dieCaldera (f - 16)

/-! ## Stage 1 (05 R138, R139, R141) -/

/-- A plane carries cells for the ports: in service, and not waiting to rejoin. -/
def State.plane (s : State) (p : Nat) : Plane := tget ({} : Plane) s.fabric.planes p
def State.modPlane (s : State) (p : Nat) (f : Plane → Plane) : State :=
  { s with fabric := { s.fabric with planes := tmod {} s.fabric.planes p f } }

/-- The credits of fabric port f for plane p and destination o (R141): 2 at reset, none while the plane
is retired. -/
def State.credit (s : State) (f p o : Nat) : Nat := tget 2 s.fabric.credits ((f * 8 + p) * 24 + o)
def State.setCredit (s : State) (f p o n : Nat) : State :=
  { s with fabric := { s.fabric with credits := tset 2 s.fabric.credits ((f * 8 + p) * 24 + o) n } }

/-- The Caldera packet with this identifier and the die that sends it. -/
def State.caPkt (s : State) (f id : Nat) : Option CaPkt :=
  ((s.caldera (f - 16)).egress.find? (fun e => e.1 == id)).map Prod.snd

/-- A staged cell is eligible (R139): its packet's last cell only after checks 3, 5 and 6. A Caldera
packet is complete before it is sent. -/
def State.eligible (s : State) (f : Nat) (c : Staged) : Bool :=
  if f < 16 then
    match s.inPkt c.pkt with
    | some p => decide (c.index + 1 < fabCells (parseHdr p.bytes).payLen.toNat) || p.final != 0
    | none => false
  else true

/-- The header, form, streams, trailer and verdict of the packet a staged cell belongs to. -/
def State.stagedPkt (s : State) (f : Nat) (c : Staged) :
    Option (PktHdr × List Byte × List Stream × BitVec 32 × Bool × BitVec 4) :=
  if f < 16 then
    (s.inPkt c.pkt).map (fun p =>
      let h := parseHdr p.bytes
      let tr := pktLen h - 8
      (h, s.formOf p, p.streams, BitVec.ofNat 32 (fieldOf p.bytes tr 4),
        (byteAt p.bytes (tr + 4)).getLsbD 0, p.final))
  else (s.caPkt f c.pkt).map (fun p =>
      (p.hdr, fabricForm p.hdr p.coll p.payload, p.streams, p.payCrc, true, 1))

/-- Change the streams of a packet. -/
def State.setStreams (s : State) (f id : Nat) (g : List Stream → List Stream) : State :=
  if f < 16 then s.modInPkt id (fun x => x.map (fun x => { x with streams := g x.streams }))
  else s.modCaldera (f - 16) (fun c => { c with egress := c.egress.map (fun e =>
    if e.1 == id then (e.1, { e.2 with streams := g e.2.streams }) else e) })

/-- A packet is forgotten once every cell of every stream has been sent. A packet of a Caldera die has
then left the die, and its segment waits for one packet less (09 R275). -/
def dropSent (f id n : Nat) (s : State) : State :=
  let all_ (l : List Stream) : Bool := l.all (fun d => decide (n ≤ d.sentCells))
  if f < 16 then
    match s.inPkt id with
    | some p => if all_ p.streams then s.modInPkt id (fun _ => none) else s
    | none => s
  else match s.caPkt f id with
    | some p =>
      if all_ p.streams then
        let s := s.modCaldera (f - 16) (fun c => { c with egress := c.egress.filter (fun e => e.1 != id) })
        match p.frees with
        | some (k, g) => s.modInv k (fun v => v.map (fun v =>
            { v with segs := tmod {} v.segs g (fun x => { x with leaving := x.leaving - 1 }) }))
        | none => s
      else s
    | none => s

/-- The staged cell that fabric port f sends to plane p: a tile the oldest that is eligible and holds a credit (R139);
a Caldera die the oldest, because its packets leave in the order in which they are produced (09 R275), so that it has
one packet in progress toward a tile (R139). DEDUCED: log entry 216. -/
def State.slotCell (s : State) (f p : Nat) : Option Staged :=
  let list := tget [] s.fabric.staged f
  let ok (c : Staged) : Bool := decide (0 < s.credit f p c.dst) && s.eligible f c
  if f < 16 then list.find? ok else list.head?.filter ok

/-- FABRIC_SLOT of fabric port f (R138, R139): the cell that may go to the plane of this slot is sent. -/
def fabricSlot (f : Nat) (s : State) : State :=
  let k := tget 0 s.fabric.slot f
  let p := (f + k) % 8
  let s := { s with fabric := { s.fabric with slot := tset 0 s.fabric.slot f (k + 1) } }
  let list := tget [] s.fabric.staged f
  let isOut := s.halted || !(s.plane p).inService || (f < 16 && s.dieOut (dieTile f)) ||
    (16 ≤ f && (s.caldera (f - 16)).lost)
  match (if isOut then none else s.slotCell f p) with
  | none => s
  | some c =>
    match s.stagedPkt f c with
    | none => s
    | some (h, form, streams, crc, present, verdict) =>
      let n := fabCells h.payLen.toNat
      let st := (streams.find? (fun d => d.dst == c.dst)).getD { dst := c.dst, mask := 0, relSeq := 0, sentCells := 0 }
      let key := (f * 24 + c.dst) * 8 + h.vc.toNat
      let next := tget 0 s.fabric.nextRel key
      let rel := if st.sentCells = 0 then next else st.relSeq
      let s := if st.sentCells = 0 then
          { s with fabric := { s.fabric with nextRel := tset 0 s.fabric.nextRel key (next + 1) } } else s
      let last := c.index + 1 = n
      let alt := tget 0 s.fabric.altUp (f * 8 + p)
      let cell : FabCell :=
        { data := true, vc := h.vc, mcast := h.mcast, src := f, dst := c.dst
          pool := BitVec.ofNat 2 (poolFor h.payLen.toNat), index := c.index, count := n
          verdict := if last then verdict else 0, relSeq := rel, mask := st.mask
          payCrc := if last then crc else 0, crcPresent := last && present, credits := []
          body := fabBody form c.index, hdrParity := if c.index = 0 then slotParity form else 0
          via := 2 * f + alt
          inPort := if f < 16 then ((s.inPkt c.pkt).map (fun p => p.port)).getD 0 else 0 }
      let s := s.setCredit f p c.dst (s.credit f p c.dst - 1)
      let s := { s with fabric := { s.fabric with
        staged := tset [] s.fabric.staged f (list.erase c)
        altUp := tset 0 s.fabric.altUp (f * 8 + p) (1 - alt)
        toPlane := tset [] s.fabric.toPlane p (tget [] s.fabric.toPlane p ++ [cell.crcSet]) } }
      let s := s.setStreams f c.pkt (fun l => l.map (fun d =>
        if d.dst == c.dst then { d with relSeq := rel, sentCells := d.sentCells + 1 } else d))
      let port := if f < 16 then (s.inPkt c.pkt).map InPkt.port else none
      let s := dropSent f c.pkt n s
      match port with
      | some q => restage q s
      | none => s

/-! ## Planes (05 R140, R141, R151, R152) -/

/-- PLANE_CELL_RECEIVE of plane p (R140, R141): the oldest cell on its way is written to its latch, or
discarded with FAB_CREDIT when the latch has no free place; a retired plane loses it (R151). It stays where the
plane's clock is stopped or forwarding is (02 R37, R51). -/
def planeReceive (p : Nat) (s : State) : State :=
  if s.clkStopped (diePlane p) || s.float.stopped then s
  else match tget [] s.fabric.toPlane p with
  | [] => s
  | cell :: rest =>
    let s := { s with fabric := { s.fabric with
      toPlane := tset [] s.fabric.toPlane p rest, takenAt := tset 0 s.fabric.takenAt cell.src s.now } }
    let key := (p * 24 + cell.src) * 24 + cell.dst
    let latch := tget [] s.fabric.latches key
    if !(s.plane p).inService then s
    else if latch.length ≥ 2 then s.raise (diePlane p) srcFabCredit
    else { s with fabric := { s.fabric with latches := tset [] s.fabric.latches key (latch ++ [cell]) } }

/-- Serve output o of plane p in plane slot k (R140, R141): the first non-empty latch from i0 on, with
up to two credits for the port; EMPTY where only credits wait. The crossing to a port whose die is in reset is held
empty, and what goes into it is lost (02 R50). -/
def planeOutput (p k : Nat) (s : State) (o : Nat) : State :=
  let i0 := (o + 24 * 8 - k % 24 - 3 * p) % 24
  let inputs := (List.range 24).map (fun i => (i0 + i) % 24)
  let ret (s : State) : List Nat := tget [] s.fabric.returning (p * 24 + o)
  let alt := tget 0 s.fabric.altDown (p * 24 + o)
  let open_ := s.dieUp (fabDie o)
  let out (cell : FabCell) (s : State) : State :=
    let cell := { cell with credits := (ret s).take 2, via := 2 * o + alt }
    { s with fabric := { s.fabric with
      altDown := tset 0 s.fabric.altDown (p * 24 + o) (1 - alt)
      returning := tset [] s.fabric.returning (p * 24 + o) ((ret s).drop 2)
      toPort := if open_ then tset [] s.fabric.toPort o (tget [] s.fabric.toPort o ++ [(p, cell.crcSet)]) else s.fabric.toPort } }
  match inputs.find? (fun i => !(tget [] s.fabric.latches ((p * 24 + i) * 24 + o)).isEmpty) with
  | some i =>
    let key := (p * 24 + i) * 24 + o
    match tget [] s.fabric.latches key with
    | cell :: rest =>
      let s := { s with fabric := { s.fabric with
        latches := tset [] s.fabric.latches key rest
        returning := tset [] s.fabric.returning (p * 24 + i) (tget [] s.fabric.returning (p * 24 + i) ++ [o]) } }
      out cell s
    | [] => s
  | none =>
    if (ret s).isEmpty then s
    else out { data := false, vc := 0, mcast := false, src := 0, dst := o, pool := 0, index := 0, count := 0
               verdict := 0, relSeq := 0, mask := 0, payCrc := 0, crcPresent := false, credits := [], body := [] } s

/-- A plane that waits to rejoin does so at K mod 24 = 0: every fabric port sets its credits for it
to 2 (R152). -/
def planeRejoinNow (p : Nat) (s : State) : State :=
  let pl := s.plane p
  if pl.rejoining && pl.slot % 24 == 0 then
    let s := s.modPlane p (fun x => { x with inService := true, rejoining := false, resetSince := false })
    let s := { s with tiles := tupd {} s.tiles (List.range 16) (fun _ t => { t with planesOut := setBit t.planesOut p false }) }
    { s with fabric := { s.fabric with credits := (List.range 24).foldl (fun c f =>
        (List.range 24).foldl (fun c o => tset 2 c ((f * 8 + p) * 24 + o) 2) c) s.fabric.credits } }
  else s

/-- PLANE_SLOT of plane p, whose count K runs from the release of the die's reset (R137, R140). The outputs are served
in ascending order, and a credit freed in this slot goes with the next cell to its port (DESIGN CHOICE, log entry 253).
The power-fault ramp stops forwarding (02 R37). -/
def planeSlot (p : Nat) (s : State) : State :=
  let s := planeRejoinNow p s
  let k := (s.plane p).slot
  let s := s.when ((s.plane p).inService && !s.float.stopped) (fun s => s.forEach (List.range 24) (planeOutput p k))
  s.modPlane p (fun x => { x with slot := k + 1 })

/-- Retire plane p with a cause (R151): the cells in its latches and on the way to it are lost, and every
fabric port drops its credits. Cells on their way from it are lost too. A rejoin that was accepted and waits for its
slot is given up (DESIGN CHOICE, log entry 256). -/
def planeRetire (p : Nat) (cause : BitVec 4) (s : State) : State :=
  if !(s.plane p).inService && !(s.plane p).rejoining then s
  else
    let s := s.modPlane p (fun x => { x with inService := false, rejoining := false, cause := cause, resetSince := false })
    let s := { s with tiles := tupd {} s.tiles (List.range 16) (fun _ t => { t with planesOut := setBit t.planesOut p true }) }
    let fb := s.fabric
    let keys := (List.range 576).map (fun i => p * 576 + i)
    { s with fabric := { fb with
      latches := keys.foldl (fun l k => tset [] l k []) fb.latches
      returning := (List.range 24).foldl (fun l i => tset [] l (p * 24 + i) []) fb.returning
      toPlane := tset [] fb.toPlane p []
      toPort := tmap [] (fun _ l => l.filter (fun c => c.1 != p)) fb.toPort
      credits := (List.range 24).foldl (fun c f =>
        (List.range 24).foldl (fun c o => tset 2 c ((f * 8 + p) * 24 + o) 0) c) fb.credits } }

/-- PLANE_RETIRE by the owner's write of FP_CTL.retire (R151, R168). -/
def planeRetireWrite (m p : Nat) (s : State) : State := s.ownerWrite m (planeRetire p 3)

/-- PLANE_REJOIN by the owner's write of FP_CTL.rejoin (R152, R168). -/
def planeRejoin (m p : Nat) (s : State) : State :=
  s.ownerWrite m (fun s =>
    let x := s.plane p
    let s := s.modPlane p (fun x => { x with rejoinRefused := false })
    if x.inService then s
    else if x.moduleFailed || !x.resetSince then s.modPlane p (fun x => { x with rejoinRefused := true })
    else s.modPlane p (fun x => { x with rejoining := true }))

/-! ## Reassembly (05 R147 to R150) -/

/-- The expected rel_seq of a source and virtual channel at a tile. -/
def Tile.expected (t : Tile) (src vc : Nat) : BitVec 16 := tget 0 t.expect (src * 8 + vc)

/-- The packet under reassembly with this source, virtual channel and number. -/
def Tile.find (t : Tile) (src vc : Nat) (rel : BitVec 16) : Option Reasm :=
  t.reasm.find? (fun r => r.src == src && r.vc == vc && r.relSeq == rel)
def Tile.remove (t : Tile) (src vc : Nat) (rel : BitVec 16) : Tile :=
  { t with reasm := t.reasm.filter (fun r => !(r.src == src && r.vc == vc && r.relSeq == rel)) }

/-- Move the expected value past one number (R149). A number resolved as discarded is remembered until it
lies more than 32,768 behind, where rel_seq can no longer tell it from one ahead (R149, R150). -/
def passNumber (src vc : Nat) (t : Tile) : Tile :=
  let k := src * 8 + vc
  let e := t.expected src vc + 1
  { t with resolved := tset [] t.resolved k ((tget [] t.resolved k).filter (fun n => (n - e).toNat != 32767))
           expect := tset 0 t.expect k e }

/-- Move the expected value past every number resolved as discarded (R149). -/
def advance (src vc : Nat) : Nat → Tile → Tile
  | 0, t => t
  | fuel + 1, t =>
    if (tget [] t.resolved (src * 8 + vc)).contains (t.expected src vc) then
      advance src vc fuel (passNumber src vc t)
    else t

/-- Resolve a number as discarded (R149). -/
def resolve (src vc : Nat) (rel : BitVec 16) (t : Tile) : Tile :=
  let k := src * 8 + vc
  let t := { t with resolved := tset [] t.resolved k (tget [] t.resolved k ++ [rel])
                    gaps := tset [] t.gaps k ((tget [] t.gaps k).filter (fun g => g.1 != rel)) }
  advance src vc (tget [] t.resolved k).length t

/-- Release the expected number, and move past the numbers resolved behind it (R149). -/
def release (src vc : Nat) (t : Tile) : Tile :=
  advance src vc (tget [] t.resolved (src * 8 + vc)).length (passNumber src vc t)

/-- Discard a packet under reassembly: its buffers return and its number is resolved. -/
def discardReasm (t : Nat) (r : Reasm) (s : State) : State :=
  let s := s.forEach r.bufs (freeBuffer t)
  s.modTile t (fun x => resolve r.src r.vc r.relSeq (x.remove r.src r.vc r.relSeq))

/-- The numbers passed over by the first arrival of number rel: those from the expected value on that
have not appeared, each dated now (R150). -/
def newGaps (t : Tile) (src vc : Nat) (rel : BitVec 16) (now : Nat) : List (BitVec 16 × Nat) :=
  let k := src * 8 + vc
  let e := t.expected src vc
  let known := (tget [] t.gaps k).map Prod.fst
  ((List.range (rel - e).toNat).map (fun i => e + BitVec.ofNat 16 i)).filterMap (fun n =>
    if known.contains n || (tget [] t.resolved k).contains n || (t.find src vc n).isSome then none
    else some (n, now))

/-- Take the buffers of a packet's first cell: one for each bit of port_mask (R147, R154). -/
def takeBuffers (t : Nat) (cell : FabCell) (flaw : Flaw) (s : State) : List Buf × State :=
  (bitsSet cell.mask.toNat 32).foldl (fun (acc : List Buf × State) j =>
    let p := 32 * t + j
    let (b, s) := admitBuf p cell.vc.toNat cell.pool.toNat flaw acc.2
    match b with
    | none => (acc.1, s)
    | some b =>
      let s := if cell.mcast then s.modPortCntOf p (fun c => { c with mcBuffers := satInc c.mcBuffers }) else s
      (acc.1 ++ [b], s)) ([], s)

/-- A data cell of a packet reaches its destination tile (R146 to R150). DEDUCED: log entry 25.
DEDUCED: log entry 28. DEDUCED: log entry 255. -/
def tileCell (t : Nat) (cell : FabCell) (corrupt : Bool) (flaw : Flaw) (s : State) : State :=
  let vc := cell.vc.toNat
  let src := cell.src
  let x := s.tile t
  let k := src * 8 + vc
  let ahead := (cell.relSeq - x.expected src vc).toNat
  if s.dieOut (dieTile t) || s.halted || (src < 16 && s.dieOut (dieTile src)) then s
  else if (tget [] x.resolved k).contains cell.relSeq then
    s.modTile t (fun x => { x with reasmTimeout := satInc x.reasmTimeout })
  else if ahead > 32767 then
    s.modTile t (fun x => { x with seqSkip := satInc x.seqSkip })
  else
    -- R147: the first cell of the packet, whichever index it has, takes the buffers
    let s :=
      if (x.find src vc cell.relSeq).isSome then s
      else
        let gaps := newGaps x src vc cell.relSeq s.now
        let kept (x : Tile) := (tget [] x.gaps k).filter (fun g => g.1 != cell.relSeq) ++ gaps
        let s := s.modTile t (fun x => { x with gaps := tset [] x.gaps k (kept x) })
        let (bufs, s) := if corrupt then ([], s) else takeBuffers t cell flaw s
        let r : Reasm := { src := src, vc := vc, relSeq := cell.relSeq, firstAt := s.now, count := cell.count
                           mcast := cell.mcast, got := [], mask := cell.mask, bufs := bufs, failed := false
                           verdict := 0, payCrc := 0, crcPresent := false, complete := false }
        s.modTile t (fun x => { x with reasm := x.reasm ++ [r] })
    match (s.tile t).find src vc cell.relSeq with
    | none => s
    | some r =>
      let last := cell.index + 1 = cell.count
      let r := { r with got := tput r.got cell.index cell.body, failed := r.failed || corrupt }
      let r := if last then { r with verdict := cell.verdict, payCrc := cell.payCrc, crcPresent := cell.crcPresent } else r
      let full := r.got.length = r.count
      let put (s : State) (r : Reasm) := s.modTile t (fun x =>
        { x.remove src vc cell.relSeq with reasm := (x.remove src vc cell.relSeq).reasm ++ [r] })
      if last ∧ !corrupt ∧ cell.verdict ≠ 1 ∧ !r.failed then
        (discardReasm t r s).modTile t (fun x => { x with verdictDrop := satInc x.verdictDrop })
      else if full ∧ r.failed then discardReasm t r s
      else if full then put s { r with complete := true }
      else put s r

/-- Fabric port f receives the oldest cell on its way: its credits count at once (R141). While the port's die is in
reset the crossing is held empty and the cell is lost; while its clock is stopped the cell stays (02 R50, R51). The
credits count of a cell whose fcrc fails too (DESIGN CHOICE, log entry 254). -/
def takeArrival (f : Nat) (s : State) : Option (Nat × FabCell) × State :=
  match tget [] s.fabric.toPort f with
  | [] => (none, s)
  | (plane, cell) :: rest =>
    if s.clkStopped (fabDie f) then (none, s)
    else
      let s := { s with fabric := { s.fabric with
        toPort := tset [] s.fabric.toPort f rest, deliveredAt := tset 0 s.fabric.deliveredAt f s.now } }
      if !s.dieUp (fabDie f) then (none, s)
      else
        (some (plane, cell), s.forEach cell.credits (fun s o => s.setCredit f plane o (min 2 (s.credit f plane o + 1))))

/-- FABRIC_CELL_ARRIVAL at tile t (R141, R146, R147): the oldest cell on its way to the port; corrupt
says that the cell was changed on its way. A failing fcrc counts whatever kind the cell is of (R146). -/
def fabricArrival (t : Nat) (corrupt : Bool) (flaw : Flaw) (s : State) : State :=
  match takeArrival t s with
  | (none, s) => s
  | (some (plane, cell), s) =>
    let bad := cell.fails corrupt
    let s := if bad then
        (s.modTile t (fun x => { x with fabCrc := satInc x.fabCrc })).raise (dieTile t) srcFabCrc plane
      else s
    if cell.data then tileCell t cell bad flaw s else s

/-- The cells that arrive at tile t in this cycle complete a packet that its timeout finds incomplete (R150). -/
def State.completesNow (s : State) (t src vc : Nat) (rel : BitVec 16) : Bool :=
  let s' := s.forEach s.pending (fun s c => match c with
    | .fabricCellArrival u tile corrupt flaw => s.when (u == s.now && tile == t) (fabricArrival t corrupt flaw)
    | _ => s)
  match (s'.tile t).find src vc rel with
  | some r => r.complete
  | none => false

/-- REASSEMBLY_TIMEOUT (R150): a packet that completes in the same cycle is kept. -/
def reasmTimeout (t src vc : Nat) (rel : BitVec 16) (s : State) : State :=
  match (s.tile t).find src vc rel with
  | some r =>
    if !r.complete && s.past r.firstAt 2000 && !s.completesNow t src vc rel then
      (discardReasm t r s).modTile t (fun x => { x with reasmTimeout := satInc x.reasmTimeout })
    else s
  | none => s

/-- SEQ_GAP_TIMEOUT (R150): every number of the source and virtual channel missing for 2 µs. -/
def gapTimeout (t src vc : Nat) (s : State) : State :=
  let due := (tget [] (s.tile t).gaps (src * 8 + vc)).filter (fun g => s.past g.2 2000)
  s.forEach due (fun s g => s.modTile t (fun x =>
    { resolve src vc g.1 x with seqSkip := satInc x.seqSkip }))

/-! ## Release (05 R149, 13 R394, R395) -/

/-- The bytes of a complete packet. -/
def Reasm.bytes (r : Reasm) : List Byte := (List.range r.count).flatMap (fun i => tget [] r.got i)

/-- Give each buffer of a released packet to its output queue, or to the fences of its tile when it is a
SIGNAL toward an endpoint (05 R149, 10 R315). -/
def releaseTo (t : Nat) (h : PktHdr) (coll payload : List Byte) (crc : BitVec 32) (present : Bool)
    (s : State) (b : Buf) : State :=
  let p := 32 * t + b.j
  let q : QPkt := { hdr := h, coll := coll, payload := payload, payCrc := crc, crcPresent := present
                    buf := b, sub := false, fq := none, joinedAt := 0, launched := true }
  if isSignal q && s.endpointFacing p then
    s.modTile t (fun x => { x with atFence := x.atFence ++ [(p, q)] })
  else joinQueue p q s

/-- The die that made the lookup of a packet from fabric port src, and its RT_CONFIRM source (13 R394). -/
def confirmSource (src : Nat) : Nat × Nat :=
  if src < 16 then (dieTile src, srcRtConfirm) else (dieCaldera (src - 16), srcCaRtConfirm)

/-- PACKET_RELEASE at tile t of the next packet of a source and virtual channel (R149), with route
confirmation (13 R394) and the class G check (13 R395). flaw: what the read of the route table finds (13 R392); a packet
whose lookup delivers nothing is not confirmed (DESIGN CHOICE: log entry 263). .payload says that the payload changed
on its way (13 R396). -/
def packetRelease (t src vc : Nat) (flaw : Flaw) (s : State) : State :=
  let e := (s.tile t).expected src vc
  match (s.tile t).find src vc e with
  | none => s
  | some r =>
    if !r.complete || s.halted then s
    else
      let b := r.bytes
      let h := slotHdr b
      let coll := sliceOf b 32 32
      let payload := sliceOf b 64 h.payLen.toNat
      let payload := if flaw == .payload then xorBytes payload [1] else payload
      let ports := (bitsSet r.mask.toNat 32).map (fun j => 32 * t + j)
      let next (s : State) := s.modTile t (fun x => release src vc (x.remove src vc e))
      let drop (s : State) := (s.forEach r.bufs (freeBuffer t)).modTile t (fun x => resolve src vc e (x.remove src vc e))
      let (good, s) := sramRead (dieTile t) srcRtUe flaw s
      if !good then drop (s.modDie (dieTile t) (fun x => { x with aux1 := satInc x.aux1 }))
      else if !s.confirms h ports then
        let (d, i) := confirmSource src
        let s := s.modDie (dieTile t) (fun x => { x with aux1 := satInc x.aux1 })
        drop (s.raise d i)
      else if h.cls == 2 && crc32c payload != r.payCrc then
        let s := s.modDie (dieTile t) (fun x => { x with aux0 := satInc x.aux0 })
        drop (s.raise (dieTile t) srcGcrcRel)
      else next (s.forEach r.bufs (releaseTo t h coll payload r.payCrc r.crcPresent))

/-! ## The commands -/

/-- INGRESS_LOOKUP (04 R110). -/
def execIngressLookup (t id : Nat) (flaw : Flaw) (s : State) : Out := run true t (ingressLookup id flaw) s

/-- INGRESS_FINAL_CHECK (05 R139). -/
def execIngressFinalCheck (t id : Nat) (s : State) : Out := run true t (ingressFinal id) s

/-- FABRIC_SLOT (05 R139). -/
def execFabricSlot (t f : Nat) (s : State) : Out := run (decide (f < 24)) t (onDie (fabDie f) (fabricSlot f)) s

/-- PLANE_CELL_RECEIVE (05 R141). -/
def execPlaneCellReceive (t p : Nat) (s : State) : Out := run (decide (p < 8)) t (planeReceive p) s

/-- PLANE_SLOT (05 R140). -/
def execPlaneSlot (t p : Nat) (s : State) : Out := run (decide (p < 8)) t (onDie (diePlane p) (planeSlot p)) s

/-- FABRIC_CELL_ARRIVAL (05 R147). -/
def execFabricCellArrival (t tile : Nat) (corrupt : Bool) (flaw : Flaw) (s : State) : Out :=
  run (decide (tile < 16)) t (fabricArrival tile corrupt flaw) s

/-- PACKET_RELEASE (05 R149). -/
def execPacketRelease (t tile src vc : Nat) (flaw : Flaw) (s : State) : Out :=
  run (decide (tile < 16) && decide (src < 24) && decide (vc < 8)) t
    (onDie (dieTile tile) (packetRelease tile src vc flaw)) s

/-- REASSEMBLY_TIMEOUT (05 R150). -/
def execReassemblyTimeout (t tile src vc rel : Nat) (s : State) : Out :=
  run (decide (tile < 16) && decide (src < 24) && decide (vc < 8) && decide (rel < 65536)) t
    (onDie (dieTile tile) (reasmTimeout tile src vc (BitVec.ofNat 16 rel))) s

/-- SEQ_GAP_TIMEOUT (05 R150). -/
def execSeqGapTimeout (t tile src vc : Nat) (s : State) : Out :=
  run (decide (tile < 16) && decide (src < 24) && decide (vc < 8)) t
    (onDie (dieTile tile) (gapTimeout tile src vc)) s

/-- PLANE_RETIRE (05 R151). -/
def execPlaneRetire (t m p : Nat) (s : State) : Out :=
  run (isMaster m && decide (p < 8)) t (accessDie m (diePlane p) (planeRetireWrite m p)) s

/-- PLANE_REJOIN (05 R152). -/
def execPlaneRejoin (t m p : Nat) (s : State) : Out :=
  run (isMaster m && decide (p < 8)) t (accessDie m (diePlane p) (planeRejoin m p)) s

end Sys2Proof.Machine
end

