-- ==== Sys2Proof/Machine/Host.lean ====
section
/-! DEFINITION. The host attach, rings, doorbells, interrupts and the ownership of the package
(12 R350 to R390, 01 R20). -/

namespace Sys2Proof.Machine

/-! ## The attach and failover (R20, R353 to R356) -/

/-- When the wait for the host site began: H_RST_N rose or, where a warm package reset kept it high, bring-up started.
DESIGN CHOICE: log entry 239. -/
def State.attachFrom (s : State) : Option Nat := s.pins.hRstRoseAt.map (fun r => max r s.boot.zeroAt)

/-- A module that completes training takes the CXL link (R20): H.B where H.A has not trained and no retraining of
H.A is awaited, and H.A from H.B within the first 500 ms, each only before a failover.
DESIGN CHOICE: log entry 239. -/
def State.takesLink (s : State) (b : Bool) : Bool :=
  let h := s.host
  !h.moved && b != h.unitB &&
  (if b then !h.aTrained && h.downAt.isNone
   else match s.attachFrom with
     | some r => decide (s.now < r + 500000000)
     | none => false)

/-- The link is up again: what waited for the retraining leaves in order (R355). -/
def flushOut (s : State) : State :=
  if s.hostUp then { s with sent := s.host.outbox.reverse ++ s.sent, host := { s.host with outbox := [] } } else s

/-- A host module completes training (R20). half: at 16 GT/s (R18); cache: the host has enabled
CXL.cache (R387). -/
def hostTrained (b half cache : Bool) (s : State) : State :=
  let takes := s.takesLink b
  let h := s.host
  let h := { h with everTrained := true }
  let h := if b then { h with bTrained := true } else { h with aTrained := true }
  let h := if takes then { h with unitB := b, standbyHalf := h.halfRate, standbyCache := h.cacheOn } else h
  let h := if b == h.unitB then { h with halfRate := half, cacheOn := cache, downAt := none }
    else { h with standbyHalf := half, standbyCache := cache }
  flushOut { s with host := h }

/-- Neither module has trained within 500 ms after H_RST_N rose (R20, 02 R56); one that has trained and left its active
state again has trained. -/
def attachTimeout (s : State) : State :=
  match s.attachFrom with
  | some r =>
    if s.past r 500000000 && !s.host.aTrained && !s.host.bTrained && !s.host.everTrained && !s.host.attachFailed then
      ({ s with host := { s.host with attachFailed := true } }).raise (dieTile 0) srcHaFail
    else s
  | none => s

/-- A module leaves its active state (R355). -/
def hostDown (b : Bool) (s : State) : State :=
  let h := s.host
  let h := if b then { h with bTrained := false } else { h with aTrained := false }
  let h := if b == h.unitB then { h with downAt := some s.now } else h
  { s with host := h }

/-- Descriptor reads in flight are abandoned and fetched again; the slots they reserved in the
completion rings are given back (R355). -/
def dropFetches (s : State) : State :=
  s.forEach (s.rings.map Prod.fst) (fun s r =>
    match (s.ring r).fetch with
    | none => s
    | some (_, n) =>
      let c := (s.ring r).cmplRing.toNat
      (s.modRing r (fun g => { g with fetch := none, woken := true })).modRing c
        (fun g => { g with reserved := g.reserved - n }))

/-- The die of the active unit's tile (R353). -/
def State.activeTile (s : State) : Nat := if s.host.unitB then dieTile 8 else dieTile 0

/-- The other unit becomes active, and what still waited for the old module is lost with it; where it cannot, the attach
fails, but for a switch that the owner asked for, which then does nothing (R355, R356). trigger: 1 module, 2 tile,
3 owner (R369). -/
def failoverTo (trigger : Nat) (toB : Bool) (s : State) : State :=
  let d := s.activeTile
  let target := if toB then dieTile 8 else dieTile 0
  let able := toB != s.host.unitB && (if toB then s.host.bTrained else s.host.aTrained) &&
    !s.dieOut target && !(s.die target).inReset
  if able then
    let h := s.host
    (dropFetches { s with host := { h with
        unitB := toB, downAt := none, replay := some trigger, failovers := satInc h.failovers, moved := true, outbox := []
        halfRate := h.standbyHalf, standbyHalf := h.halfRate, cacheOn := h.standbyCache, standbyCache := h.cacheOn } }).raise
      d srcHaFail
  else if trigger = 3 then s
  else ({ s with host := { s.host with attachFailed := true, downAt := none, outbox := [] } }).raise d srcHaFail

/-- FAILOVER: the active module has not retrained within 100 µs (R355, R356). -/
def failover (s : State) : State :=
  match s.host.downAt with
  | some d => s.when (s.past d 100000 && !s.hostUp) (failoverTo 1 true)
  | none => s

/-- The window through which a command reaches the HA_ registers: T0's, or T8's while T0 cannot be reached
(16 R473, R475). DESIGN CHOICE: log entry 20. -/
def State.haWindow (s : State) : Nat := if s.reachable (dieTile 0) then dieTile 0 else dieTile 8

/-- An access by master m to the HA_ registers. -/
def accessHost (m : Nat) (f : State → State) (s : State) : State := accessDie m s.haWindow f s

/-- The owner writes HA_CTL.switch (R355, R356, R358). -/
def switchUnit (m : Nat) (s : State) : State :=
  s.ownerWrite m (fun s =>
    if !s.host.unitB then failoverTo 3 true s
    else s.when (!s.dieOut (dieTile 0) && !(s.die (dieTile 0)).inReset && s.host.aTrained)
      (failoverTo 3 false))

/-- SWITCH by master m: a write of HA_CTL with a 1 in switch. From BMC or a REMOTE master the write's other
fields are dropped, which counts once (R358, R376). -/
def switchWrite (m : Nat) (s : State) : State :=
  let s' := switchUnit m s
  if m ≠ mHost ∧ s.mayWrite m then s'.refuseWrite m else s'

/-- Doorbell lines that hold an enabled ring (R351, R359). -/
def State.enabledLines (s : State) : List Nat :=
  ((s.rings.filter (fun r => r.2.enable)).map (fun r => r.1 / 8)).eraseDups

/-- Read one doorbell line (R359). -/
def readLine (line : Nat) (s : State) : State :=
  s.hostRead (s.host.dbBase.toNat * 4096 + 64 * line) 64 s.host.cacheOn

/-- Rewrite every unconfirmed record, in order, and then the tail word of each of their rings as it was last written
(R355). -/
def rewriteRecords (s : State) : State :=
  let ws := s.host.unconfirmed
  let s := s.forEach ws (fun s w => s.hostWrite ((s.ring w.ring).slotAddr w.index) w.bytes)
  s.forEach (ws.map RingWrite.ring).eraseDups (fun s r =>
    match ws.reverse.find? (fun w => w.ring == r) with
    | some w => s.putTail r (w.index + w.bytes.length / 64)
    | none => s)

/-- FAILOVER_REPLAY: the new unit carries CXL (R355). -/
def failoverReplay (s : State) : State :=
  match s.host.replay with
  | none => s
  | some trig =>
    if !s.hostUp then s
    else
      let s := { s with host := { s.host with replay := none } }
      let s := rewriteRecords s
      let s := s.forEach s.enabledLines (fun s l => readLine l s)
      (s.packageVector 3).event evFailover 0 (b2n s.host.unitB) trig 0

/-- TAIL_CONFIRM: the read-back of the tail word of ring r returned; it confirms every record that the
tail covers, and records that waited for room are written (R354). -/
def tailConfirm (r tail : Nat) (s : State) : State :=
  let covered (w : RingWrite) : Bool :=
    w.ring == r && decide ((BitVec.ofNat 32 tail - BitVec.ofNat 32 (w.index + w.bytes.length / 64)).toNat
      < 2 ^ 31)
  let s := { s with host := { s.host with unconfirmed := s.host.unconfirmed.filter (fun w => !covered w) } }
  let waiting := s.host.delayed
  let s := { s with host := { s.host with delayed := [] } }
  s.forEach waiting State.putOrWait

/-- MSIX_COALESCE_TIMEOUT (R370). -/
def coalesceTimeout (r : Nat) (s : State) : State :=
  let g := s.ring r
  match g.unsigFrom with
  | some f =>
    if g.intEn && g.coalUs != 0 && s.past f (1000 * g.coalUs.toNat) then
      (s.modRing r (fun g => { g with unsignalled := 0, unsigFrom := none })).msix g.vector.toNat
    else s
  | none => s

/-! ## Rings (R357 to R362) -/

/-- Read the doorbell word of a ring: its line with RdShared, which is then held, or by CXL.io (R351, R358). -/
def readWord (r : Nat) (s : State) : State :=
  let s := if s.host.cacheOn then { s with host := { s.host with lines := tset 0 s.host.lines (r / 8) 1 } } else s
  readLine (r / 8) s

/-- RING_ENABLE by master m; word is the doorbell word the Driant reads (R358). DEDUCED: log entry 170. -/
def ringEnable (m r word : Nat) (s : State) : State :=
  if m ≠ mHost then s.refuseWrite m
  else
    let g := s.ring r
    let w : W32 := BitVec.ofNat 32 word
    let c := s.ring g.cmplRing.toNat
    if g.enable || g.kind == 3 then s
    else if g.kind == 0 then
      if c.enable && c.kind == 1 then
        readWord r (s.modRing r (fun g =>
          { g with enable := true, head := w, tail := w, doorbell := w, woken := false }))
      else (s.modRing r (fun g => { g with err := true })).hwSet (wbErr r)
    else
      let s := s.modRing r (fun g => { g with enable := true, head := w, tail := w, doorbell := w })
      (readWord r s).putTail r w.toNat

/-- The records of a ring that still wait for confirmations are discarded as it is disabled, and count in lost_records;
padding is no record (R354, R358, R361). -/
def dropDelayed (r : Nat) (s : State) : State :=
  let gone := s.host.delayed.filter (fun w => w.ring == r)
  let s := { s with host := { s.host with delayed := s.host.delayed.filter (fun w => w.ring != r) } }
  s.forEach (gone.filter (fun w => byteAt w.bytes 0 != 0)) (fun s _ => s.lostRecord)

/-- RING_DISABLE: fetching stops, and a read in flight is abandoned; descriptors already fetched still complete (R358). No
audit record waits for the ring any longer (R362). DEDUCED: log entry 276. -/
def ringDisable (m r : Nat) (s : State) : State :=
  if m ≠ mHost then s.refuseWrite m
  else
    let g := s.ring r
    let s := match g.fetch with
      | some (_, n) => s.modRing g.cmplRing.toNat (fun c => { c with reserved := c.reserved - n })
      | none => s
    dropDelayed r (s.modRing r (fun g => { g with enable := false, woken := false, fetch := none, audits := [] }))

/-- FUNCTION_LEVEL_RESET: every ring is disabled and the MSI-X table cleared (R352). DEDUCED: log entry 169. -/
def functionReset (s : State) : State :=
  let s := s.forEach (s.rings.map Prod.fst) (fun s r => ringDisable mHost r s)
  { s with host := { s.host with msix := [] } }

/-- DOORBELL_SNOOP: every snoop is answered without data (R350). SnpInv, which a host store sends, makes the Driant's
copy invalid, and it reads the line again (R359); SnpData and SnpCur leave a line Shared. -/
def doorbellSnoop (k : Snoop) (s : State) : State :=
  let s := s.hostPut (.snoopAnswer k.line)
  match k with
  | .inv line =>
    let s := { s with host := { s.host with lines := tset 0 s.host.lines line 0 } }
    s.when s.host.cacheOn (readLine line)
  | .data _ => s
  | .cur _ => s

/-- The doorbell word of ring r was read as w: it is woken where the word changed (R359, R360). -/
def doorbellWord (s : State) (r word : Nat) : State :=
  let g := s.ring r
  let w : W32 := BitVec.ofNat 32 word
  if !g.enable || w == g.doorbell then s
  else if g.kind == 0 then
    if decide ((w - g.head).toNat > g.slots) then
      ringDisable mHost r ((s.modRing r (fun g => { g with doorbell := w, tail := w, err := true })).hwSet (wbErr r))
    else s.modRing r (fun g => { g with doorbell := w, tail := w, woken := true })
  else s.modRing r (fun g => { g with doorbell := w, head := w })

/-- DOORBELL_LINE_READ: the eight words of a line return (R359). -/
def doorbellLine (line : Nat) (words : List Nat) (s : State) : State :=
  let s := { s with host := { s.host with lines := tset 0 s.host.lines line (b2n s.host.cacheOn) } }
  s.forEach (List.range 8) (fun s i => doorbellWord s (8 * line + i) (words.getD i 0 % 2 ^ 32))

/-- The device cache that the function reports, in bytes: the 2,048 doorbell lines (R351). -/
def cacheBytes : Nat := 131072

/-- DOORBELL_POLL: without CXL.cache every line of an enabled ring is read by CXL.io, every db_poll_us (R351). -/
def doorbellPoll (s : State) : State :=
  if s.host.cacheOn || !s.past s.host.pollAt (1000 * s.host.dbPollUs.toNat) then s
  else ({ s with host := { s.host with pollAt := s.now } }).forEach s.enabledLines (fun s l => readLine l s)

/-- Descriptors that a fetch of ring r reads now: up to 16, up to the tail, up to the end of the ring,
and one free completion slot for each; none while an audit record waits for room in the completion ring (R360, R362). DEDUCED: log entry 194. -/
def State.fetchCount (s : State) (r : Nat) : Nat :=
  let g := s.ring r
  let c := s.ring g.cmplRing.toNat
  if g.enable && g.kind == 0 && g.woken && !g.err && g.fetch.isNone && c.enable && c.kind == 1 &&
      c.audits.isEmpty then
    min (min 16 (g.tail - g.head).toNat)
      (min (g.slots - g.head.toNat % g.slots) (c.slots - c.ahead - c.reserved))
  else 0

/-- The next ring to visit, in ascending index, cyclically (R360). -/
def State.nextFetch (s : State) : Option Nat :=
  let ok := (s.rings.map Prod.fst).filter (fun r => decide (0 < s.fetchCount r))
  match ok.find? (fun r => decide (s.host.visit ≤ r)) with
  | some r => some r
  | none => ok.head?

/-- DESCRIPTOR_FETCH: the next ring's descriptors are read, their completion slots reserved (R360). -/
def descriptorFetch (s : State) : State :=
  if s.vent.inSafe then s
  else match s.nextFetch with
    | none => s
    | some r =>
      let g := s.ring r
      let n := s.fetchCount r
      let s := s.modRing g.cmplRing.toNat (fun c => { c with reserved := c.reserved + n })
      let s := s.modRing r (fun g => { g with fetch := some (g.head, n) })
      let s := { s with host := { s.host with visit := r + 1 } }
      s.hostRead (g.slotAddr g.head.toNat) (64 * n) false

/-- DESCRIPTOR_READ_DONE: a descriptor read of ring r completes with bytes, or fails (R360). -/
def descriptorReadDone (r : Nat) (good : Bool) (bytes : List Byte) (s : State) : State :=
  match (s.ring r).fetch with
  | none => s
  | some (_, n) =>
    let s := s.modRing r (fun g => { g with fetch := none })
    if good then
      s.forEach (List.range n) (fun s i =>
        let slot := (s.ring r).head.toNat % (s.ring r).slots
        let s := s.modRing r (fun g => { g with head := g.head + 1 })
        s.handOver (.ring r slot) (sliceOf bytes (64 * i) 64))
    else
      let s := ringReadFailed r s
      s.forEach (List.range n) (fun s i =>
        let slot := ((s.ring r).head.toNat + i) % (s.ring r).slots
        s.complete (.ring r slot) [] St.hostReadErr 0 [])

/-- NOP (R365). -/
def nopDesc (s : State) : State := s.runJob dkNop 0 (fun _ s => (St.ok, 0, [], s))

/-! ## Mailboxes (R375) -/

/-- MAILBOX_GO by master m. -/
def mailboxGo (m : Nat) (s : State) : State :=
  let ms := s.master m
  if ms.mboxBusy then (s.modMaster m (fun ms => { ms with mboxDropped := true })).hwSet (wbMbox m)
  else
    let s := s.modMaster m (fun ms => { ms with mboxBusy := true })
    s.handOver (.mbox m) (memRead 0 ms.mboxDesc 0 64)

/-! ## Ownership (R377 to R380) -/

/-- Ownership passes: a new lease, no successor, every pending shadow write discarded, the event
OWNER_CHANGED (R377 to R379). cause: 1 election, 2 handover, 3 lapse, 4 reclaim. DEDUCED: log entry 167. -/
def ownerChange (new cause : Nat) (nonce : BitVec 64) (prio : BitVec 8) (s : State) : State :=
  let old := s.own.owner
  let o : Ownership := { owner := new, priority := prio, nonce := nonce, windowAt := none
                         leaseAt := s.now, successor := none
                         late := if old = 0 ∨ old = new then none else some (old, mgCycle s.now) }
  (({ s with own := o }).discardShadow old).event evOwnerChanged 0 new old cause

/-- Set a master's claim_result (R388): 1 PENDING, 2 WON, 3 LOST, 4 REFUSED_OWNED, 5 NOT_READY. -/
def setClaim (s : State) (m : Nat) (r : BitVec 3) : State :=
  s.modMaster m (fun ms => { ms with claimResult := r })

/-- Claims are accepted: phase READY, or SAFE (R377, R410). -/
def State.claimsOpen (s : State) : Bool := s.boot.phase == .ready || s.boot.phase == .safe

/-- OWNER_CLAIM by master m, with the priority and nonce in its registers (R377, R379, R380).
DEDUCED: log entry 168. -/
def ownerClaim (m : Nat) (s : State) : State :=
  let ms := s.master m
  if !s.claimsOpen then setClaim s m 5
  else if s.own.owner = m then
    if s.own.nonce == ms.nonce then
      setClaim { s with own := { s.own with leaseAt := s.now } } m 2
    else
      let succ := s.own.successor
      let s := ownerChange m 4 ms.nonce ms.priority s
      setClaim { s with own := { s.own with successor := succ } } m 2
  else match s.own.successor with
    | some (x, at_) =>
      if x = m ∧ s.own.owner ≠ 0 ∧ s.now < at_ + 1000000000 then
        let s := ownerChange m 2 ms.nonce ms.priority s
        setClaim (s.packageVector 4) m 2
      else if s.own.owner ≠ 0 then setClaim s m 4 else s
    | none =>
      if s.own.owner ≠ 0 then setClaim s m 4
      else
        let s := { s with own := { s.own with windowAt := some (s.own.windowAt.getD s.now) } }
        s.modMaster m (fun x => { x with entered := x.entered ++ [(ms.nonce, ms.priority)], claimResult := 1 })

/-- The claimant that beats another: the higher priority, then the higher nonce, then the lower
identifier (R377). -/
def claimBeats (a b : Nat × BitVec 64 × BitVec 8) : Bool :=
  decide (b.2.2.toNat < a.2.2.toNat) ||
  (a.2.2 == b.2.2 && (decide (b.2.1.toNat < a.2.1.toNat) || (a.2.1 == b.2.1 && decide (a.1 < b.1))))

/-- The claims in the open window, every one of a master that claims again among them. -/
def State.entrants (s : State) : List (Nat × BitVec 64 × BitVec 8) :=
  masterIds.flatMap (fun m => (s.master m).entered.map (fun e => (m, e.1, e.2)))

/-- The best of a list of claims. -/
def bestClaim : List (Nat × BitVec 64 × BitVec 8) → Option (Nat × BitVec 64 × BitVec 8)
  | [] => none
  | a :: as => match bestClaim as with
    | none => some a
    | some b => if claimBeats a b then some a else some b

/-- ELECTION_WINDOW_END: 10 ms after the first claim the winner's lease starts (R377). -/
def electionEnd (s : State) : State :=
  match s.own.windowAt with
  | none => s
  | some w =>
    if !s.past w 10000000 then s
    else match bestClaim s.entrants with
      | none => { s with own := { s.own with windowAt := none } }
      | some (m, nonce, prio) =>
        let es := s.entrants
        let s := ownerChange m 1 nonce prio s
        let s := s.forEach es (fun s e =>
          (setClaim s e.1 (if e.1 = m then 2 else 3)).modMaster e.1 (fun x => { x with entered := [] }))
        s.packageVector 4

/-- LEASE_RENEW by master m (R378). -/
def leaseRenew (m : Nat) (s : State) : State :=
  s.ownerWrite m (fun s => { s with own := { s.own with leaseAt := s.now } })

/-- A renewal of the owner, its own claim among them, or its successor's claim comes in the same cycle: it is taken and
there is no lapse (R377, R380). -/
def State.leaseHeld (s : State) : Bool :=
  s.bitComes s.own.owner 0x1020 31 || s.bitComes s.own.owner 0x1008 31 ||
  (match s.own.successor with
   | some (x, _) => s.bitComes x 0x1008 31
   | none => false)

/-- LEASE_LAPSED: 1,000 ms have passed since the last renewal (R378, R379). What the owner writes in the same cycle
still applies (R380). -/
def leaseLapsed (s : State) : State :=
  if s.own.owner ≠ 0 ∧ s.past s.own.leaseAt 1000000000 ∧ !s.leaseHeld then
    (ownerChange 0 3 0 0 s).packageVector 5
  else s

/-- Name, replace or cancel a successor; false where it is refused (R379). -/
def nameSuccessor (x : Nat) (s : State) : Bool × State :=
  if x = 0 then (true, { s with own := { s.own with successor := none } })
  else if x = s.own.owner ∨ !isMaster x then (false, s)
  else (true, { s with own := { s.own with successor := some (x, s.now) } })

/-- HANDOVER_WRITE by master m (R379, R389). -/
def handoverWrite (m x : Nat) (s : State) : State :=
  s.ownerWrite m (fun s => (nameSuccessor x s).2)

/-- OWNER_HANDOVER descriptor (R379). -/
def ownerHandover (s : State) : State :=
  s.runJob dkHandover 0 (fun j s =>
    let (good, s) := nameSuccessor (fieldOf j.desc 8 1) s
    (if good then St.ok else St.badTarget, 0, [], s))

/-- HANDOVER_EXPIRY: the successor has not claimed within 1,000 ms (R379). -/
def handoverExpiry (s : State) : State :=
  match s.own.successor with
  | some (_, a) => s.when (s.past a 1000000000) (fun s => { s with own := { s.own with successor := none } })
  | none => s

/-! ## The commands -/

/-- HOST_MODULE_TRAINED (01 R20). -/
def execHostModuleTrained (t : Nat) (b half cache : Bool) (s : State) : Out :=
  run true t (hostTrained b half cache) s

/-- ATTACH_TIMEOUT (01 R20). -/
def execAttachTimeout (t : Nat) (s : State) : Out := run true t attachTimeout s

/-- HOST_MODULE_DOWN (12 R355). -/
def execHostModuleDown (t : Nat) (b : Bool) (s : State) : Out := run true t (hostDown b) s

/-- FAILOVER (12 R355). -/
def execFailover (t : Nat) (s : State) : Out := run true t failover s

/-- FAILOVER_REPLAY (12 R355). -/
def execFailoverReplay (t : Nat) (s : State) : Out := run true t failoverReplay s

/-- SWITCH (12 R355). -/
def execSwitch (t m : Nat) (s : State) : Out := run (isMaster m) t (accessHost m (switchWrite m)) s

/-- TAIL_CONFIRM (12 R354). -/
def execTailConfirm (t r tail : Nat) (s : State) : Out :=
  run (decide (r < 16384) && decide (tail < 2 ^ 32)) t (tailConfirm r tail) s

/-- MSIX_COALESCE_TIMEOUT (12 R370). -/
def execMsixCoalesceTimeout (t r : Nat) (s : State) : Out :=
  run (decide (r < 16384)) t (coalesceTimeout r) s

/-- RING_ENABLE (12 R358). -/
def execRingEnable (t m r word : Nat) (s : State) : Out :=
  run (isMaster m && decide (r < 16384) && decide (word < 2 ^ 32)) t (accessHost m (ringEnable m r word)) s

/-- RING_DISABLE (12 R358). -/
def execRingDisable (t m r : Nat) (s : State) : Out :=
  run (isMaster m && decide (r < 16384)) t (accessHost m (ringDisable m r)) s

/-- FUNCTION_LEVEL_RESET (12 R352). -/
def execFunctionLevelReset (t : Nat) (s : State) : Out := run true t functionReset s

/-- DOORBELL_SNOOP (12 R359). -/
def execDoorbellSnoop (t : Nat) (k : Snoop) (s : State) : Out :=
  run (decide (k.line < 2048)) t (doorbellSnoop k) s

/-- DOORBELL_LINE_READ (12 R359). -/
def execDoorbellLineRead (t line : Nat) (words : List Nat) (s : State) : Out :=
  run (decide (line < 2048) && decide (words.length = 8)) t (doorbellLine line words) s

/-- DOORBELL_POLL (12 R351). -/
def execDoorbellPoll (t : Nat) (s : State) : Out := run true t doorbellPoll s

/-- DESCRIPTOR_FETCH (12 R360). -/
def execDescriptorFetch (t : Nat) (s : State) : Out := run true t descriptorFetch s

/-- DESCRIPTOR_READ_DONE (12 R360). -/
def execDescriptorReadDone (t r : Nat) (good : Bool) (bytes : List Byte) (s : State) : Out :=
  run (decide (r < 16384)) t (descriptorReadDone r good bytes) s

/-- NOP (12 R365). -/
def execNop (t : Nat) (s : State) : Out := run true t nopDesc s

/-- MAILBOX_GO (12 R375). -/
def execMailboxGo (t m : Nat) (s : State) : Out := run (isMaster m) t (onPath m (mailboxGo m)) s

/-- OWNER_CLAIM (12 R377). -/
def execOwnerClaim (t m : Nat) (s : State) : Out := run (isMaster m) t (onPath m (ownerClaim m)) s

/-- ELECTION_WINDOW_END (12 R377). -/
def execElectionWindowEnd (t : Nat) (s : State) : Out := run true t electionEnd s

/-- LEASE_RENEW (12 R378). -/
def execLeaseRenew (t m : Nat) (s : State) : Out := run (isMaster m) t (onPath m (leaseRenew m)) s

/-- LEASE_LAPSED (12 R378). -/
def execLeaseLapsed (t : Nat) (s : State) : Out := run true t leaseLapsed s

/-- HANDOVER_WRITE (12 R379). -/
def execHandoverWrite (t m x : Nat) (s : State) : Out :=
  run (isMaster m && decide (x < 256)) t (onPath m (handoverWrite m x)) s

/-- OWNER_HANDOVER (12 R379). -/
def execOwnerHandover (t : Nat) (s : State) : Out := run true t ownerHandover s

/-- HANDOVER_EXPIRY (12 R379). -/
def execHandoverExpiry (t : Nat) (s : State) : Out := run true t handoverExpiry s

end Sys2Proof.Machine
end

