-- ==== Sys2Proof/Machine/Time.lean ====
section
/-! DEFINITION. Fabric time: the discipline of the FTC, its source port, FTC_SYNC, and the counts of
timing-dependent choices (11 R326 to R345, R339, R340, 03 R94). -/

namespace Sys2Proof.Machine

/-! ## What the Driant advertises (R328 to R330) -/

/-- The largest rate correction, 1,000 ppm, in 2^-32 ns for each ns (R327). -/
def rateMax : Int := 4294967

/-- A root with sync_en = 0 runs freely on CREF1: no rate correction stands (R329). -/
def freeRun (s : State) : State :=
  s.when (s.ftc.state == .root && !s.ftc.syncEn) (fun s =>
    let s := s.ftcRebase
    { s with ftc := { s.ftc with rate := 0, integral := 0 } })

/-- Go to a state of R331, with what it advertises (R330): hops 255 and root_id 0 in FREE and ACQUIRE, hops
255 and the last root_id in HOLDOVER, which keeps the integral part of the rate alone, 0 and package_serial as
root. -/
def ftcEnter (st : FtcState) (s : State) : State :=
  let s := if st = .holdover then
      let s := s.ftcRebase
      { s with ftc := { s.ftc with rate := max (-rateMax) (min rateMax s.ftc.integral) } }
    else s
  let f := { s.ftc with state := st, streak := 0 }
  let f := match st with
    | .free => { f with source := none, hops := 255, rootId := 0 }
    | .acquire => { f with hops := 255, rootId := 0 }
    | .locked => f
    | .holdover => { f with source := none, hops := 255, holdFrom := s.now }
    | .root => { f with source := none, hops := 0, rootId := s.pkg.serial }
  freeRun { s with ftc := f }

/-- time_locked as sent (R328 to R330). -/
def State.timeLocked (s : State) : Bool :=
  match s.ftc.state with
  | .locked => true
  | .holdover => true
  | .root => !s.ftc.syncEn || s.ftc.edgeSeen
  | _ => false

/-! ## The source port (R330) -/

/-- A port is eligible as the source. -/
def State.timeEligible (s : State) (p : Nat) : Bool :=
  let x := s.port p
  x.state == .active && byteAt x.partner 11 == 1 && x.timeOk &&
  (match x.timeAdvert with
   | some (hops, id, locked, _) =>
     locked && decide (hops < 255) && decide (hops < s.ftc.hopMax.toNat) &&
     (s.ftc.expectRoot == 0 || id == s.ftc.expectRoot.toNat)
   | none => false)

/-- root_hops and root_id that a port reported last. -/
def State.advertOf (s : State) (p : Nat) : Nat × Nat :=
  match (s.port p).timeAdvert with
  | some (h, i, _, _) => (h, i)
  | none => (255, 0)

/-- Port a is chosen before port b: least root_hops, then least root_id, then least port number. -/
def State.betterSource (s : State) (a b : Nat) : Bool :=
  let x := s.advertOf a
  let y := s.advertOf b
  decide (x.1 < y.1) || (x.1 == y.1 && (decide (x.2 < y.2) || (x.2 == y.2 && decide (a < b))))

/-- The eligible ports. -/
def State.timeSources (s : State) : List Nat := (s.ports.map Prod.fst).filter s.timeEligible

/-- The port that the rule chooses among some. -/
def State.bestSource (s : State) : List Nat → Option Nat
  | [] => none
  | p :: ps => match s.bestSource ps with
    | none => some p
    | some q => if s.betterSource p q then some p else some q

/-- root_conflict (R330). -/
def State.rootConflict (s : State) : Bool :=
  s.ports.any (fun e => e.2.state == .active && byteAt e.2.partner 11 == 1 &&
    (match e.2.timeAdvert with
     | some (h, i, locked, _) => locked && decide (h < 255) && i != s.ftc.rootId.toNat
     | none => false))

/-- Keep, for every port, since when it has reported a root_hops at least 2 below the source's (R330). -/
def refreshSince (s : State) : State :=
  let src := match s.ftc.source with
    | some p => (s.advertOf p).1
    | none => 0
  s.forEach (s.ports.map Prod.fst) (fun s p => s.modPort p (fun x =>
    { x with timeAdvert := x.timeAdvert.map (fun a =>
        (a.1, a.2.1, a.2.2.1, if a.1 + 2 ≤ src then some (a.2.2.2.getD s.now) else none)) }))

/-- In LOCKED the Driant advertises its source's root_hops + 1 and its source's root_id (R330). -/
def followSource (s : State) : State :=
  match s.ftc.source with
  | some p => s.when (s.ftc.state == .locked) (fun s =>
      let a := s.advertOf p
      { s with ftc := { s.ftc with hops := BitVec.ofNat 8 (a.1 + 1), rootId := BitVec.ofNat 64 a.2 } })
  | none => s

/-- Take a source (R330); source_port is shown from then on. -/
def takeSource (p : Nat) (s : State) : State :=
  followSource (refreshSince { s with ftc := { s.ftc with source := some p, shownSource := BitVec.ofNat 9 p } })

/-- Ports whose report has been at least 2 below the source's for 100 ms. -/
def State.closerSources (s : State) : List Nat :=
  s.timeSources.filter (fun p => match (s.port p).timeAdvert with
    | some (_, _, _, some since) => s.past since 100000000
    | _ => false)

/-- SOURCE_REEVALUATION, every 1 ms (R330, R331). -/
def sourceReeval (s : State) : State :=
  if s.ftc.root then s.when (s.ftc.state != .root) (ftcEnter .root)
  else
    let s := s.when (s.ftc.state == .root) (ftcEnter .free)
    let best := s.bestSource s.timeSources
    let ok := match s.ftc.source with
      | some p => s.timeEligible p
      | none => false
    match s.ftc.state with
    | .free => match best with
      | some p => takeSource p (ftcEnter .acquire s)
      | none => s
    | .acquire =>
      if ok then (match s.bestSource s.closerSources with
        | some p => takeSource p s
        | none => s)
      else (match best with
        | some p => takeSource p { s with ftc := { s.ftc with streak := 0 } }
        | none => ftcEnter .free s)
    | .locked =>
      if ok then (match s.bestSource s.closerSources with
        | some p => takeSource p s
        | none => s)
      else
        let s := ftcEnter .holdover s
        (match best with
         | some p => takeSource p s
         | none => s)
    | .holdover => if ok then s else (match best with
        | some p => takeSource p s
        | none => { s with ftc := { s.ftc with source := none } })
    | .root => s

/-! ## The discipline (R327, R331, 03 R94) -/

/-- Steer an offset th, in 2^-32 ns (R331). -/
def steer (th : Int) (s : State) : State :=
  let s := s.ftcRebase
  let r := Config.loopRate s.ftc.integral th
  { s with ftc := { s.ftc with rate := max (-rateMax) (min rateMax r)
                               integral := Config.loopIntegral s.ftc.integral th } }

/-- Step the FTC by a whole number of ns (R327). -/
def ftcStep (d : Int) (s : State) : State :=
  let s := s.ftcRebase
  { s with ftc := { s.ftc with
      count := (((s.ftc.count : Int) + d * 2 ^ 32) % (2 ^ 96 : Int)).toNat, steps := satInc s.ftc.steps } }

/-- A value of v units of 1/n, rounded to the nearest whole number, a tie upward (DEDUCED, log entry 30). -/
def roundDiv (v : Int) (n : Int) : Int := (2 * v + n) / (2 * n)

/-- One update of the loop (R331): th2 is twice θ in 1/65,536 ns. -/
def ftcUpdate (th2 : Int) (s : State) : State :=
  if s.ftc.root then s.when (s.ftc.state != .root) (ftcEnter .root)
  else
    let ns (n : Nat) : Int := (n * 131072 : Nat)
    let mag : Int := (th2.natAbs : Nat)
    let ps := th2 * 1000 / 131072
    let ps := max (-(2 ^ 31 : Int)) (min (2 ^ 31 - 1 : Int) ps)
    let s := { s with ftc := { s.ftc with thetaPs := BitVec.ofInt 32 ps } }
    let steered := steer (th2 * 32768) s
    match s.ftc.state with
    | .acquire =>
      if mag > ns s.ftc.stepNs.toNat then
        ftcStep (roundDiv th2 131072) { s with ftc := { s.ftc with streak := 0 } }
      else if mag ≤ ns 2 then
        if s.ftc.streak + 1 ≥ 64 then followSource (ftcEnter .locked steered)
        else { steered with ftc := { steered.ftc with streak := s.ftc.streak + 1 } }
      else { steered with ftc := { steered.ftc with streak := 0 } }
    | .locked =>
      if mag > ns 50 then
        if s.ftc.streak + 1 ≥ 16 then ftcEnter .acquire steered
        else { steered with ftc := { steered.ftc with streak := s.ftc.streak + 1 } }
      else { steered with ftc := { steered.ftc with streak := 0 } }
    | .holdover =>
      if mag ≤ ns 50 then followSource (ftcEnter .locked s) else ftcEnter .acquire s
    | _ => s

/-- A time of ns and 1/65,536 ns, in 1/65,536 ns. -/
def fracTime (ns frac : Nat) : Int := ((ns * 65536 + frac : Nat) : Int)

/-- The FTC that the lane die of lane l holds at this moment plus frac/65,536 ns, as ns and fraction (03 R93). -/
def State.stamp (s : State) (l frac : Nat) : Nat × Nat :=
  let v := s.ftcFixAt (dieLane (laneDieOf l)) + frac * 65536
  (v / 2 ^ 32 % 2 ^ 64, v / 65536 % 65536)

/-- Twice θ in 1/65,536 ns, from a FRAME body received on a lane (03 R94): the partner's prev_tx of the
frame before, and its echo of one of the frames sent, none more than four frames old; none where a valid bit is 0 or a frame
named is too old. -/
def thetaOf (x : Lane) (slot : List Byte) : Option Int :=
  let bits := (byteAt slot 66).toNat
  let k := (fieldOf slot 52 4 + 2 ^ 32 - 1) % 2 ^ 32
  let j := fieldOf slot 68 4
  match x.rxTimes.find? (fun r => r.1 == k), x.txTimes.find? (fun r => r.1 == j) with
  | some (_, r2, f2), some (_, r3, f3) =>
    if bitOf bits 0 && bitOf bits 1 then
      let t1 := fracTime (fieldOf slot 56 8) (fieldOf slot 64 2)
      let t4 := fracTime (fieldOf slot 72 8) (fieldOf slot 80 2)
      some ((t1 - fracTime r2 f2) + (t4 - fracTime r3 f3))
    else none
  | _, _ => none

/-- Twice the one-way delay in 1/65,536 ns, from the same four times as thetaOf (03 R94). -/
def delayOf (x : Lane) (slot : List Byte) : Option Int :=
  let k := (fieldOf slot 52 4 + 2 ^ 32 - 1) % 2 ^ 32
  let j := fieldOf slot 68 4
  match thetaOf x slot, x.rxTimes.find? (fun r => r.1 == k), x.txTimes.find? (fun r => r.1 == j) with
  | some _, some (_, r2, f2), some (_, r3, f3) =>
    let t1 := fracTime (fieldOf slot 56 8) (fieldOf slot 64 2)
    let t4 := fracTime (fieldOf slot 72 8) (fieldOf slot 80 2)
    some ((t4 - fracTime r3 f3) - (t1 - fracTime r2 f2))
  | _, _, _ => none

/-- What a FRAME on lane index 0 of port p does to time (R330, R331). DEDUCED: log entry 32. -/
def frameTime (p l : Nat) (slot : List Byte) (s : State) : State :=
  let bits := (byteAt slot 66).toNat
  let hops := (byteAt slot 67).toNat
  let id := fieldOf slot 84 8
  let s := s.modPort p (fun x =>
    { x with timeOk := bitOf bits 0 && bitOf bits 1
             timeAdvert := some (hops, id, bitOf bits 2, (x.timeAdvert.map (fun a => a.2.2.2)).getD none) })
  let s := refreshSince s
  if s.ftc.source = some p ∧ s.timeEligible p then
    let s := followSource s
    match thetaOf (s.lane l) slot with
    | some th2 => ftcUpdate th2 s
    | none => s
  else s

/-- HOLDOVER_EXPIRY (R331). -/
def holdoverExpiry (s : State) : State :=
  s.when (s.ftc.state == .holdover && s.past s.ftc.holdFrom (1000000 * s.ftc.holdoverMs.toNat)) (ftcEnter .free)

/-! ## FTC_SYNC (R329) -/

/-- FTC_SYNC_EDGE: a rising edge on a root with sync_en = 1, at the FTC value t_e, which wraps at 2^64 ns (R326). -/
def syncEdge (s : State) : State :=
  if s.ftc.state != .root || !s.ftc.syncEn then s
  else
    let te : Int := (s.ftcFix % 2 ^ 96 : Nat)
    let period : Int := (s.ftc.syncPeriod.toNat : Nat)
    let err := te - roundDiv te (period * 2 ^ 32) * period * 2 ^ 32
    let bad (s : State) : State := { s with ftc := { s.ftc with syncBad := satInc s.ftc.syncBad } }
    if s.ftc.loadPending then
      let s := s.ftcRebase
      let v := s.ftc.loadValue.toNat * 2 ^ 32
      { s with ftc := { s.ftc with count := v, loadPending := false, lastEdge := some v, edgeSeen := true
                                   steps := satInc s.ftc.steps } }
    else if (match s.ftc.lastEdge with
        | some e => decide (2 * ((te - (e : Int)) % 2 ^ 96) < period * 2 ^ 32)
        | none => false) then bad s
    else if (err.natAbs : Int) > 1000 * 2 ^ 32 then bad s
    else steer (-err) { s with ftc := { s.ftc with lastEdge := some (s.ftcFix % 2 ^ 96), edgeSeen := true } }

/-- FTC_COPY_COMPARE of a die: the offset of its copy from TD's, in 1/256 ns, at most 64 (R326). -/
def copyCompare (d : Nat) (off : Int) (s : State) : State := s.modDie d (fun x => { x with ftcOffset := off })

/-- Latch the high word of the FTC (R343). -/
def ftcLatch (s : State) : State :=
  { s with ftc := { s.ftc with latched := BitVec.ofNat 32 (s.ftcNow / 2 ^ 32) } }

/-- FTC_NOW_READ of the low word by master m (R343). -/
def ftcNowRead (m : Nat) (s : State) : State :=
  (ftcLatch s).emit (.value m 0x2800 (BitVec.ofNat 32 s.ftcNow))

/-! ## DET_STRICT and adaptive choices (R339, R340) -/

/-- A write of det_strict goes to the shadow copy; what was pending before its cycle is kept beside it (R346, 00
R9). -/
def detWrite (v : Bool) (s : State) : State :=
  let c := mgCycle s.now + 1
  { s with ftc := { s.ftc with
      detPending := some v, detAt := c, detOld := if s.ftc.detAt = c then s.ftc.detOld else s.ftc.detPending } }

/-- PK_DET_COMMIT by master m (R340, R346). -/
def detCommit (m : Nat) (s : State) : State :=
  s.ownerWrite m (fun s =>
    if s.ftc.detAt = mgCycle s.now + 1 then
      { s with ftc := { s.ftc with detStrict := s.ftc.detOld.getD s.ftc.detStrict, detOld := none } }
    else match s.ftc.detPending with
      | some v => { s with ftc := { s.ftc with detStrict := v, detPending := none, detOld := none } }
      | none => s)

/-- The key of the open invocation of a group and STEP whose audit record is not written. -/
def State.openInv (s : State) (g step : Nat) : Option Nat :=
  (s.invs.find? (fun e => match e.2 with
    | some i => i.group == g && i.step == step && i.state != .done && i.state != .free
    | none => false)).map Prod.fst

/-- ADAPTIVE_REPORT: the oldest report reaches the lead engine (R339). -/
def adaptiveReport (s : State) : State :=
  match s.reports with
  | [] => s
  | (g, step, slice) :: rest =>
    let s := { s with reports := rest }
    match s.openInv g step with
    | some k => s.modInv k (fun i => i.map (fun i => { i with adaptive := satInc i.adaptive }))
    | none => { s with ndetSlice := tmod 0 s.ndetSlice slice satInc }

/-! ## The commands -/

/-- FTC_SYNC_EDGE (11 R329). -/
def execFtcSyncEdge (t : Nat) (s : State) : Out := run true t syncEdge s

/-- SOURCE_REEVALUATION (11 R330). -/
def execSourceReevaluation (t : Nat) (s : State) : Out := run true t sourceReeval s

/-- HOLDOVER_EXPIRY (11 R331). -/
def execHoldoverExpiry (t : Nat) (s : State) : Out := run true t holdoverExpiry s

/-- FTC_COPY_COMPARE (11 R326). -/
def execFtcCopyCompare (t d : Nat) (off : Int) (s : State) : Out :=
  run (decide (d < 104) && decide (off.natAbs ≤ 64)) t (copyCompare d off) s

/-- FTC_NOW_READ (11 R343). -/
def execFtcNowRead (t m : Nat) (s : State) : Out := run (isMaster m) t (onPath m (ftcNowRead m)) s

/-- PK_DET_COMMIT (11 R340). -/
def execPkDetCommit (t m : Nat) (s : State) : Out := run (isMaster m) t (onPath m (detCommit m)) s

/-- ADAPTIVE_REPORT (11 R339). -/
def execAdaptiveReport (t : Nat) (s : State) : Out := run true t adaptiveReport s

end Sys2Proof.Machine
end

