-- ==== Sys2Proof/Machine/Links.lean ====
section
/-! DEFINITION. Lanes and links: training, identity and wiring, cells, credits, retry, ordered sets and
the failure of a module (03 R62 to R101, 01 R16). -/

namespace Sys2Proof.Machine

/-! ## Codes (R74, R99) -/

def LinkState.code : LinkState → Nat
  | .off => 0 | .detect => 1 | .coarse => 2 | .align => 3 | .equalize => 4 | .config => 5
  | .identify => 6 | .active => 7 | .quarantine => 8 | .quiesced => 9 | .holdoff => 10 | .down => 11

def Reason.code : Reason → Nat
  | .none => 0 | .noSignal => 1 | .trainTimeout => 2 | .laneMap => 3 | .versionRefused => 4
  | .retryExhausted => 5 | .creditErr => 6 | .disabled => 7 | .noRefclk => 8 | .partnerDown => 9
  | .moduleFail => 10 | .lockLost => 11 | .portReset => 12

/-- The link carries cells: ACTIVE, QUARANTINE or QUIESCED (R77). -/
def LinkState.up (x : LinkState) : Bool := x == .active || x == .quarantine || x == .quiesced

/-- The port is in one state of its own, not the least advanced one of its lanes (R74). -/
def LinkState.whole (x : LinkState) : Bool :=
  match x with
  | .config | .identify | .active | .quarantine | .quiesced | .holdoff | .down => true
  | _ => false

/-- The state a lane is in: its port's from CONFIG on, its own before (R74). A lane of a port held DOWN may be OFF: one
of an isolated lane die (13 R406). -/
def State.laneMode (s : State) (l : Nat) : LinkState :=
  let x := (s.port (s.portOfLane l)).state
  if x.whole && !(x == .down && (s.lane l).state == .off) then x else (s.lane l).state

/-- What a lane's transmitter sends (R74): nothing, at high impedance; unframed PAM4, the generator of R64 running
freely; or frames. -/
inductive LaneTx where
  | silent | free | frames
  deriving DecidableEq, Repr

/-- Frames from ALIGN onward, in DOWN, and while LINK_DOWN is being sent (R71, R74); in DETECT, COARSE and HOLDOFF
free-running PAM4 once Float has enabled the lane. -/
def State.laneTx (s : State) (l : Nat) : LaneTx :=
  if (s.port (s.portOfLane l)).linkDown then .frames
  else match s.laneMode l with
    | .off => .silent
    | .detect | .coarse | .holdoff => if (s.lane l).enabled then .free else .silent
    | _ => .frames

/-- The lane sends frames. -/
def State.framed (s : State) (l : Nat) : Bool := s.laneTx l == .frames

/-- The lane of a port that receives the partner's lane index 0 (R70, R76). -/
def State.isIndex0 (s : State) (l : Nat) : Bool :=
  match (s.lane l).ts2 with
  | some (_, _, _, i) => i == 0
  | none => false

/-- The lane of port p that receives the partner's lane index 0, and its first lane where none is known to. -/
def State.index0Of (s : State) (p : Nat) : Nat := ((s.portLanes p).find? s.isIndex0).getD p

/-! ## Lane and port states (R74, R77) -/

/-- A lane enters a training state: its counts of consecutive ordered sets start again. DEDUCED: log entry 34. -/
def laneEnter (l : Nat) (st : LinkState) (s : State) : State :=
  s.modLane l (fun x => { x with state := st, since := s.now, goodTs := 0, partnerDone := 0, ownDone := 0 })

/-- The port enters a state; its hold timer follows (04 R122). -/
def portEnter (p : Nat) (st : LinkState) (s : State) : State :=
  holdTimer p (s.modPort p (fun x => { x with state := st, since := s.now }))

/-- The least advanced state of a port's lanes (R74). -/
def State.leastState (s : State) (p : Nat) : LinkState :=
  (s.portLanes p).foldl (fun a l =>
    let b := (s.lane l).state
    if b.code < a.code then b else a) .config

/-- Show the least advanced state of the lanes while the port is in none of its own (R74). -/
def refreshPort (p : Nat) (s : State) : State :=
  let x := s.port p
  if x.state.whole || x.linkDown then s
  else
    let st := s.leastState p
    if st == x.state then s else portEnter p st s

/-- Frames begin on a lane that sends none: at slot 0, or, so that every slot number falls on all lanes of the port
together, where another lane of the port stands (R66): one on the same side of the lane whose turn is next, or else any,
and the turn goes back to lane index 0, as the others have all sent their cells of the slot position or none of them.
DESIGN CHOICE: log entry 204. -/
def startFrames (l : Nat) (s : State) : State :=
  if s.framed l then s
  else
    let p := s.portOfLane l
    let turn := p + (s.outPort p).nextLane
    let framed := (s.portLanes p).filter s.framed
    match framed.find? (fun k => decide (k < turn) == decide (l < turn)) with
    | some k =>
      let y := s.lane k
      s.modLane l (fun x => { x with txSlot := y.txSlot, scr := y.scr, txBits := y.txBits })
    | none =>
      let y := framed.head?.map s.lane
      (s.modLane l (fun x =>
        { x with txSlot := (y.map Lane.txSlot).getD 0, scr := (y.map Lane.scr).getD scrOnes
                 txBits := (y.map Lane.txBits).getD [] })).modOutPort p (fun o => { o with nextLane := 0 })

/-- Every lane of a port starts again in DETECT. -/
def restartLanes (p : Nat) (s : State) : State :=
  s.forEach (s.portLanes p) (fun s l =>
    (laneEnter l .detect s).modLane l (fun x =>
      { x with locked := false, markerAt := none, missed := 0, rxCells := [], eqDone := false, coeffReq := 0
               coeffStatus := 0, ts2 := none, lostAt := none }))

/-- A failed attempt (R74, R77): DETECT, or HOLDOFF at every third in a row. -/
def failAttempt (p : Nat) (reason : Reason) (s : State) : State :=
  let n := (s.port p).attempts + 1
  let s := s.modPort p (fun x => { x with attempts := n, reason := reason })
  portEnter p (if n % 3 = 0 then .holdoff else .detect) (restartLanes p s)

/-- All credit counts restart at zero, and with them the retry numbers, when the port enters CONFIG
(R83, DEDUCED, log entry 31). -/
def startCredits (p : Nat) (s : State) : State :=
  s.modPort p (fun x =>
    { x with pairs := [], txSeq := 0, expected := 0, replay := [], resend := [], rxError := false
             actedNak := none, resendRun := none, nextReport := 0, ackAt := s.now })

/-! ## Leaving ACTIVE (R77, R92) -/

/-- Forget an ingress packet that was received in part: its staged cells and the credits that wait on it. -/
def dropPartial (p pair id : Nat) (s : State) : State :=
  let f := tileOf p
  let list := (tget [] s.fabric.staged f).filter (fun c => c.pkt != id)
  let s := { s with fabric := { s.fabric with staged := tset [] s.fabric.staged f list } }
  restage p (nameHeld id p pair [] (s.modInPkt id (fun _ => none)))

/-- Discard the replay buffer and every packet sent or received in part, counted in lost_packets (R92). -/
def discardLink (p : Nat) (s : State) : State :=
  let sending := (s.outPort p).prog
  let s := s.forEach sending (fun s g => fenceStep p (freeBuffer (tileOf p) s g.pkt.buf) g.pkt)
  let s := fqsEmptied p (s.modOutPort p (fun o => { o with prog := [] }))
  let s := s.forEach (s.portLanes p) (fun s l => s.modLane l (fun x => { x with rxCells := [] }))
  let parts := (s.port p).pairs.filterMap (fun e => e.2.rxPkt.map (fun id => (e.1, id)))
  let s := s.forEach parts (fun s e => dropPartial p e.1 e.2 s)
  s.modPort p (fun x =>
    { x with replay := [], resend := [], resendRun := none
             pairs := tmap {} (fun _ c => { c with rxPkt := none }) x.pairs
             cLost := satAdd x.cLost (sending.length + parts.length) })

/-- The port leaves ACTIVE, QUARANTINE or QUIESCED for a reason (R77, R92, 10 R316). -/
def linkLost (p : Nat) (reason : Reason) (s : State) : State :=
  let s := s.modPort p (fun x => { x with reason := reason, cRetrains := satInc x.cRetrains, timeOk := false, timeAdvert := none })
  let s := { s with recov := { s.recov with
    outSince := tmod none s.recov.outSince p (fun a => some (a.getD s.now)) } }
  fenceDrop p (fun _ => true) (discardLink p s)

/-- Leave for retraining: LINK_DOWN for one frame, then DETECT (R77). LN_PORT_STATUS shows DETECT while LINK_DOWN is
sent. DESIGN CHOICE: log entry 205. -/
def retrain (p : Nat) (reason : Reason) (s : State) : State :=
  if !(s.port p).state.up then s
  else
    let s := linkLost p reason s
    portEnter p .detect (s.modPort p (fun x => { x with linkDown := true, linkDownSlots := 0 }))

/-- The port lies on an isolated tile or lane die, which holds it DOWN or OFF (13 R406). -/
def State.portIsolated (s : State) (p : Nat) : Bool :=
  s.dieOut (dieTile (tileOf p)) || s.dieOut (dieLane (laneDieOf p))

/-- A lane goes to OFF; it stays enabled until Float grants its fall (R74, 02 R39). -/
def laneOff (l : Nat) (s : State) : State :=
  (laneEnter l .off (askLane l false s)).modLane l (fun x => { x with locked := false, markerAt := none, rxCells := [] })

/-- PORT_ENABLE: an enabled port leaves OFF for DETECT, each lane enabled through Float (R74, 02 R39).
Lanes begin training at phase CONFIG (02 R56), and not on a failed module (01 R16) or without a valid
reference (01 R25), which the port's reason shows (R99). -/
def portEnable (p : Nat) (s : State) : State :=
  let d := s.laneDie (laneDieOf p)
  let due := s.portEnabled p && (s.port p).state == .off && !s.portIsolated p &&
    (s.boot.row == .configOk || s.boot.row == .memoryOk || s.boot.row == .readyOk) && s.dieUp (dieLane (laneDieOf p))
  if !due then s
  else if (s.die (dieLane (laneDieOf p))).clockBad.contains clkRef then
    s.modPort p (fun x => { x with reason := .noRefclk })
  else if (s.portLanes p).any (fun l => d.failed.getLsbD (l % 16 / 4)) then
    s.modPort p (fun x => { x with reason := .moduleFail })
  else
    portEnter p .detect (restartLanes p (s.forEach (s.portLanes p) (fun s l => askLane l true s)))

/-! ## Port-group reset (R77, R96, 02 R52) -/

/-- Keep the entries of a table whose index is not in a range. -/
def tdrop {α : Type} (lo n : Nat) (t : Tab α) : Tab α :=
  t.filter (fun e => decide (e.1 < lo ∨ lo + n ≤ e.1))

/-- Discard every packet queued or being sent for a port. -/
def emptyPort (s : State) (p : Nat) : State :=
  let o := s.outPort p
  let s := s.forEach o.queue (fun s q => freeBuffer (tileOf p) s q.buf)
  s.modOutPort p (fun _ => {})

/-- Every register, counter and queue that the tile holds for ports lo to lo + n - 1 of its range takes its
reset value (02 R52, 04 R135, 05 R167, 06 R187, 11 R349). -/
def clearPortEntries (lo n : Nat) (s : State) : State :=
  let t := tileOf lo
  let qs := (s.fqCfg.map Prod.fst).filter (fun q =>
    decide (q / 4096 = t) && decide (lo ≤ s.fqPort q ∧ s.fqPort q < lo + n))
  let s := s.forEach ((List.range n).map (fun i => lo + i)) emptyPort
  let s := { s with
    sched := tdrop lo n s.sched
    calSh := tdrop (lo * 4096) (n * 4096) s.calSh
    pktCnt := tdrop lo n s.pktCnt
    portCnt := tdrop lo n s.portCnt
    fqCfg := qs.foldl (fun t q => tset {} t q {}) s.fqCfg
    fqRun := qs.foldl (fun t q => tset {} t q {}) s.fqRun }
  s.modTile t (fun x =>
    { x with hwmPort := tdrop (lo % 32) n x.hwmPort, hwmQ := tdrop (lo % 32 * 8) (n * 8) x.hwmQ
             hwmOld := tdrop (512 + lo % 32 * 8) (n * 8) (tdrop (256 + lo % 32) n x.hwmOld) })

/-- The lanes and ports of lane die n take their reset values; the wiring entries and the initial credits stay
where keep is set (03 R97, R100). -/
def clearLaneDie (n : Nat) (keep : Bool) (s : State) : State :=
  let ports := ((List.range 16).map (fun i => 16 * n + i)).filter s.startsPort
  let s := s.forEach ports (fun s p => if (s.port p).state.up then linkLost p .portReset s else discardLink p s)
  let s := s.forEach ((List.range 16).map (fun i => 16 * n + i)) (fun s l => laneOff l s)
  s.forEach ((List.range 16).map (fun i => 16 * n + i)) (fun s k =>
    (s.modLane k (fun l => { enabled := l.enabled })).modPort k (fun p =>
      if keep then { wireSerial := p.wireSerial, wirePort := p.wirePort, wireMode := p.wireMode, initCredits := p.initCredits
                     featBefore := p.featBefore }
      else { initCredits := p.initCredits, featBefore := p.featBefore }))

/-- The ports of lane die n have left ACTIVE, and a port-group reset of it does the rest: its lanes and ports take their
reset values, its pending map takes force (R96), and the ports that were up at its start and that the map has enabled
return to DETECT, with the reason for which they left (R77). DEDUCED: log entry 158. DEDUCED: log entry 265. -/
def groupResetEnd (n : Nat) (was : List Nat) (s : State) : State :=
  let s := clearPortEntries (16 * n) 16 (clearLaneDie n true s)
  let s := s.modLaneDie n (fun d => { d with startMap := d.pendStart, enable := d.pendEnable, resetPorts := none })
  -- every port is in OFF, and its hold timer runs (04 R122)
  let s := s.forEach ((List.range 16).map (fun i => 16 * n + i)) (fun s p => holdTimer p s)
  s.forEach (was.filter s.portEnabled) (fun s p =>
    let s := portEnable p s
    s.modPort p (fun x => if x.state == .detect then { x with reason := .portReset } else x))

/-- A port-group reset of lane die n waits while one of its ports sends LINK_DOWN. -/
def groupResetStep (n : Nat) (s : State) : State :=
  match (s.laneDie n).resetPorts with
  | some was =>
    if ((List.range 16).map (fun i => 16 * n + i)).any (fun p => (s.port p).linkDown) then s else groupResetEnd n was s
  | none => s

/-- A port-group reset of lane die n: its ports that are up send LINK_DOWN for one frame first (R77, R96). -/
def portGroupReset (n : Nat) (s : State) : State :=
  let up := ((List.range 16).map (fun i => 16 * n + i)).filter (fun p => s.startsPort p && (s.port p).state.up)
  let s := s.forEach up (fun s p => retrain p .portReset s)
  groupResetStep n (s.modLaneDie n (fun d => { d with resetPorts := some up }))

/-- LINK_DOWN has been sent for one frame: the lanes return to DETECT (R77). -/
def endLinkDown (p : Nat) (s : State) : State :=
  groupResetStep (laneDieOf p)
    (portEnter p .detect (restartLanes p (s.modPort p (fun x => { x with linkDown := false, linkDownSlots := 0 }))))

/-- A port reset (02 R52): the port retrains; DOWN and the training states start again. DEDUCED: log entry 51. -/
def portReset (p : Nat) (s : State) : State :=
  let x := s.port p
  if s.portIsolated p then s
  else if x.state.up then retrain p .portReset s
  else if x.state == .off || x.linkDown then s
  else portEnter p .detect (restartLanes p (discardLink p (s.modPort p (fun x => { x with reason := .portReset }))))

/-- A port is put into DOWN (R79, R81, 13 R406): it sends LINK_DOWN with the reason. DEDUCED: log entry 50. -/
def portDown (p : Nat) (reason : Reason) (s : State) : State :=
  let s := s.forEach (s.portLanes p) (fun s l => startFrames l s)
  let s := if (s.port p).state.up then linkLost p reason s else discardLink p s
  groupResetStep (laneDieOf p) (portEnter p .down (s.modPort p (fun x => { x with reason := reason, linkDown := false })))

/-- The lanes of a port go to OFF (R77, 01 R16), at once and without LINK_DOWN (DEDUCED, log entry 206). A port in OFF
already shows why it does not reach ACTIVE (R98, R99). -/
def portOff (p : Nat) (reason : Reason) (s : State) : State :=
  if (s.port p).state == .off then s.modPort p (fun x => { x with reason := reason })
  else
  let s := if (s.port p).state.up then linkLost p reason s else discardLink p s
  let s := s.forEach (s.portLanes p) (fun s l =>
    laneOff l s)
  groupResetStep (laneDieOf p) (portEnter p .off (s.modPort p (fun x => { x with reason := reason, linkDown := false })))

/-! ## Enabling, DETECT and COARSE (R74) -/

/-- SIGNAL_DETECT on a lane: 100 mV or more for 1 ms (R74). -/
def signalDetect (l : Nat) (s : State) : State :=
  let p := s.portOfLane l
  if s.laneMode l == .detect && (s.lane l).enabled && !(s.port p).linkDown then
    refreshPort p (laneEnter l .coarse s)
  else s

/-- NO_SIGNAL_TIMEOUT: a lane of the port has been in DETECT for 100 ms (R74). -/
def noSignal (p : Nat) (s : State) : State :=
  let x := s.port p
  if x.state == .detect && !x.linkDown &&
      (s.portLanes p).any (fun l => (s.lane l).state == .detect && s.past (s.lane l).since 100000000) then
    s.modPort p (fun x => { x with reason := .noSignal })
  else s

/-- COARSE_CONVERGED on a lane (R74). -/
def coarseConverged (l : Nat) (s : State) : State :=
  if s.laneMode l == .coarse then
    refreshPort (s.portOfLane l) ((laneEnter l .align (startFrames l s)).modLane l (fun x =>
      { x with locked := false, markerAt := none, missed := 0 }))
  else s

/-! ## Credits and acknowledgements (R84 to R91) -/

/-- The pair's reception and credit state. -/
def Port.pair (x : Port) (k : Nat) : PairLink := tget ({} : PairLink) x.pairs k
def Port.modPair (x : Port) (k : Nat) (f : PairLink → PairLink) : Port :=
  { x with pairs := tmod {} x.pairs k f }

/-- An update would set the credits returned on pair k to r: CREDIT_ERR where that exceeds sent (R86). -/
def setReturned (p k r : Nat) (s : State) : State :=
  if !(s.port p).state.up then s
  else if r > ((s.port p).pair k).sentCells then retrain p .creditErr s
  else s.modPort p (fun x => x.modPair k (fun c => { c with returned := r }))

/-- A header report of 8 bits, and a snapshot of 16 (R85). -/
def headerReport (p k low8 : Nat) (s : State) : State :=
  let r := ((s.port p).pair k).returned
  setReturned p k (r + (low8 + 256 - r % 256) % 256) s
def snapshotReport (p k v : Nat) (s : State) : State :=
  let r := ((s.port p).pair k).returned
  setReturned p k (r + (v + 65536 - r % 65536) % 65536) s

/-- The freed count F that a report of the pair may show: at most 255 past the last header report (R85). -/
def PairLink.shown (c : PairLink) : Nat := min c.freed (c.reported + 255)

/-- Cells before and including the one with this number; the others. -/
def ackSplit (q : BitVec 12) (l : List SentCell) : Option (List SentCell) :=
  match l.findIdx? (fun c => c.seq == q) with
  | some i => some (l.drop (i + 1))
  | none => none

/-- An acknowledgement (R89): every cell up to ack_seq is freed; one outside the range is ignored. -/
def ackCells (p : Nat) (q : BitVec 12) (s : State) : State :=
  match ackSplit q (s.port p).replay with
  | some rest =>
    s.modPort p (fun x => { x with replay := rest, ackAt := s.now, resendRun := none
                                   resend := x.resend.filter (fun c => rest.any (fun d => d.seq == c.seq)) })
  | none => s

/-- Resend every unacknowledged cell (R91); eight in a row from the same seq without an advance end in
retraining. DEDUCED: log entry 36. -/
def startResend (p : Nat) (byTimeout : Bool) (s : State) : State :=
  let x := s.port p
  match x.replay with
  | [] => s
  | c :: _ =>
    let n := match x.resendRun with
      | some (q, n) => if q == c.seq then n else 0
      | none => 0
    if n ≥ 8 then retrain p .retryExhausted s
    else
      let s := s.modPort p (fun x =>
        if byTimeout then { x with cTimeouts := satInc x.cTimeouts, ackAt := s.now }
        else { x with cResends := satInc x.cResends })
      s.modPort p (fun x => { x with resend := x.replay, resendRun := some (c.seq, n + 1) })

/-- The port sends data cells: not while it is QUIESCED or the Driant is in the safe state, where its retry state
stands still (R73). -/
def State.sendsData (s : State) (p : Nat) : Bool :=
  ((s.port p).state == .active || (s.port p).state == .quarantine) && !s.halted

/-- A nak with an identifier not acted on (R91); one that comes while the port sends no data cells is acted on when it
does again. -/
def nakReceived (p : Nat) (id : BitVec 4) (s : State) : State :=
  if !s.sendsData p || (s.port p).actedNak == some id then s
  else startResend p false (s.modPort p (fun x => { x with actedNak := some id }))

/-- RETRY_TIMEOUT: no acknowledgement advances for 10 µs while cells are unacknowledged (R91). -/
def retryTimeout (p : Nat) (s : State) : State :=
  let x := s.port p
  if s.sendsData p && !x.replay.isEmpty && s.past x.ackAt 10000 then startResend p true s else s

/-- os_crc verifies (R70). -/
def osCrcOk (b : List Byte) : Bool := (crc32c (sliceOf b 0 260)).toNat == fieldOf b 260 4

/-- Count a control slot that is ignored (R70, R71). -/
def osIgnored (l : Nat) (s : State) : State := s.modLane l (fun x => { x with osCrc := satInc x.osCrc })

/-- The header fields of a control slot, which count on lane index 0 while ack_valid is 1 (R70).
DEDUCED: log entry 33. -/
def controlHeader (l : Nat) (b : List Byte) (s : State) : State :=
  let p := s.portOfLane l
  let b1 := (byteAt b 1).toNat
  if !(s.isIndex0 l && (s.port p).state.up && bitOf b1 5) then s
  else
    let s := ackCells p (BitVec.ofNat 12 (fieldOf b 2 2)) s
    let s := if bitOf b1 4 then nakReceived p (BitVec.ofNat 4 b1) s else s
    s.forEach (List.range 16) (fun s k => snapshotReport p k (fieldOf b (4 + 2 * k) 2) s)

/-- Count the codewords of a slot (R101). -/
def fecCount (l corr unc : Nat) (s : State) : State :=
  s.modLane l (fun x => { x with fecCorrected := satAdd x.fecCorrected corr
                                 fecUncorrectable := satAdd x.fecUncorrectable unc })

/-! ## Frames (R72) -/

/-- The marker of a FRAME body. -/
def frameMarker : List Byte :=
  [0x3C, 0x5A, 0xC3, 0xA5, 0x0F, 0x96, 0xF0, 0x69, 0x33, 0xCC, 0x55, 0xAA, 0x1E, 0xE1, 0x87, 0x78]

/-- Raw bits of a frame (R63). -/
def frameBits : Nat := 2872320

/-- A lane has lost lock (R72, R77, R81); what comes behind it is not consecutive with what came before (R74). -/
def lockLost (l : Nat) (s : State) : State :=
  let p := s.portOfLane l
  let s := s.modLane l (fun x =>
    { x with locked := false, markerAt := none, missed := 0, lostAt := some s.now, goodTs := 0, partnerDone := 0 })
  retrain p .lockLost s

/-- Keep the newest frame and the four before it: none is more than four frames old (R94). DEDUCED: log entry 207. -/
def keep4 {α : Type} (a : α) (l : List α) : List α := (a :: l).take 5

/-- The next slot of the partner's frame on a lane, after a cell; after a control slot, whose place it shows; and
after a FRAME (R63). -/
def rxCell (l : Nat) (s : State) : State := s.modLane l (fun x => { x with rxSlot := nextSlot x.rxSlot })
def rxControl (l : Nat) (s : State) : State :=
  s.modLane l (fun x =>
    let q := (x.rxSlot + 27) / 28 * 28
    { x with rxSlot := if q < frameSlots then q + 1 else 1 })
def rxFrameSlot (l : Nat) (s : State) : State := s.modLane l (fun x => { x with rxSlot := 1 })

/-- The control slot is one that R70 or R71 has ignored: its os_crc fails, or its os_type is reserved. -/
def osBad (b : List Byte) : Bool :=
  let ty := (byteAt b 0).toNat
  !osCrcOk b || ty = 0 || ty > 7

/-- FRAME_RECEIVED on a lane: the marker was looked for at raw bit pos, with the legs swapped where
inverted; frac is the part of a ns of its arrival, in 1/65,536 ns (R72). -/
def frameReceived (l pos frac : Nat) (inverted : Bool) (slot : List Byte) (corr unc : Nat) (s : State) : State :=
  let p := s.portOfLane l
  if !s.framed l then s
  else
    let s := fecCount l corr unc s
    let x := s.lane l
    let found := sliceOf slot 36 16 == frameMarker
    let again := x.markerAt.map (fun q => decide (q + frameBits = pos)) == some true
    if !found || (x.locked && !again) then
      if x.locked then
        let s := rxFrameSlot l (if osBad slot then osIgnored l s else s)
        if x.missed + 1 ≥ 3 then lockLost l s
        else s.modLane l (fun x => { x with missed := x.missed + 1, markerAt := x.markerAt.map (fun q => q + frameBits) })
      else s
    else
      let s := (rxFrameSlot l s).modLane l (fun x =>
        { x with markerAt := some pos, missed := 0, locked := x.locked || again, inverted := inverted,
                 lostAt := if again then x.lostAt.filter (fun a => s.past a 1000000) else x.lostAt })
      if !osCrcOk slot || byteAt slot 0 != 1 then osIgnored l s
      else
        let n := fieldOf slot 52 4
        let (ns, fr) := s.stamp l frac
        let s := s.modLane l (fun x => { x with rxFrame := some (n, ns, fr), rxTimes := keep4 (n, ns, fr) x.rxTimes })
        let s := controlHeader l slot s
        if s.isIndex0 l && (s.port p).state.up then frameTime p l slot s else s

/-! ## TS1 (R75) -/

/-- Two bits of a coefficient byte. -/
def coeffBits (b : Byte) (i : Nat) : Nat := bitsOf b.toNat (2 * i) 2

/-- Apply a step of one tap inside its range: the tap and the status, 1 updated or 2 at limit (R75). -/
def tapStep (v lo hi : Int) (r : Nat) : Int × Nat :=
  if r = 1 then (if v + 1 ≤ hi then (v + 1, 1) else (v, 2))
  else if r = 2 then (if lo ≤ v - 1 then (v - 1, 1) else (v, 2))
  else (v, 0)

/-- Apply a coefficient request within the ranges of R59, in units of 1/64: c-2 0 to 6, c-1 -19 to 0,
c+1 -9 to 0. 0b11 on any tap returns every tap to the preset. c0 is 1 less the sum of the others, so that a step of it
alone would leave R59 and reports "at limit" (DEDUCED, log entry 208). -/
def applyCoeff (req : Byte) (x : Lane) : Lane :=
  if (List.range 4).any (fun i => coeffBits req i == 3) then
    { x with cm2 := 0, cm1 := -8, cp1 := 0, coeffStatus := 0x55 }
  else
    let a := tapStep x.cm2 0 6 (coeffBits req 0)
    let b := tapStep x.cm1 (-19) 0 (coeffBits req 1)
    let c := tapStep x.cp1 (-9) 0 (coeffBits req 3)
    let c0 := if coeffBits req 2 = 0 then 0 else 2
    { x with cm2 := a.1, cm1 := b.1, cp1 := c.1, coeffStatus := BitVec.ofNat 8 (a.2 + 4 * b.2 + 16 * c0 + 64 * c.2) }

/-- EQUALIZE is done on a lane: both sides sent eq_done in 8 consecutive TS1 (R74). -/
def equalizeDone (l : Nat) (s : State) : State :=
  let x := s.lane l
  let p := s.portOfLane l
  if s.laneMode l == .equalize && decide (8 ≤ x.partnerDone) && decide (8 ≤ x.ownDone) then
    let first := (s.portLanes p).all (fun k => (s.lane k).state != .config)
    let s := if first then startCredits p s else s
    refreshPort p ((laneEnter l .config s).modLane l (fun x => { x with ts2 := none }))
  else s

/-- TS1_RECEIVED on a lane: sat says that its receiver is satisfied, want is the request it sends next
(R74, R75). Every TS1 that carries a request steps the taps, whether or not the TS1 before it carried the same one
(DESIGN CHOICE: log entry 266). DEDUCED: log entry 37. -/
def ts1Received (l : Nat) (slot : List Byte) (sat : Bool) (want : Byte) (corr unc : Nat) (s : State) : State :=
  let st := s.laneMode l
  let s := rxControl l (fecCount l corr unc s)
  if !(st == .align || st == .equalize) || !(s.lane l).locked then s
  else if !osCrcOk slot || byteAt slot 0 != 3 then
    (osIgnored l s).modLane l (fun x => { x with goodTs := 0, partnerDone := 0 })
  else
    let s := s.modLane l (applyCoeff (byteAt slot 38))
    if st == .align then
      let s := s.modLane l (fun x => { x with goodTs := x.goodTs + 1 })
      if (s.lane l).goodTs ≥ 8 then refreshPort (s.portOfLane l) (laneEnter l .equalize s) else s
    else
      let s := s.modLane l (fun x =>
        { x with eqDone := x.eqDone || sat, coeffReq := if x.eqDone || sat then 0 else want
                 partnerDone := if (byteAt slot 41).getLsbD 0 then x.partnerDone + 1 else 0 })
      equalizeDone l s

/-! ## TS2 and CONFIG (R76, R83, R66) -/

/-- A frame period in 1/65,536 ns (R63). -/
def framePeriod : Int := 2872320 * 8 * 65536 / 3625

/-- The lanes' latest markers lie within 32 ns of each other, whole frames apart (R66). DEDUCED: log entry 35. -/
def State.skewOk (s : State) (p : Nat) : Bool :=
  let times := (s.portLanes p).filterMap (fun l => (s.lane l).rxFrame.map (fun r => fracTime r.2.1 r.2.2))
  times.all (fun a => times.all (fun b =>
    let d := (a - b) % framePeriod
    decide (d ≤ 32 * 65536) || decide (framePeriod - d ≤ 32 * 65536)))

/-- What R76 asks of the TS2 of all lanes. -/
def State.laneMapOk (s : State) (p : Nat) : Bool :=
  let w := s.portWidth p
  let ts := (s.portLanes p).filterMap (fun l => (s.lane l).ts2)
  decide (ts.length = w) &&
  ts.all (fun a => a.2.2.1 == w && ts.all (fun b => a.1 == b.1 && a.2.1 == b.2.1)) &&
  (List.range w).all (fun i => decide ((ts.filter (fun a => a.2.2.2 == i)).length = 1)) && s.skewOk p

/-- The port passes CONFIG, or fails with LANE_MAP, once 8 good TS2 have come on each lane (R74, R76). -/
def configDone (p : Nat) (s : State) : State :=
  if (s.port p).state == .config && (s.portLanes p).all (fun l => decide (8 ≤ (s.lane l).goodTs)) then
    if s.laneMapOk p then portEnter p .identify s else failAttempt p .laneMap s
  else s

/-- TS2_RECEIVED on a lane (R76, R83). -/
def ts2Received (l : Nat) (slot : List Byte) (corr unc : Nat) (s : State) : State :=
  let p := s.portOfLane l
  let s := rxControl l (fecCount l corr unc s)
  if s.laneMode l != .config || (s.port p).linkDown then s
  else if !osCrcOk slot || byteAt slot 0 != 4 then
    (osIgnored l s).modLane l (fun x => { x with goodTs := 0 })
  else
    let v := (fieldOf slot 36 8, fieldOf slot 44 2, (byteAt slot 46).toNat, (byteAt slot 47).toNat)
    let s := s.modLane l (fun x => { x with goodTs := if x.ts2 = some v ∨ x.ts2 = none then x.goodTs + 1 else 1
                                            ts2 := some v })
    let s := if v.2.2.2 = 0 then
        s.forEach (List.range 16) (fun s k => s.modPort p (fun x =>
          x.modPair k (fun c => { c with granted := fieldOf slot (48 + 2 * k) 2 })))
      else s
    configDone p s

/-! ## IDENT and the wiring map (R78 to R81) -/

/-- The comparison of R79: the state it gives; an entry with the reserved mode 0b11, which only the start-up image can
load, acts as OPEN (DESIGN CHOICE, log entry 210). It gives, and whether WIRING_MISMATCH is posted. -/
def State.wiring (s : State) (p : Nat) : LinkState × Bool :=
  let x := s.port p
  if x.wireMode == 2 then (.down, false)
  else if x.wireMode == 1 && !(fieldOf x.partner 0 8 == x.wireSerial.toNat && fieldOf x.partner 8 2 == x.wirePort.toNat) then
    (.quarantine, true)
  else (.active, false)

/-- The port reaches ACTIVE: the count of attempts clears and credits owed by QUARANTINE return (R77,
R80). -/
def reachActive (p : Nat) (s : State) : State :=
  let s := s.modPort p (fun x =>
    { x with attempts := 0, pairs := tmap {} (fun _ c => { c with freed := c.freed + c.owed, owed := 0 }) x.pairs })
  portEnter p .active { s with recov := { s.recov with outSince := tset none s.recov.outSince p none } }

/-- Run the comparison of R79 and go where it says; a port already there stays. -/
def runWiring (p : Nat) (s : State) : State :=
  let (st, mismatch) := s.wiring p
  let old := (s.port p).state
  let s := if mismatch then
      s.event 0x61 (36 + laneDieOf p) p (fieldOf (s.port p).partner 0 8) (fieldOf (s.port p).partner 8 2)
    else s
  if st == old then s
  else match st with
    | .active => reachActive p s
    | .down => portDown p .disabled s
    | _ =>
      let s := if old == .active then
          { s with recov := { s.recov with outSince := tmod none s.recov.outSince p (fun a => some (a.getD s.now)) } }
        else s
      fenceDrop p (fun _ => true) (portEnter p .quarantine s)

/-- IDENT_RECEIVED on a port, the part before the groups are looked at: LN_PARTNER, the version and the
negotiated features (R78, R81, R82); false where the port went no further. -/
def identTaken (p : Nat) (slot : List Byte) (corr unc : Nat) (s : State) : Bool × State :=
  let l := s.index0Of p
  let s := rxControl l (fecCount l corr unc s)
  if (s.port p).state != .identify then (false, s)
  else if !osCrcOk slot || byteAt slot 0 != 5 then (false, osIgnored l s)
  else
    let s := s.modPort p (fun x => { x with partner := sliceOf slot 36 36 })
    let major := (byteAt slot 64).toNat
    let minor := (byteAt slot 65).toNat
    if major ≠ 3 then
      (false, portDown p .versionRefused
        (s.event 0x60 (36 + laneDieOf p) p (256 * major + minor) 0))
    else
      let m := min 2 minor
      let feats := if m = 2 then fieldOf slot 66 2 % 4 else 0
      (true, s.modPort p (fun x => { x with flpMinor := BitVec.ofNat 4 m, features := BitVec.ofNat 2 feats }))

/-- PARTNER_RESTART: a port held DOWN for VERSION_REFUSED has seen the partner lose frame lock for 1 ms and
send TS1 again, and trains once more (R81). -/
def partnerRestart (p : Nat) (s : State) : State :=
  let x := s.port p
  let lost := (s.portLanes p).any (fun l => match (s.lane l).lostAt with
    | some a => s.past a 1000000
    | none => false)
  if x.state == .down && x.reason == .versionRefused && lost then portEnter p .detect (restartLanes p s) else s

/-- TRAINING_TIMEOUT of a port: a lane in COARSE for 50 ms, ALIGN for 5 ms, EQUALIZE for 200 ms or CONFIG for
10 ms, or the port in IDENTIFY for 10 ms (R74). A CONFIG that does not meet R76 fails with LANE_MAP. -/
def trainingTimeout (p : Nat) (s : State) : State :=
  let x := s.port p
  let laneOut (l : Nat) : Bool :=
    let y := s.lane l
    match y.state with
    | .coarse => s.past y.since 50000000
    | .align => s.past y.since 5000000
    | .equalize => s.past y.since 200000000
    | .config => s.past y.since 10000000
    | _ => false
  if x.linkDown then s
  else if x.state == .identify then
    if s.past x.since 10000000 then failAttempt p .trainTimeout s else s
  else if x.state.whole && x.state != .config then s
  else if (s.portLanes p).any laneOut then
    failAttempt p (if x.state == .config && !s.laneMapOk p then .laneMap else .trainTimeout) s
  else s

/-- HOLDOFF_EXPIRY (R74). -/
def holdoffExpiry (p : Nat) (s : State) : State :=
  let x := s.port p
  if x.state == .holdoff && s.past x.since 1000000000 then portEnter p .detect (restartLanes p s) else s

/-! ## QUIESCE and LINK_DOWN (R73) -/

/-- QUIESCE_RECEIVED on lane index 0 of a port. -/
def quiesceReceived (p : Nat) (s : State) : State :=
  let x := s.port p
  if x.state == .active || x.state == .quarantine then
    let s := s.modPort p (fun x => { x with quiescedFrom := x.state, wireChanged := false })
    let s := if x.state == .active then
        { s with recov := { s.recov with outSince := tmod none s.recov.outSince p (fun a => some (a.getD s.now)) } }
      else s
    fenceDrop p (fun _ => true) (portEnter p .quiesced s)
  else s

/-- QUIESCE_END: the partner's control slots were IDLE_OS for a whole frame. -/
def quiesceEnd (p : Nat) (s : State) : State :=
  let x := s.port p
  if x.state != .quiesced then s
  else if x.wireChanged then runWiring p s
  else if x.quiescedFrom == .quarantine then portEnter p .quarantine s
  else reachActive p s

/-- LINK_DOWN_RECEIVED on any lane of an active port (R73, R77). -/
def linkDownReceived (l : Nat) (s : State) : State := retrain (s.portOfLane l) .partnerDown s

/-- CONTROL_SLOT_RECEIVED on a lane (R70, R71, R73). -/
def controlReceived (l : Nat) (b : List Byte) (corr unc : Nat) (s : State) : State :=
  let p := s.portOfLane l
  if !s.framed l then s
  else
    let s := rxControl l (fecCount l corr unc s)
    let ty := (byteAt b 0).toNat
    if osBad b then osIgnored l s
    else
      let s := controlHeader l b s
      if ty = 6 && s.isIndex0 l then quiesceReceived p s
      else if ty = 7 then linkDownReceived l s
      else s

/-! ## Cells (R67 to R69, R80, R88 to R90) -/

/-- Credits of n cells of packet id wait their turn on a pair (R87, 05 R160). -/
def holdCredit (p pair id : Nat) (known : Bool) (s : State) : State :=
  s.modPort p (fun x => x.modPair pair (fun c =>
    match c.held.getLast? with
    | some h =>
      if h.pkt == id then { c with held := c.held.dropLast ++ [{ h with cells := h.cells + 1 }] }
      else { c with held := c.held ++ [{ cells := 1, pkt := id, users := [], known := known }] }
    | none => { c with held := [{ cells := 1, pkt := id, users := [], known := known }] }))

/-- A cell_type out of order for its pair: the partial packet and the cell are discarded (R68). -/
def framingError (p pair : Nat) (s : State) : State :=
  let (id, s) := s.fresh
  let s := match ((s.port p).pair pair).rxPkt with
    | some old => dropPartial p pair old s
    | none => s
  let s := s.modPort p (fun x => { x.modPair pair (fun c => { c with rxPkt := none }) with cFraming := satInc x.cFraming })
  holdCredit p pair id true s

/-- A data cell is accepted in order: it joins the packet of its pair (R68, 04 R102). DEDUCED: log entry 41. -/
def takeCell (p ty pair : Nat) (body : List Byte) (s : State) : State :=
  let cur := ((s.port p).pair pair).rxPkt
  let whole := ty = 3 ∨ ty = 4
  if (ty = 1 ∨ ty = 4) ∧ cur.isNone then
    let (id, s) := s.fresh
    let k : InPkt := { port := p, pair := pair, bytes := body, cells := 1, whole := whole, verdict := .pending
                       streams := [], final := 0 }
    let s := s.modInPkt id (fun _ => some k)
    let s := s.modPort p (fun x => x.modPair pair (fun c => { c with rxPkt := if whole then none else some id }))
    holdCredit p pair id false s
  else match cur with
    | some id =>
      if ty = 2 ∨ ty = 3 then
        let known := (s.inPkt id).isNone
        let s := s.modInPkt id (fun k => k.map (fun k =>
          { k with bytes := k.bytes ++ body, cells := k.cells + 1, whole := whole }))
        let s := s.modPort p (fun x => x.modPair pair (fun c => { c with rxPkt := if whole then none else some id }))
        stage id (holdCredit p pair id known s)
      else framingError p pair s
    | none => framingError p pair s

/-- The receiver enters retry error state (R90). -/
def enterError (p : Nat) (s : State) : State :=
  s.modPort p (fun x => if x.rxError then x else { x with rxError := true, nakId := x.nakId + 1 })

/-- A cell of port p in its turn; failed: its cell_crc fails or it overlaps an uncorrectable codeword (R67 to
R69, R80, R85, R89, R90). In the safe state received data cells are ignored (R73), and so are those whose tile does
not run (02 R50, R51; DESIGN CHOICE: log entry 209). DEDUCED: log entry 39. -/
def cellInTurn (p : Nat) (b : List Byte) (failed : Bool) (s : State) : State :=
    let deaf := s.halted || !s.dieRuns (dieTile (tileOf p))
    if !(s.port p).state.up then s
    else if failed then (if deaf then s else enterError p s)
    else
      let b0 := (byteAt b 0).toNat
      let w := fieldOf b 1 2
      let ty := bitsOf b0 0 4
      let pair := 2 * bitsOf b0 4 3 + bitsOf b0 7 1
      let x := s.port p
      let d := (BitVec.ofNat 12 w - x.expected).toNat
      if ty = 0 || !x.state.up || deaf then s
      else if d = 0 then
        let s := s.modPort p (fun x => { x with expected := x.expected + 1, rxError := false })
        if x.state == .quarantine && decide (2 ≤ pair) then
          s.modPort p (fun x =>
            { x.modPair pair (fun c => { c with owed := c.owed + 1 }) with cQuarantine := satInc x.cQuarantine })
        else if ty > 4 then framingError p pair s
        else takeCell p ty pair (sliceOf b 8 256) (noteArrival (tileOf p) s)
      else if x.rxError || decide (2048 ≤ d) then s
      else enterError p s

/-- Slot a of the partner's frames lies 1 to 642 slots before b, cyclically. -/
def slotBefore (a b : Nat) : Bool :=
  let d := (b + frameSlots - a % frameSlots) % frameSlots
  decide (1 ≤ d ∧ d ≤ 642)

/-- The index that the partner gives the lane of port p (R76). -/
def State.partnerIndex (s : State) (p l : Nat) : Nat :=
  match (s.lane l).ts2 with
  | some (_, _, _, i) => i
  | none => l - p

/-- The lanes of a port in ascending lane index of the partner (R66). -/
def State.lanesInOrder (s : State) (p : Nat) : List Nat :=
  let ls := s.portLanes p
  (List.range 16).flatMap (fun i => ls.filter (fun l => s.partnerIndex p l == i)) ++
    ls.filter (fun l => decide (16 ≤ s.partnerIndex p l))

/-- The oldest slot position of which a lane of the port holds a cell (R66). -/
def State.rxOldest (s : State) (p : Nat) : Option Nat :=
  (s.portLanes p).foldl (fun (a : Option Nat) l =>
    match (s.lane l).rxCells.head?, a with
    | none, _ => a
    | some c, none => some c.1
    | some c, some q => if slotBefore c.1 q then some c.1 else some q) none

/-- The receiver reads a slot position that every lane of the port has passed, its cells in ascending lane index
(R66). -/
def rxRead (p q : Nat) (s : State) : State :=
  s.forEach (s.lanesInOrder p) (fun s l =>
    match (s.lane l).rxCells with
    | (k, b, failed) :: rest =>
      if k = q then cellInTurn p b failed (s.modLane l (fun x => { x with rxCells := rest })) else s
    | [] => s)

/-- Slot positions are read while every lane of the port has passed them; n bounds how many. -/
def rxDrain (p : Nat) : Nat → State → State
  | 0, s => s
  | n + 1, s => match s.rxOldest p with
    | none => s
    | some q => if (s.portLanes p).all (fun l => slotBefore q (s.lane l).rxSlot) then rxDrain p n (rxRead p q s) else s

/-- CELL_RECEIVED on a lane, in the next slot of the partner's frame there; failed: the slot overlaps an uncorrectable
codeword. Its credit report is applied as it arrives (R85). It waits for the same slot of the port's other lanes, and the
receiver then reads each slot position in ascending lane index (R66 to R69, R101). -/
def cellReceived (l : Nat) (b : List Byte) (corr unc : Nat) (failed : Bool) (s : State) : State :=
  let p := s.portOfLane l
  if !s.framed l then s
  else
    let s := fecCount l corr unc s
    let good := (crc32c (sliceOf b 0 4 ++ sliceOf b 8 256)).toNat == fieldOf b 4 4
    let s := if good then s else s.modLane l (fun x => { x with cellCrc := satInc x.cellCrc })
    let q := (s.lane l).rxSlot
    let s := rxCell l s
    let s := if good && !failed && (s.port p).state.up && s.isIndex0 l then
        headerReport p (bitsOf (fieldOf b 1 2) 12 4) (byteAt b 3).toNat s
      else s
    if !(s.port p).state.up then s
    else
      let s := s.modLane l (fun x => { x with rxCells := x.rxCells ++ [(q, b, !good || failed)] })
      rxDrain p frameSlots s

/-! ## What a lane sends (R62) -/

/-- A slot joins the bit stream of lane l: a codeword that it fills leaves as PAM4 levels (R62). What the decoder of the
other direction delivers of the codewords received, and how many it corrects or cannot, are operands of the commands
(DESIGN CHOICE: log entry 267). -/
def carry (l : Nat) (line : List Byte) (s : State) : State :=
  let bits := (s.lane l).txBits ++ bitsLsb line
  if bits.length < 5140 then s.modLane l (fun x => { x with txBits := bits })
  else (s.modLane l (fun x => { x with txBits := bits.drop 5140 })).emit (.codeword l (codewordLevels (bits.take 5140)))

/-! ## Control slots sent (R70 to R78) -/

/-- An ordered set of 264 bytes: type, header, body from offset 36 and os_crc (R70). -/
def osBytes (ty : Nat) (header body : List Byte) : List Byte :=
  let b := [BitVec.ofNat 8 ty] ++ padTo 35 header ++ padTo 224 body
  b ++ leBytes 4 (crc32c b).toNat

/-- Header bytes 1 to 35 of a control slot of port p (R70). -/
def State.osHeader (s : State) (p : Nat) : List Byte :=
  let x := s.port p
  if x.state.up then
    [BitVec.ofNat 8 (x.nakId.toNat + 16 * b2n x.rxError + 32)] ++ leBytes 2 (x.expected - 1).toNat ++
      (List.range 16).flatMap (fun k => leBytes 2 ((x.pair k).shown % 65536))
  else [BitVec.ofNat 8 (x.nakId.toNat + 16 * b2n x.rxError)] ++ zeros 34

/-- The FRAME body that a lane sends (R72, R328, R330). -/
def State.frameBody (s : State) (l : Nat) : List Byte :=
  let x := s.lane l
  let (pt, pf) := x.prevTx.getD (0, 0)
  let (en, et, ef) := x.rxFrame.getD (0, 0, 0)
  let flags := b2n x.prevTx.isSome + 2 * b2n x.rxFrame.isSome + 4 * b2n s.timeLocked + 8 * b2n (s.ftc.state == .root)
  frameMarker ++ leBytes 4 x.txFrame.toNat ++ leBytes 8 pt ++ leBytes 2 pf ++ [BitVec.ofNat 8 flags, s.ftc.hops] ++
    leBytes 4 en ++ leBytes 8 et ++ leBytes 2 ef ++ zeros 2 ++ leBytes 8 s.ftc.rootId.toNat

/-- The TS1, TS2 and IDENT bodies (R75, R78). -/
def State.ts1Body (s : State) (l : Nat) : List Byte :=
  let x := s.lane l
  [BitVec.ofNat 8 (s.laneMode l).code, 0, if x.state == .align then 0 else x.coeffReq, 0, x.coeffStatus,
   BitVec.ofNat 8 (b2n x.eqDone)]
def State.ts2Body (s : State) (p l : Nat) : List Byte :=
  leBytes 8 s.pkg.serial.toNat ++ leBytes 2 p ++ leBytes 1 (s.portWidth p) ++ leBytes 1 (l - p) ++
    (List.range 16).flatMap (fun k => leBytes 2 (tget 0 (s.port p).initCredits k))
def State.identBody (s : State) (p : Nat) : List Byte :=
  leBytes 8 s.pkg.serial.toNat ++ leBytes 2 p ++ leBytes 1 (s.portWidth p) ++ [1] ++ padTo 16 s.pkg.orderCode ++
    [3, 2] ++ leBytes 2 3 ++ leBytes 4 s.boot.fwBuild.toNat

/-- The ordered set of a control slot other than slot 0: type and body (R71, R73). In the safe state it is QUIESCE on
every lane but those of a port that trains or is held DOWN, which goes on with its own (13 R410; DEDUCED: log entry
264). -/
def State.otherSlot (s : State) (p l : Nat) : Nat × List Byte :=
  let x := s.port p
  if x.linkDown then (7, [BitVec.ofNat 8 x.reason.code])
  else if s.vent.inSafe && x.state.up then (6, [1])
  else match s.laneMode l with
    | .align | .equalize => (3, s.ts1Body l)
    | .config => (4, s.ts2Body p l)
    | .identify => if l = p then (5, s.identBody p) else (2, [])
    | .down => (7, [BitVec.ofNat 8 x.reason.code])
    | _ => (2, [])

/-- CONTROL_SLOT_SEND on a lane; frac is the part of a ns at which the first bit of a FRAME marker leaves,
in 1/65,536 ns (R71 to R73, R77, R93). It takes the next slot of the lane's frame, where that is a control slot
(R63). -/
def controlSend (l frac : Nat) (s : State) : State :=
  let p := s.portOfLane l
  let slot := (s.lane l).txSlot
  if !s.framed l || !controlSlot slot then s
  else
    let next := nextSlot slot
    if slot = 0 then
      let b := osBytes 1 (s.osHeader p) (s.frameBody l)
      let (ns, fr) := s.stamp l frac
      let (line, g) := slotLine slot (s.lane l).scr b
      let s := s.modLane l (fun x =>
        { x with txSlot := next, scr := g, txFrame := x.txFrame + 1, prevTx := some (ns, fr)
                 txTimes := keep4 (x.txFrame.toNat, ns, fr) x.txTimes })
      carry l line (s.emit (.slot l slot b line))
    else
      let (ty, body) := s.otherSlot p l
      let b := osBytes ty (s.osHeader p) body
      let (line, g) := slotLine slot (s.lane l).scr b
      let s := carry l line (s.emit (.slot l slot b line))
      let s := s.modLane l (fun x =>
        { x with txSlot := next, scr := g, ownDone := if ty = 3 ∧ x.eqDone then x.ownDone + 1 else 0 })
      if ty = 3 then equalizeDone l s
      else if ty = 7 && (s.port p).linkDown && l == p then
        let n := (s.port p).linkDownSlots + 1
        if n ≥ 45 then endLinkDown p s else s.modPort p (fun x => { x with linkDownSlots := n })
      else s

/-! ## LN_COMMIT (R100) -/

/-- A pending wiring entry write: offset 16 i + word, and value; reserved bits are not stored. -/
def wireWrite (n : Nat) (s : State) (w : Nat × W32) : State :=
  let p := 16 * n + w.1 / 16 % 16
  let v := w.2
  s.modPort p (fun x =>
    if w.1 % 16 = 0 then { x with wireSerial := BitVec.ofNat 64 (x.wireSerial.toNat / 2 ^ 32 * 2 ^ 32 + v.toNat) }
    else if w.1 % 16 = 4 then { x with wireSerial := BitVec.ofNat 64 (x.wireSerial.toNat % 2 ^ 32 + v.toNat * 2 ^ 32) }
    else if w.1 % 16 = 8 then { x with wirePort := BitVec.ofNat 16 v.toNat, wireMode := BitVec.ofNat 2 (v.toNat / 2 ^ 16) }
    else x)

/-- Commit the pending wiring entries of lane die n, and rerun the comparison of the ports whose entry
changed (R79, R100). DEDUCED: log entry 49. -/
def lnCommit (n : Nat) (s : State) : State :=
  let (pend, kept) := pendSplit s.now (s.laneDie n).pendAt (s.laneDie n).pending
  let s0 := s.modLaneDie n (fun d => { d with pending := kept })
  let s1 := s0.forEach pend (wireWrite n)
  let ports := (List.range 16).map (fun i => 16 * n + i)
  if ports.any (fun p => (s1.port p).wireMode == 3) then s0
  else
    let changed := ports.filter (fun p =>
      let a := s.port p
      let b := s1.port p
      a.wireSerial != b.wireSerial || a.wirePort != b.wirePort || a.wireMode != b.wireMode)
    s1.forEach changed (fun s p =>
      match (s.port p).state with
      | .active | .quarantine => runWiring p s
      | .quiesced => s.modPort p (fun x => { x with wireChanged := true })
      | _ => s)

/-- LN_COMMIT by master m (R100). -/
def lnCommitWrite (m n : Nat) (s : State) : State := s.ownerWrite m (lnCommit n)

/-! ## MODULE_FAILURE (01 R16) -/

/-- The plane loses a module (05 R151, R152). DEDUCED: log entry 38. DEDUCED: log entry 42. -/
def planeModuleFail (p : Nat) (s : State) : State :=
  (planeRetire p 1 s).modPlane p (fun x => { x with moduleFailed := true })

/-- Module u of lane die n is unusable: the ports that use any of its four lanes go down. -/
def laneModuleFail (n u : Nat) (s : State) : State :=
  let s := s.modLaneDie n (fun d => { d with failed := setBit d.failed u true })
  let ports := ((List.range 4).map (fun i => s.portOfLane (16 * n + 4 * u + i))).eraseDups
  s.forEach ports (fun s p => portOff p .moduleFail s)

/-- H.A or H.B is unusable: the attach fails over from the module that carries it. -/
def hostModuleFail (b : Bool) (s : State) : State :=
  let active := s.host.unitB == b
  let s := hostDown b s
  if active && !b then failoverTo 1 true s else s

/-- TD.S0 (0) or TD.S1 (1) is unusable: management continues through the other (R16, R17). -/
def mgmtModuleFail (i : Nat) (s : State) : State :=
  let s := { s with pkg := { s.pkg with mgmtFailed := setBit s.pkg.mgmtFailed i true } }
  if s.pkg.mgmtFailed == 3 then
    { s with dies := tupd {} s.dies ((List.range 104).drop 4) (fun _ d => { d with path := false }) }
  else s

/-- MODULE_FAILURE: module u of die d, in the numbering of 01 R14, stays unusable after repair. The die
raises D2D_FAIL. -/
def moduleFailure (d u : Nat) (s : State) : State :=
  let s := (s.modDie d (fun x => { x with failedModules := setBit x.failedModules u true })).raise d srcD2dFail
  match dieKind d with
  | .plane => planeModuleFail (d - 20) s
  | .caldera => planeModuleFail (u / 2) s
  | .lane => laneModuleFail (d - 36) u s
  | .td => mgmtModuleFail u s
  | .tile =>
    if u < 16 then planeModuleFail (u / 2) s
    else if u < 24 then laneModuleFail (2 * (d - 4) + (u - 16) / 4) ((u - 16) % 4) s
    else if u = 24 then hostModuleFail (d == 12) s
    else mgmtModuleFail (b2n (d == 12)) s
  | _ => hostModuleFail (u == 1) s

/-! ## The commands -/

/-- PORT_ENABLE (03 R74). -/
def execPortEnable (t p : Nat) (s : State) : Out := run (decide (p < 512)) t (portEnable p) s

/-- SIGNAL_DETECT (03 R74). -/
def execSignalDetect (t l : Nat) (s : State) : Out := run (decide (l < 512)) t (signalDetect l) s

/-- NO_SIGNAL_TIMEOUT (03 R74). -/
def execNoSignalTimeout (t p : Nat) (s : State) : Out := run (decide (p < 512)) t (noSignal p) s

/-- COARSE_CONVERGED (03 R74). -/
def execCoarseConverged (t l : Nat) (s : State) : Out := run (decide (l < 512)) t (coarseConverged l) s

/-- FRAME_RECEIVED (03 R72). -/
def execFrameReceived (t l pos frac : Nat) (inverted : Bool) (slot : List Byte) (s : State) (corr unc : Nat := 0) : Out :=
  run (decide (l < 512) && decide (frac < 65536) && decide (slot.length = 264)) t
    (frameReceived l pos frac inverted slot corr unc) s

/-- Lock is lost on a lane that has it. -/
def lockLostEvent (l : Nat) (s : State) : State := s.when (s.lane l).locked (lockLost l)

/-- LOCK_LOST (03 R77). -/
def execLockLost (t l : Nat) (s : State) : Out := run (decide (l < 512)) t (lockLostEvent l) s

/-- TS1_RECEIVED (03 R75). -/
def execTs1Received (t l : Nat) (slot : List Byte) (sat : Bool) (want : Byte) (s : State) (corr unc : Nat := 0) : Out :=
  run (decide (l < 512) && decide (slot.length = 264)) t (ts1Received l slot sat want corr unc) s

/-- TS2_RECEIVED (03 R76). -/
def execTs2Received (t l : Nat) (slot : List Byte) (s : State) (corr unc : Nat := 0) : Out :=
  run (decide (l < 512) && decide (slot.length = 264)) t (ts2Received l slot corr unc) s

/-- TRAINING_TIMEOUT (03 R74). -/
def execTrainingTimeout (t p : Nat) (s : State) : Out := run (decide (p < 512)) t (trainingTimeout p) s

/-- HOLDOFF_EXPIRY (03 R74). -/
def execHoldoffExpiry (t p : Nat) (s : State) : Out := run (decide (p < 512)) t (holdoffExpiry p) s

/-- QUIESCE_RECEIVED (03 R73). -/
def execQuiesceReceived (t p : Nat) (s : State) : Out := run (decide (p < 512)) t (quiesceReceived p) s

/-- QUIESCE_END (03 R73). -/
def execQuiesceEnd (t p : Nat) (s : State) : Out := run (decide (p < 512)) t (quiesceEnd p) s

/-- LINK_DOWN_RECEIVED (03 R77). -/
def execLinkDownReceived (t l : Nat) (s : State) : Out := run (decide (l < 512)) t (linkDownReceived l) s

/-- PARTNER_RESTART (03 R81). -/
def execPartnerRestart (t p : Nat) (s : State) : Out := run (decide (p < 512)) t (partnerRestart p) s

/-- CELL_RECEIVED (03 R89). -/
def execCellReceived (t l : Nat) (cell : List Byte) (corr : Nat) (unc : Spoiled) (s : State) : Out :=
  run (decide (l < 512) && decide (cell.length = 264) && (unc.ended == 0 || unc.overlaps)) t
    (cellReceived l cell corr unc.ended unc.overlaps) s

/-- CONTROL_SLOT_RECEIVED (03 R70). -/
def execControlSlotReceived (t l : Nat) (slot : List Byte) (corr unc : Nat) (s : State) : Out :=
  run (decide (l < 512) && decide (slot.length = 264)) t (controlReceived l slot corr unc) s

/-- CONTROL_SLOT_SEND (03 R71). -/
def execControlSlotSend (t l frac : Nat) (s : State) : Out :=
  run (decide (l < 512) && decide (frac < 65536)) t (controlSend l frac) s

/-- RETRY_TIMEOUT (03 R91). -/
def execRetryTimeout (t p : Nat) (s : State) : Out := run (decide (p < 512)) t (retryTimeout p) s

/-- LN_COMMIT (03 R100). -/
def execLnCommit (t m n : Nat) (s : State) : Out :=
  run (isMaster m && decide (n < 32)) t (accessDie m (dieLane n) (lnCommitWrite m n)) s

/-- MODULE_FAILURE (01 R16). -/
def execModuleFailure (t d u : Nat) (s : State) : Out := run (moduleExists d u) t (moduleFailure d u) s

end Sys2Proof.Machine
end

