-- ==== Sys2Proof/Machine/Sched.lean ====
section
/-! DEFINITION. The egress scheduler, shapers, calendars and Fumarole (06 R169 to R194, 04 R106, R109,
R112). -/

namespace Sys2Proof.Machine

/-! ## Lengths, lists and eligibility (R170 to R172, R179) -/

/-- The header length facts of a packet as it leaves port p. -/
def State.leaveLen (s : State) (p : Nat) (h : PktHdr) : Nat := pktLen { h with enc := (s.cfg p).enc }

/-- The counted length of a packet at port p (R179). -/
def State.counted (s : State) (p : Nat) (h : PktHdr) : Nat :=
  let l := s.leaveLen p h
  l + 8 * cellsOf l + (s.schedOf p).overhead.toNat

/-- The pair of a queued packet. -/
def QPkt.pair (q : QPkt) : Nat := 2 * q.hdr.vc.toNat + b2n q.sub

/-- Two packets of an output queue are in one list (R170, R171). -/
def sameList (a b : QPkt) : Bool :=
  a.hdr.vc == b.hdr.vc && a.sub == b.sub && a.fq == b.fq && (a.fq.isSome || a.hdr.slice == b.hdr.slice)

/-- The heads of the lists of an output queue, in the order they joined. -/
def headsFrom : List QPkt → List QPkt → List QPkt
  | _, [] => []
  | seen, q :: qs => if seen.any (sameList q) then headsFrom seen qs else q :: headsFrom (q :: seen) qs
def OutPort.heads (o : OutPort) : List QPkt := headsFrom [] o.queue

/-- The port has a credit for the pair and room in its replay buffer (R84, R88). -/
def State.pairCredit (s : State) (p pair : Nat) : Bool :=
  let c := (s.port p).pair pair
  decide (c.sentCells < c.returned + c.granted)

/-- The transmit counter of a pair may still be used (04 R109). -/
def State.ctrLeft (s : State) (p pair : Nat) : Bool :=
  let k := s.portKeys p
  !(s.cfg p).enc || decide (tget 0 (k.tx k.selTx).ctr pair < 2 ^ 56 - 1)

/-- The flow queue of a packet waits neither on the wheel nor on its fence (R171, R172, R181). -/
def State.fqReady (s : State) (q : QPkt) : Bool :=
  match q.fq with
  | some f => (s.fqr f).wheel.isNone && (s.fqr f).fence == 0
  | none => true

/-- The eligible packets of port p, each at the head of its list (R172, R80, 04 R109). -/
def State.eligibles (s : State) (p : Nat) : List QPkt :=
  let o := s.outPort p
  o.heads.filter (fun q =>
    (q.launched || s.launchDue p q.hdr) && s.fqReady q && s.available p q.hdr.vc &&
    !o.prog.any (fun g => g.pkt.pair == q.pair) && s.pairCredit p q.pair && s.ctrLeft p q.pair)

/-- The flow queue is in CALENDAR mode on port p. -/
def State.isCalendar (s : State) (p f : Nat) : Bool :=
  (s.fq f).valid && (s.fq f).calendar && f / 4096 == tileOf p && (s.fq f).port.toNat == p % 32

/-- The packet belongs to a CALENDAR flow queue. -/
def State.calPkt (s : State) (p : Nat) (q : QPkt) : Bool :=
  match q.fq with
  | some f => s.isCalendar p f
  | none => false

/-! ## Slices and sources inside a channel (R174) -/

/-- The place of a packet's source among those of its slice: sub 0, sub 1, then flow queues. -/
def QPkt.source (q : QPkt) : Nat :=
  match q.fq with
  | some f => 2 + f % 4096
  | none => b2n q.sub

/-- The next source to serve among the eligible packets of a slice, from source `at_` on cyclically; of one
flow queue's heads, the one that joined earlier. -/
def pickSource (l : List QPkt) (at_ : Nat) : Option QPkt :=
  let least (l : List QPkt) : Option QPkt := l.foldl (fun a q =>
    match a with
    | none => some q
    | some b => if q.source < b.source then some q else some b) none
  match least (l.filter (fun q => decide (at_ ≤ q.source))) with
  | some q => some q
  | none => least l

/-- The next element after `at_`, cyclically in a rising list. -/
def nextAfter (l : List Nat) (at_ : Nat) : Nat :=
  (l.find? (fun x => decide (at_ < x))).getD (l.getD 0 0)

/-- The weight of a slice on port p (04 R132). -/
def PortCfg.weight (c : PortCfg) (slice : Nat) : Nat := (tget 1 c.weights slice).toNat

/-- Slice DWRR inside channel vc (R174): the head it comes to, and the running state. -/
def sliceLoop (p vc : Nat) (l : List QPkt) : Nat → State → Option QPkt × State
  | 0, s => (none, s)
  | fuel + 1, s =>
    let o := s.outPort p
    let slices := ((List.range 256).filter (fun x => l.any (fun q => q.hdr.slice.toNat == x)))
    let cur := tget 0 o.sliceVisit vc
    let here := slices.contains cur
    let c := if here then cur else nextAfter slices cur
    let seen := here && tget 0 o.sliceVisited vc == 1
    let k := vc * 256 + c
    let s := s.modOutPort p (fun o =>
      { o with sliceVisit := tset 0 o.sliceVisit vc c, sliceVisited := tset 0 o.sliceVisited vc 1
               sliceDeficit := if seen then o.sliceDeficit
                 else tmod 0 o.sliceDeficit k (fun d => d + (s.cfg p).weight c * 1024) })
    match pickSource (l.filter (fun q => q.hdr.slice.toNat == c)) (tget 0 o.source k) with
    | none => (none, s)
    | some q =>
      if s.counted p q.hdr ≤ tget 0 (s.outPort p).sliceDeficit k then (some q, s)
      else sliceLoop p vc l fuel (s.modOutPort p (fun o =>
        { o with sliceVisit := tset 0 o.sliceVisit vc (nextAfter slices c)
                 sliceVisited := tset 0 o.sliceVisited vc 0 }))

/-- The slices of these channels without an eligible packet lose their deficit, and an inner visit at one of them is over
(R174). -/
def slicesIdle (p : Nat) (vcs : List Nat) (l : List QPkt) (s : State) : State :=
  let has (vc slice : Nat) : Bool := l.any (fun q => q.hdr.vc.toNat == vc && q.hdr.slice.toNat == slice)
  s.modOutPort p (fun o =>
    { o with sliceDeficit := o.sliceDeficit.filter (fun e => !vcs.contains (e.1 / 256) || has (e.1 / 256) (e.1 % 256))
             sliceVisited := o.sliceVisited.filter (fun e =>
               !vcs.contains e.1 || has e.1 (tget 0 o.sliceVisit e.1)) })

/-- The head that slice DWRR chooses among the eligible packets of channel vc; slices without one lose
their deficit. -/
def slicePick (p vc : Nat) (l : List QPkt) (s : State) : Option QPkt × State :=
  let l := l.filter (fun q => q.hdr.vc.toNat == vc)
  let s := slicesIdle p [vc] l s
  if l.isEmpty then (none, s) else sliceLoop p vc l (18 * l.length + 2) s

/-- A packet of channel vc starts: its slice's deficit is charged, and its source's turn has passed. -/
def chargeSlice (p : Nat) (q : QPkt) (s : State) : State :=
  let k := q.hdr.vc.toNat * 256 + q.hdr.slice.toNat
  s.modOutPort p (fun o =>
    { o with sliceDeficit := tmod 0 o.sliceDeficit k (fun d => d - s.counted p q.hdr)
             source := tset 0 o.source k (q.source + 1) })

/-- The quantum weight of a DWRR channel (R174). -/
def SchedCfg.w (c : SchedCfg) (vc : Nat) : Nat :=
  (if vc = 1 then c.w1 else if vc = 2 then c.w2 else if vc = 3 then c.w3 else if vc = 4 then c.w4
   else if vc = 5 then c.w5 else c.w6).toNat

/-- Channel DWRR (R174): the packet to start, its deficit charged. -/
def dwrrLoop (p : Nat) (l : List QPkt) : Nat → State → Option QPkt × State
  | 0, s => (none, s)
  | fuel + 1, s =>
    let o := s.outPort p
    let v := o.visit
    let next (s : State) : State :=
      s.modOutPort p (fun o => { o with visit := if v ≥ 6 then 1 else v + 1, visited := false })
    if !l.any (fun q => q.hdr.vc.toNat == v) then dwrrLoop p l fuel (next s)
    else
      let s := if o.visited then s else s.modOutPort p (fun o =>
        { o with visited := true, deficit := tmod 0 o.deficit v (fun d => d + (s.schedOf p).w v * 1024) })
      let (q, s) := slicePick p v l s
      match q with
      | none => dwrrLoop p l fuel (next s)
      | some q =>
        let n := s.counted p q.hdr
        if n ≤ tget 0 (s.outPort p).deficit v then
          (some q, chargeSlice p q (s.modOutPort p (fun o => { o with deficit := tmod 0 o.deficit v (fun d => d - n) })))
        else dwrrLoop p l fuel (next s)

/-- Channels 1 to 6 over the eligible packets outside the calendar; a channel or a slice without one loses its deficit,
and a visit there is over. -/
def dwrrPick (p : Nat) (l : List QPkt) (s : State) : Option QPkt × State :=
  let l := l.filter (fun q => decide (1 ≤ q.hdr.vc.toNat ∧ q.hdr.vc.toNat ≤ 6) && !s.calPkt p q)
  let s := s.modOutPort p (fun o =>
    { o with deficit := o.deficit.filter (fun e => l.any (fun q => q.hdr.vc.toNat == e.1))
             visited := o.visited && l.any (fun q => q.hdr.vc.toNat == o.visit) })
  let s := slicesIdle p [1, 2, 3, 4, 5, 6] l s
  if l.isEmpty then (none, s) else dwrrLoop p l 128 s

/-! ## Shapers and the wheel (R180, R181) -/

/-- Enter a flow queue on the timing wheel for time e (R181). -/
def wheelInsert (e now : Nat) : Nat × Nat × Nat :=
  if e < now + 32768 then (0, (e + 7) / 8 % 4096, e)
  else if e < now + 134217728 then (1, e / 32768 % 4096, e)
  else (2, e / 134217728 % 1024, e)

/-- The charge of a flow queue at the start of a packet of this counted length (R180, R185). -/
def fqStart (f counted : Nat) (s : State) : State :=
  let c := s.fq f
  let s := s.modFqr f (fun r => { r with txBytes := r.txBytes + BitVec.ofNat 32 counted })
  if c.calendar || c.rate == 0 then s
  else
    let r := s.fqr f
    let tok := min ((c.burst.toNat * 65536 : Nat) : Int) (r.tokens + ((c.rate.toNat * (s.now - r.last) : Nat) : Int))
    let tok := tok - ((counted * 65536 : Nat) : Int)
    let wheel := if tok < 0 then
        some (wheelInsert (s.now + ((-tok).toNat + c.rate.toNat - 1) / c.rate.toNat) s.now)
      else r.wheel
    s.modFqr f (fun r => { r with tokens := tok, last := s.now, wheel := wheel })

/-- WHEEL_SLOT_DUE at a tile: every flow queue whose slot has come due becomes eligible, or is entered
again (R181). -/
def wheelDue (t : Nat) (s : State) : State :=
  let step (r : FqRun) : FqRun :=
    match r.wheel with
    | some (0, _, e) => if (e + 7) / 8 * 8 ≤ s.now then { r with wheel := none } else r
    | some (1, _, e) => if e / 32768 * 32768 ≤ s.now then { r with wheel := some (wheelInsert e s.now) } else r
    | some (_, _, e) => if e / 134217728 * 134217728 ≤ s.now then { r with wheel := some (wheelInsert e s.now) } else r
    | none => r
  { s with fqRun := tmap {} (fun q r => if q / 4096 == t then step r else r) s.fqRun }

/-! ## The calendar (R176, R177) -/

/-- Advance the calendar of port p by one position (R176, R177). -/
def calAdvance (p : Nat) (s : State) : State :=
  let o := s.outPort p
  let s := if o.calPos = 0 then
      match o.calNext with
      | some n =>
        let named (f : Nat) : Bool := n.any (fun e => e.2 == some f)
        let s := { s with fqRun := tmap {} (fun f r =>
          if f / 4096 == tileOf p && (s.fq f).port.toNat == p % 32 && !named f then { r with entitlement := 0 } else r) s.fqRun }
        s.modOutPort p (fun o => { o with cal := n, calNext := none })
      | none => s
    else s
  let s := match tget none (s.outPort p).cal (s.outPort p).calPos with
    | some f =>
      if (s.fqPkts p f).isEmpty then s
      else s.modFqr f (fun r => { r with entitlement := min 2047 (r.entitlement + 1) })
    | none => s
  s.modOutPort p (fun o => { o with calPos := (o.calPos + 1) % 4096 })

/-- The caps gain their tokens (R175). -/
def capGain (p : Nat) (s : State) : State :=
  let c := s.schedOf p
  s.modOutPort p (fun o => { o with cap0 := min 0 (o.cap0 + c.cap0.toNat), cap7 := min 0 (o.cap7 + c.cap7.toNat) })

/-- A cap's tokens are at least 0. -/
def State.capOk (s : State) (p vc : Nat) : Bool :=
  let c := s.schedOf p
  let o := s.outPort p
  if vc = 0 then decide (0 ≤ o.cap0 + (4096 * c.burst0.toNat : Nat)) else decide (0 ≤ o.cap7 + (4096 * c.burst7.toNat : Nat))

/-! ## The choice of a cell (R173) -/

/-- What an opportunity does. -/
inductive Choice where
  | idle
  /-- continue the packet in progress on this pair -/
  | next (pair : Nat)
  /-- start a packet at a rank -/
  | start (q : QPkt) (rank : Nat)
  deriving DecidableEq, Repr

/-- The earliest-started packet in progress that has credit and satisfies f; in QUARANTINE one of channel 0 only (03
R80). -/
def State.inProgress (s : State) (p : Nat) (f : Prog → Bool) : Option Nat :=
  ((s.outPort p).prog.find? (fun g => f g && s.pairCredit p g.pkt.pair &&
    ((s.port p).state != .quarantine || g.pkt.hdr.vc == 0))).map (fun g => g.pkt.pair)

/-- Rank 1 for channel 0, rank 2 for channel 7. -/
def rankStrict (p vc rank : Nat) (l : List QPkt) (s : State) : Option Choice × State :=
  match s.inProgress p (fun g => g.rank == rank) with
  | some k => (some (.next k), s)
  | none =>
    if s.capOk p vc then
      let (q, s') := slicePick p vc l s
      match q with
      | some q => (some (.start q rank), chargeSlice p q s')
      | none => (none, s')
    else (none, s)

/-- Rank 3 (R176). -/
def State.rank3 (s : State) (p : Nat) (l : List QPkt) : Option Choice :=
  let ent (q : QPkt) : Int := match q.fq with
    | some f => (s.fqr f).entitlement
    | none => 0
  match s.inProgress p (fun g => g.rank == 3 && decide (1 ≤ ent g.pkt)) with
  | some k => some (.next k)
  | none =>
    match s.inProgress p (fun g => g.rank == 3 && (s.outPort p).queue.any (fun q =>
        s.calPkt p q && q.fq != g.pkt.fq && q.pair == g.pkt.pair && decide (1 ≤ ent q))) with
    | some k => some (.next k)
    | none =>
      let c := l.filter (fun q => s.calPkt p q && decide (1 ≤ ent q))
      let best := c.foldl (fun a q => match a with
        | none => some q
        | some b => if ent b < ent q ∨ (ent b = ent q ∧ q.source < b.source) then some q else some b) (none : Option QPkt)
      best.map (fun q => .start q 3)

/-- Rank 4: continue, or start by DWRR. A packet started at rank 3 whose flow queue has left the calendar is
continued here (DEDUCED, log entry 27). -/
def rank4 (p : Nat) (l : List QPkt) (s : State) : Option Choice × State :=
  match s.inProgress p (fun g => g.rank == 4 || (g.rank == 3 && !s.calPkt p g.pkt)) with
  | some k => (some (.next k), s)
  | none =>
    let (q, s) := dwrrPick p l s
    (q.map (fun q => .start q 4), s)

/-- Rank 5: the fallback for channels 0 and 7. -/
def rank5 (p : Nat) (l : List QPkt) (s : State) : Choice × State :=
  match s.inProgress p (fun g => g.rank == 5) with
  | some k => (.next k, s)
  | none =>
    let (q, s) := slicePick p 0 l s
    match q with
    | some q => (.start q 5, chargeSlice p q s)
    | none =>
      let (q, s) := slicePick p 7 l s
      match q with
      | some q => (.start q 5, chargeSlice p q s)
      | none => (.idle, s)

/-- The first rule that yields a cell (R173). -/
def choose (p : Nat) (s : State) : Choice × State :=
  let l := s.eligibles p
  let (c, s) := rankStrict p 0 1 l s
  match c with
  | some c => (c, s)
  | none =>
    let (c, s) := rankStrict p 7 2 l s
    match c with
    | some c => (c, s)
    | none => match s.rank3 p l with
      | some c => (c, s)
      | none =>
        let (c, s) := rank4 p l s
        match c with
        | some c => (c, s)
        | none => rank5 p l s

/-! ## Sending (R66, R67, R85, R88, 04 R107 to R112) -/

/-- Take the credit report of the next cell on the port's lane index 0 (R85); it stands still in the safe
state (03 R73). -/
def creditReport (p idx : Nat) (s : State) : (BitVec 4 × BitVec 8) × State :=
  if idx ≠ 0 then ((0, 0), s)
  else
    let x := s.port p
    let k := x.nextReport
    let f := (x.pair k).shown
    let s := if s.halted then s
      else s.modPort p (fun x => { x.modPair k (fun c => { c with reported := f }) with nextReport := (k + 1) % 16 })
    ((BitVec.ofNat 4 k, BitVec.ofNat 8 f), s)

/-- Send one cell on lane index idx of port p, in the next slot of the lane's frame, its cell_crc generated (R63,
R67, R91). -/
def emitCell (p idx : Nat) (ty : BitVec 4) (vc : BitVec 3) (sub : Bool) (seq : BitVec 12) (body : List Byte)
    (s : State) : State :=
  let (c, s) := creditReport p idx s
  let x := s.lane (p + idx)
  let b := cellBytes ty vc sub seq c.1 c.2 body
  let (line, g) := slotLine x.txSlot x.scr b
  carry (p + idx) line ((s.modLane (p + idx) (fun x =>
    { x with txSlot := nextSlot x.txSlot, scr := g })).emit (.cell (p + idx) x.txSlot b line))

/-- The number that the port's next data cell carries: that of the first cell to be sent again, if any (R67, R91). -/
def State.nextSeq (s : State) (p : Nat) : BitVec 12 := ((s.port p).resend.head?.map SentCell.seq).getD (s.port p).txSeq

/-- An IDLE cell (R67). -/
def sendIdle (p idx : Nat) (s : State) : State := emitCell p idx 0 0 false (s.nextSeq p) (zeros 256) s

/-- A packet leaves the egress: its buffer returns, its last cell counts for the fences, and the lists that
a flow queue's fence waits on have sent one (05 R157, 06 R171, 10 R314). -/
def packetLeft (p : Nat) (g : Prog) (s : State) : State :=
  let s := s.modOutPort p (fun o => { o with prog := o.prog.filter (fun x => x.pkt.pair != g.pkt.pair) })
  fenceCount p g.pkt.hdr (fenceStep p (freeBuffer (tileOf p) s g.pkt.buf) g.pkt)

/-- The rest of a packet in progress is discarded at the egress (13 R398). -/
def dropSending (p : Nat) (g : Prog) (s : State) : State :=
  let s := s.modOutPort p (fun o => { o with prog := o.prog.filter (fun x => x.pkt.pair != g.pkt.pair) })
  fqsEmptied p (fenceStep p (freeBuffer (tileOf p) s g.pkt.buf) g.pkt)

/-- The packet with the first payload byte of its next cell changed. -/
def Prog.strike (g : Prog) : Prog :=
  let from_ := 256 * g.sentCells - 64 - (if hasColl g.hdr.vc then 32 else 0)
  let payload := xorBytes g.payload (zeros from_ ++ [1])
  { g with payload := payload
           wire := wireBytes g.hdr g.pkt.coll payload g.pkt.payCrc g.pkt.crcPresent g.pkt.pair g.key }

/-- What the egress tile finds as it reads the next cell of a packet in progress: the packet, or none where the rest of it
is discarded (04 R106, 13 R392, R397, R398). DESIGN CHOICE: log entry 48. -/
def nextChecks (p : Nat) (g : Prog) (flaw : Flaw) (s : State) : Option Prog × State :=
  let d := dieTile (tileOf p)
  match flaw with
  | .corrected => (some g, s.symCorrected d)
  | .uncorrectable => (none, s.symUncorrectable d srcHodUe)
  | .payload =>
    let x := g.strike
    if x.payload != g.payload && g.hdr.cls == 2 then
      (none, (s.modPktCntOf p (fun c => { c with gcrcFail := satInc c.gcrcFail })).raise d srcGcrcEgr)
    else (some x, s)
  | _ => (some g, s)

/-- Send the next cell of the packet in progress on a pair. flaw: what its read meets; the rest of a packet that fails is
discarded, and an IDLE leaves. A flow queue that is empty then has entitlement 0, whatever rank the packet started at
(R176). -/
def sendNext (p idx pair : Nat) (flaw : Flaw) (s : State) : State :=
  match (s.outPort p).prog.find? (fun g => g.pkt.pair == pair) with
  | none => sendIdle p idx s
  | some g0 =>
    let (g, s) := nextChecks p g0 flaw s
    match g with
    | none => sendIdle p idx (dropSending p g0 s)
    | some g =>
    let i := g.sentCells
    let last := i + 1 = g.cells
    let ty : BitVec 4 := if g.cells = 1 then 4 else if i = 0 then 1 else if last then 3 else 2
    let body := sliceOf g.wire (256 * i) 256
    let seq := (s.port p).txSeq
    let c : SentCell := { seq := seq, ctype := ty, vc := g.pkt.hdr.vc, sub := g.pkt.sub, body := body }
    let s := s.modPort p (fun x =>
      { x.modPair pair (fun c => { c with sentCells := c.sentCells + 1 }) with
        txSeq := seq + 1, replay := x.replay ++ [c], ackAt := if x.replay.isEmpty then s.now else x.ackAt })
    let s := emitCell p idx ty g.pkt.hdr.vc g.pkt.sub seq body s
    let s := s.modOutPort p (fun o => { o with prog := o.prog.map (fun x =>
      if x.pkt.pair == pair then { g with sentCells := i + 1 } else x) })
    let s := if last then packetLeft p { g with sentCells := i + 1 } s else s
    match g.pkt.fq with
    | some f =>
      s.modFqr f (fun r => { r with
        entitlement := if (s.fqPkts p f).isEmpty then 0
          else if g.rank = 3 then max (-65) (r.entitlement - 1) else r.entitlement })
    | none => s

/-- What the egress tile finds when it starts a packet: the payload, or the reason for a discard (04 R104,
R106, 13 R392). -/
def startChecks (p : Nat) (q : QPkt) (flaw : Flaw) (s : State) : Option (List Byte) × State :=
  let d := dieTile (tileOf p)
  let s := if flaw == .corrected then s.symCorrected d else s
  let payload := if flaw == .payload then xorBytes q.payload [1] else q.payload
  if flaw == .uncorrectable then (none, s.symUncorrectable d srcHodUe)
  else if flaw == .parity then (none, s.raise d srcHdrParity)
  else if q.hdr.cls == 2 && crc32c payload != q.payCrc then
    (none, (s.modPktCntOf p (fun c => { c with gcrcFail := satInc c.gcrcFail })).raise d srcGcrcEgr)
  else (some payload, s)

/-- Start a packet at a rank and send its first cell; one that fails a check is discarded. -/
def startPkt (p idx : Nat) (q : QPkt) (rank : Nat) (flaw : Flaw) (s : State) : State :=
  let s := s.modOutPort p (fun o => { o with queue := o.queue.erase q })
  let (payload, s) := startChecks p q flaw s
  match payload with
  | none => sendIdle p idx (fqsEmptied p (fenceStep p (freeBuffer (tileOf p) s q.buf) q))
  | some payload =>
    let enc := (s.cfg p).enc
    let k := s.portKeys p
    let tx := k.tx k.selTx
    let ctr := tget 0 tx.ctr q.pair + 1
    let h := { q.hdr with enc := enc, keyPhase := enc && k.selTx, gcmCtr := if enc then BitVec.ofNat 56 ctr else 0 }
    let s := if enc then
        s.modPortKeys p (fun k => k.setTx k.selTx { tx with ctr := tset 0 tx.ctr q.pair ctr })
      else s
    let key := if enc then tx.key.map (fun a => (a, tx.salt)) else none
    let wire := wireBytes h q.coll payload q.payCrc q.crcPresent q.pair key
    let cells := cellsOf (pktLen h)
    let s := match q.fq with
      | some f => fqStart f (s.counted p q.hdr) s
      | none => s
    let s := s.modOutPort p (fun o =>
      { o with prog := o.prog ++ [{ pkt := q, wire := wire, cells := cells, sentCells := 0, rank := rank, hdr := h
                                    payload := payload, key := key }]
               cap0 := if rank = 1 then o.cap0 - (4096 * cells : Nat) else o.cap0
               cap7 := if rank = 2 then o.cap7 - (4096 * cells : Nat) else o.cap7 })
    sendNext p idx q.pair .none s

/-- Post GCM_EXHAUSTED for each pair that is held because its counter would pass 2^56 - 1 (04 R109). -/
def exhaustedCheck (p : Nat) (s : State) : State :=
  let held := (s.outPort p).heads.filter (fun q => !s.ctrLeft p q.pair && !(s.portKeys p).exhausted.contains q.pair)
  s.forEach held (fun s q =>
    (s.modPortKeys p (fun k => { k with exhausted := k.exhausted ++ [q.pair] })).event evGcmExhausted
      (dieTile (tileOf p)) p q.pair (b2n (s.portKeys p).selTx))

/-- CELL_OPPORTUNITY of port p (R173): one cell slot of its next lane, the lanes of a slot position in ascending
index (R66). A lane that sends no frames has none; where the lane's next slot is a control slot, that comes first
(R63). flaw is what the read of a packet's buffer meets. Resent cells leave in QUARANTINE too, on every channel (03
R80, DEDUCED, log entry 244). -/
def cellOpportunity (p : Nat) (flaw : Flaw) (s : State) : State :=
  let w := s.portWidth p
  let idx := (s.outPort p).nextLane % w
  let onward (s : State) : State := s.modOutPort p (fun o => { o with nextLane := (idx + 1) % w })
  if !s.startsPort p then s
  else if !s.framed (p + idx) then onward s
  else if controlSlot (s.lane (p + idx)).txSlot then s
  else
    let s := calAdvance p (capGain p (onward s))
    let x := s.port p
    if !s.sendsData p || !s.dieRuns (dieTile (tileOf p)) then sendIdle p idx s
    else match x.resend with
      | c :: rest => emitCell p idx c.ctype c.vc c.sub c.seq c.body (s.modPort p (fun x => { x with resend := rest }))
      | [] =>
        if x.replay.length ≥ 120 * w then sendIdle p idx s
        else
          let (c, s) := choose p (exhaustedCheck p s)
          match c with
          | .idle => sendIdle p idx s
          | .next pair => sendNext p idx pair flaw s
          | .start q rank => startPkt p idx q rank flaw s

/-! ## Fumarole (R184 to R186) -/

/-- Saturate to a signed 32-bit value. -/
def sat32s (v : Int) : W32 := BitVec.ofInt 32 (max (-(2 ^ 31 : Int)) (min (2 ^ 31 - 1 : Int) v))

/-- depth_bytes, depth_pkts and balance of flow queue f (R185, R190). DEDUCED: log entry 45. -/
def State.fqDepthBytes (s : State) (f : Nat) : Nat :=
  min (2 ^ 32 - 1) ((s.fqPkts (s.fqPort f) f).foldl (fun n q => n + s.counted (s.fqPort f) q.hdr) 0)
def State.fqDepthPkts (s : State) (f : Nat) : Nat := min 65535 (s.fqPkts (s.fqPort f) f).length
def State.fqBalance (s : State) (f : Nat) : W32 :=
  let c := s.fq f
  if c.calendar then sat32s (s.fqr f).entitlement
  else if c.rate == 0 then 0 else sat32s ((s.fqr f).tokens / 65536)

/-- The sample record of flow queue f (R185). -/
def State.sampleBytes (s : State) (f : Nat) : List Byte :=
  let r := s.fqr f
  let joined := (s.fqPkts (s.fqPort f) f).foldl (fun a q => match a with
    | none => some q.joinedAt
    | some b => some (min b q.joinedAt)) (none : Option Nat)
  let delay := match joined with
    | some j => min (2 ^ 32 - 1) (s.now - j)
    | none => 0
  [BitVec.ofNat 8 (1 + 16 * (f / 4096)),
   BitVec.ofNat 8 (b2n (s.fq f).calendar + 2 * b2n (r.wheel.isSome || r.fence != 0))] ++
    leBytes 2 (f % 4096) ++ leBytes 4 (s.fqDepthBytes f) ++ leBytes 8 (s.ftcAt (dieTile (f / 4096))) ++ leBytes 4 delay ++
    leBytes 2 (s.fqDepthPkts f) ++ zeros 2 ++ leBytes 4 r.txBytes.toNat ++ leBytes 4 (s.fqBalance f).toNat

/-- Change the Fumarole of a tile. -/
def modFm (t : Nat) (f : Fumarole → Fumarole) (s : State) : State := s.modTile t (fun x => { x with fm := f x.fm })

/-- Write one sample of flow queue f under the settings in force (R186). A record that finds its ring full is counted in
ring_drops; one whose ring is disabled, or no event ring, is lost as every record is then (12 R358), and so is one
whose share's die is lost (09 R281, DESIGN CHOICE, log entry 232). -/
def takeSample (t : Nat) (history : Bool) (ring : Nat) (s : State) (f : Nat) : State :=
  let rec_ := s.sampleBytes f
  let s := s.modFqr f (fun r => { r with txBytes := 0 })
  if history && (s.caldera (historyDie t)).lost then s.lostRecord
  else if history then
    let i := (s.tile t).fm.nextRecord
    let wraps := decide ((s.tile t).fm.shareRecords ≤ i + 1)
    let s := { s with pkg := { s.pkg with history := tset {} s.pkg.history (t * 2 ^ 32 + i) { bytes := rec_, key := s.trust.pkgKey } } }
    modFm t (fun m => { m with records := satInc m.records, nextRecord := if wraps then 0 else i + 1
                               histWraps := if wraps then satInc m.histWraps else m.histWraps }) s
  else
    let g := s.ring ring
    if !g.enable || g.kind != 2 then s.lostRecord
    else if g.room 1 false then
      modFm t (fun m => { m with records := satInc m.records }) (s.putRecord ring (padTo 64 rec_))
    else modFm t (fun m => { m with ringDrops := satInc m.ringDrops }) s

/-- FM_CTL as in force for a class: period, history, enable, ring; the period registers before its first
start. -/
def Fumarole.setting (m : Fumarole) (c : Nat) : Nat × Bool × Bool × Nat :=
  (tget none m.inForce c).getD ((if c = 1 then 1000 else if c = 2 then 10000 else 50000), false, false, 0)
def Fumarole.written (m : Fumarole) (c : Nat) : Nat × Bool × Bool × Nat :=
  ((if c = 1 then m.period1 else if c = 2 then m.period2 else m.period3).toNat, m.history, m.enable, m.ring.toNat)

/-- Samples taken in the microsecond of now. -/
def Fumarole.spent (m : Fumarole) (now : Nat) : Nat := if m.burst.1 = now / 1000 then m.burst.2 else 0

/-- Take the samples of class c that are due, at most 64 a microsecond (R184). -/
def drainClass (t : Nat) (s : State) (c : Nat) : State :=
  let m := (s.tile t).fm
  let used := m.spent s.now
  let due := tget [] m.due c
  let now_ := due.take (64 - used)
  let (_, history, _, ring) := m.setting c
  let s := modFm t (fun m => { m with due := tset [] m.due c (due.drop (64 - used))
                                      burst := (s.now / 1000, used + now_.length) }) s
  s.forEach now_ (takeSample t history ring)

/-- A period of class c starts, where now is a multiple of the period in force and it has not started already: the
settings take effect, samples not yet taken are skipped and every valid flow queue of the class is due (R184, R186). -/
def startPeriod (t : Nat) (s : State) (c : Nat) : State :=
  let m := (s.tile t).fm
  if s.now % (1000 * (m.setting c).1) ≠ 0 ∨ tget 0 m.startedAt c = s.now + 1 then s
  else
    let w := m.written c
    let qs := (s.fqCfg.filter (fun e => e.1 / 4096 == t && e.2.valid && e.2.sampleClass.toNat == c)).map Prod.fst
    modFm t (fun m => { m with skipped := satAdd m.skipped (tget [] m.due c).length
                               inForce := tset none m.inForce c (some w)
                               startedAt := tset 0 m.startedAt c (s.now + 1)
                               due := tset [] m.due c (if w.2.2.1 then qs else []) }) s

/-- FUMAROLE_PERIOD of class c at a tile (R184, R186): the periods that start now start, those of the other classes
with that of c; then due samples are taken, class 1 first, then class 2, then class 3, whichever class was named
first. DEDUCED: log entry 47. -/
def fumarolePeriod (t c : Nat) (s : State) : State :=
  ((startPeriod t s c).forEach [1, 2, 3] (startPeriod t)).forEach [1, 2, 3] (drainClass t)

/-- TELEM_SNAP: copy records of a tile's share (12 R366). The share of a lost die cannot be read (09 R281, DESIGN
CHOICE, log entry 232). DEDUCED: log entry 46. -/
def telemSnap (flaw : Flaw) (s : State) : State :=
  s.runJob dkTelemSnap 0 (fun j s =>
    let t := fieldOf j.desc 8 1
    let first := fieldOf j.desc 12 4
    let n := fieldOf j.desc 16 4
    if t > 15 ∨ n = 0 ∨ n > 2048 ∨ first + n > (s.tile t).fm.shareRecords then (St.badTarget, 0, [], s)
    else if (s.caldera (historyDie t)).lost then (St.calderaLost, 0, [], s)
    else
      let row := (t % 2 * (s.tile t).fm.shareRecords + first) / 2
      let (good, s) := gddrRead (historyDie t) (rowDevice row) flaw s
      if !good then (St.calderaLost, 0, [], s)
      else
        let data := (List.range n).flatMap (fun i => s.historyRecord t (first + i))
        (St.ok, 0, leBytes 4 n, s.jobStore j.src (fieldOf j.desc 24 8) data))

/-! ## The commands -/

/-- CELL_OPPORTUNITY (06 R173). -/
def execCellOpportunity (t p : Nat) (flaw : Flaw) (s : State) : Out :=
  run (decide (p < 512)) t (cellOpportunity p flaw) s

/-- WHEEL_SLOT_DUE (06 R181). -/
def execWheelSlotDue (t tile : Nat) (s : State) : Out := run (decide (tile < 16)) t
  (onDie (dieTile tile) (wheelDue tile)) s

/-- FUMAROLE_PERIOD (06 R184). -/
def execFumarolePeriod (t tile c : Nat) (s : State) : Out :=
  run (decide (tile < 16) && decide (1 ≤ c ∧ c ≤ 3)) t
    (onDie (dieTile tile) (fumarolePeriod tile c)) s

/-- TELEM_SNAP (12 R366). -/
def execTelemSnap (t : Nat) (s : State) (flaw : Flaw := .none) : Out := run true t (telemSnap flaw) s

end Sys2Proof.Machine
end

