-- ==== Sys2Proof/Machine/Commit.lean ====
section
/-! DEFINITION. The shadowed group of a tile: the fields of its registers, PT_COMMIT with its checks and
effects, and the descriptors that write and commit (04 R131 to R133, 05 R163, R164, 06 R171, R175, R177,
R182, R188 to R191, 10 R324, 12 R366, R381, R382). -/

namespace Sys2Proof.Machine

/-! ## The fields (reserved bits are not stored; values out of range store what the register names) -/

/-- A word written to PT_PORT_SH (04 R132). -/
def portShWrite (r : Nat) (v : Nat) (c : PortCfg) : PortCfg :=
  if r = 0 then
    { c with mode := BitVec.ofNat 2 v, enc := bitOf v 2, axis := BitVec.ofNat 2 (bitsOf v 3 2), dateline := bitOf v 5
             portHold := BitVec.ofNat 20 (clamp 1 1000000 (bitsOf v 8 20)) }
  else if 0x20 ≤ r ∧ r < 0x40 then
    let i := 32 * ((r - 0x20) / 4)
    { c with slices := BitVec.ofNat 256 (c.slices.toNat - bitsOf c.slices.toNat i 32 * 2 ^ i + v * 2 ^ i) }
  else if 0x100 ≤ r ∧ r < 0x200 then
    { c with weights := (List.range 4).foldl (fun w i =>
        tset 1 w (r - 0x100 + i) (BitVec.ofNat 8 (max 1 (bitsOf v (8 * i) 8)))) c.weights }
  else c

/-- A word written to PT_SCHED_PORT_SH (06 R188). -/
def schedShWrite (r : Nat) (v : Nat) (c : SchedCfg) : SchedCfg :=
  let w (i : Nat) : BitVec 8 := BitVec.ofNat 8 (max 1 (bitsOf v (8 * i) 8))
  if r = 0 then { c with w1 := w 0, w2 := w 1, w3 := w 2, w4 := w 3 }
  else if r = 4 then { c with w5 := w 0, w6 := w 1, overhead := BitVec.ofNat 8 (bitsOf v 16 8) }
  else if r = 8 then { c with cap0 := BitVec.ofNat 13 (min 4096 (bitsOf v 0 13)), burst0 := BitVec.ofNat 10 (clamp 1 512 (bitsOf v 16 10)) }
  else if r = 12 then { c with cap7 := BitVec.ofNat 13 (min 4096 (bitsOf v 0 13)), burst7 := BitVec.ofNat 10 (clamp 1 512 (bitsOf v 16 10)) }
  else c

/-- A word written to PT_FQ_SH (06 R189). -/
def fqShWrite (r : Nat) (v : Nat) (c : FqCfg) : FqCfg :=
  if r = 0 then
    { c with valid := bitOf v 0, calendar := bitOf v 1, resetZero := bitOf v 2, port := BitVec.ofNat 5 (bitsOf v 3 5)
             vc := BitVec.ofNat 3 (bitsOf v 8 3), sampleClass := BitVec.ofNat 2 (bitsOf v 12 2)
             slice := BitVec.ofNat 8 (bitsOf v 16 8) }
  else if r = 4 then { c with flowLabel := BitVec.ofNat 20 v }
  else if r = 8 then { c with rate := BitVec.ofNat 28 v }
  else if r = 12 then { c with burst := BitVec.ofNat 24 v }
  else c

/-- alpha as stored: values 8 to 15 store 7 (05 R163). -/
def alphaStored (v : Nat) : W32 :=
  BitVec.ofNat 32 ((List.range 8).foldl (fun a i => a + min 7 (bitsOf v (4 * i) 4) * 2 ^ (4 * i)) 0)

/-- The offset lies in the shadowed group of a tile, at an index that starts a port where it is one of a
port (04 R131, R132, 05 R163, R164, 06 R188 to R191, 10 R324). -/
def State.isTileShadow (s : State) (t off : Nat) : Bool :=
  let port (j : Nat) := decide (j < 32) && s.startsPort (32 * t + j)
  off == 0xF00 || off == 0xF04 || off == 0x9100 || off == 0x9104 ||
  (decide (0x9200 ≤ off ∧ off < 0x9280) && port ((off - 0x9200) / 4)) ||
  (decide (0xC000 ≤ off ∧ off < 0xC080) && port ((off - 0xC000) / 4)) ||
  (decide (0x10000 ≤ off ∧ off < 0x18000) && port ((off - 0x10000) / 0x400) &&
    (let r := off % 0x400
     r == 0 || decide (0x20 ≤ r ∧ r < 0x40) || decide (0x100 ≤ r ∧ r < 0x200))) ||
  (decide (0x18000 ≤ off ∧ off < 0x18800) && port ((off - 0x18000) / 0x40) && decide (off % 0x40 < 16)) ||
  (decide (0x100000 ≤ off ∧ off < 0x120000) && decide (off % 0x20 < 16)) ||
  (decide (0x200000 ≤ off ∧ off < 0x240000) && port ((off - 0x200000) / 0x2000))

/-- One word of the shadow copy of tile t applied. -/
def tileShadowWrite (t : Nat) (s : State) (w : Nat × W32) : State :=
  let off := w.1
  let v := w.2.toNat
  if off = 0xF00 then s.modTile t (fun x => { x with seed := w.2 })
  else if off = 0xF04 then
    s.modTile t (fun x => { x with adaptEn := bitOf v 0, adaptMargin := BitVec.ofNat 4 (bitsOf v 1 4) })
  else if off = 0x9100 then s.modTile t (fun x => { x with headroomKib := BitVec.ofNat 15 (min 32767 v) })
  else if off = 0x9104 then s.modTile t (fun x => { x with alpha := alphaStored v })
  else if off < 0xC000 then
    s.modHodCfg (32 * t + (off - 0x9200) / 4) (fun c => { c with reserveKib := BitVec.ofNat 16 v })
  else if off < 0x10000 then
    s.modHodCfg (32 * t + (off - 0xC000) / 4) (fun c =>
      { c with trackVcs := BitVec.ofNat 7 v, timeoutUs := BitVec.ofNat 20 (clamp 1 1000000 (bitsOf v 8 20)) })
  else if off < 0x18000 then s.modCfg (32 * t + (off - 0x10000) / 0x400) (portShWrite (off % 0x400) v)
  else if off < 0x100000 then s.modSchedOf (32 * t + (off - 0x18000) / 0x40) (schedShWrite (off % 0x40) v)
  else if off < 0x200000 then s.modFq (4096 * t + (off - 0x100000) / 0x20) (fqShWrite (off % 0x20) v)
  else
    let j := (off - 0x200000) / 0x2000
    let pos := off % 0x2000 / 2
    let entry (h : Nat) : Nat × Bool := (bitsOf h 0 12, bitOf h 15)
    let k := (32 * t + j) * 4096 + pos
    { s with calSh := tset (0, false) (tset (0, false) s.calSh k (entry (v % 65536))) (k + 1) (entry (v / 65536)) }

/-- The state in which the pending writes of tile t are applied and nothing else has happened: the shadow
copy that reads return (00 R8), and the candidate of a commit. -/
def State.shadowTile (s : State) (t : Nat) : State := s.forEach (s.tile t).pending (tileShadowWrite t)

/-- The state in which some of the pending writes of tile t are applied. -/
def State.shadowOf (s : State) (t : Nat) (ws : List (Nat × W32)) : State := s.forEach ws (tileShadowWrite t)

/-! ## The checks of a commit (R133) -/

/-- The committed calendar of a port by position: its valid entries. -/
def State.calOf (s : State) (p : Nat) : Tab (Option Nat) :=
  (s.calSh.filter (fun e => e.1 / 4096 == p && e.2.2)).map (fun e => (e.1 % 4096, some (4096 * tileOf p + e.2.1)))

/-- Bits set in a slice bitmap. -/
def PortCfg.sliceCount (c : PortCfg) : Nat := ((List.range 256).filter (fun i => c.slices.getLsbD i)).length

/-- Check 1: mode and slice bitmap of a port (04 R132). -/
def PortCfg.modeOk (c : PortCfg) : Bool := decide (c.mode.toNat < 2) && (c.mode == 0 || c.sliceCount == 1)

/-- The key of a flow queue. -/
def FqCfg.key (c : FqCfg) : BitVec 5 × BitVec 3 × BitVec 8 × BitVec 20 := (c.port, c.vc, c.slice, c.flowLabel)

/-- The flow queues of a tile. -/
def State.tileFqs (s : State) (t : Nat) : List (Nat × FqCfg) := s.fqCfg.filter (fun e => e.1 / 4096 == t)

/-- The first breach that candidate s makes for tile t: the status a descriptor reports and the detail
(R133, 12 R366). DEDUCED: log entry 43. -/
def State.commitBreach (s : State) (t : Nat) : Option (Byte × Nat) :=
  let ports := s.tilePorts t
  let fqs := s.tileFqs t
  if ports.any (fun p => !(s.cfg p).modeOk) then some (St.commitRefused, 5)
  else match ports.findSome? (fun p => s.configBreach p (s.cfg p)) with
    | some b => some b
    | none =>
      if fqs.any (fun e => (e.2.valid && e.2.calendar && e.2.vc != 3) || !s.startsPort (32 * t + e.2.port.toNat)) then
        some (St.commitRefused, 7)
      else if fqs.any (fun e => e.2.valid && fqs.any (fun d => d.2.valid && d.1 != e.1 && d.2.key == e.2.key)) then
        some (St.commitRefused, 8)
      else if ports.any (fun p => decide ((s.calOf p).length + (s.schedOf p).cap0.toNat + (s.schedOf p).cap7.toNat > 4096)) then
        some (St.commitRefused, 9)
      else if ports.any (fun p => (s.calOf p).any (fun e => match e.2 with
          | some f => !s.isCalendar p f
          | none => false)) then some (St.commitRefused, 10)
      else none

/-! ## What an applied commit does -/

/-- Packets in a flow queue whose key or valid bit changes move to the tails of the lists of its old key
(06 R171). -/
def fqMove (old : State) (s : State) (q : Nat) : State :=
  let p := old.fqPort q
  let s := s.modFqr q (fun r => { r with entitlement := 0 })
  s.modOutPort p (fun o =>
    let mine := (o.queue.filter (fun x => x.fq == some q)).map (fun x => { x with fq := none })
    { o with queue := o.queue.filter (fun x => x.fq != some q) ++ mine
             prog := o.prog.map (fun g => if g.pkt.fq == some q then { g with pkt := { g.pkt with fq := none } } else g) })

/-- The fence of a flow queue whose key or valid bit changed: the packets in the lists that its new key draws from,
those in progress among them, which have not been sent (06 R171). -/
def fqFence (s : State) (q : Nat) : State :=
  let c := s.fq q
  let o := s.outPort (s.fqPort q)
  let n := ((o.prog.map Prog.pkt ++ o.queue).filter (fun x =>
    x.fq.isNone && x.hdr.vc == c.vc && x.hdr.slice == c.slice)).length
  s.modFqr q (fun r => { r with fence := if c.valid then n else 0 })

/-- Tokens of a flow queue as a commit of mode, rate, burst or reset_mode sets them (06 R182). -/
def fqTokens (s : State) (q : Nat) : State :=
  let c := s.fq q
  s.modFqr q (fun r => { r with
    tokens := if c.resetZero then 0 else ((c.burst.toNat * 65536 : Nat) : Int), last := s.now, wheel := none })

/-- The effects of the applied writes pend of tile t, from the state old before them (06 R171, R175, R177,
R182, 10 R316). -/
def commitEffects (old : State) (t : Nat) (pend : List (Nat × W32)) (s : State) : State :=
  let offs := pend.map Prod.fst
  let qs := (offs.filterMap (fun o => if 0x100000 ≤ o ∧ o < 0x120000 then some (4096 * t + (o - 0x100000) / 0x20) else none)).eraseDups
  let changed := qs.filter (fun q => (old.fq q).key != (s.fq q).key || (old.fq q).valid != (s.fq q).valid)
  let s := s.forEach changed (fqMove old)
  let s := s.forEach changed fqFence
  let tok := (offs.filterMap (fun o =>
    if 0x100000 ≤ o ∧ o < 0x120000 ∧ (o % 0x20 = 0 ∨ o % 0x20 = 8 ∨ o % 0x20 = 12) then
      some (4096 * t + (o - 0x100000) / 0x20) else none)).eraseDups
  let s := s.forEach tok fqTokens
  let s := s.forEach offs (fun s o =>
    if 0x18000 ≤ o ∧ o < 0x18800 then
      s.modOutPort (32 * t + (o - 0x18000) / 0x40) (fun x =>
        if o % 0x40 = 8 then { x with cap0 := 0 } else if o % 0x40 = 12 then { x with cap7 := 0 } else x)
    else s)
  let cals := (offs.filterMap (fun o => if 0x200000 ≤ o ∧ o < 0x240000 then some (32 * t + (o - 0x200000) / 0x2000) else none)).eraseDups
  let s := s.forEach cals (fun s p => s.modOutPort p (fun o => { o with calNext := some (s.calOf p) }))
  s.forEach (s.tilePorts t) (fun s p =>
    let gone (v : Nat) : Bool := (old.hodCfg p).trackVcs.getLsbD v && !(s.hodCfg p).trackVcs.getLsbD v
    if (List.range 7).any gone then fenceDrop p gone s else s)

/-- A commit of tile t has taken k pending writes: those that wait find as many less. -/
def commitTook (t k : Nat) (s : State) : State :=
  { s with jobs := s.jobs.map (fun j => match j.src with
      | .commit m u n => if u = t then { j with src := .commit m u (n - k) } else j
      | _ => j) }

/-- A commit of the pending writes pend of tile t, where kept stay for the next one: every field is applied, or none
(R121, R133, 12 R382); the refusal, if any. -/
def commitOf (t : Nat) (pend kept : List (Nat × W32)) (s : State) : Option (Byte × Nat) × State :=
  let s := commitTook t pend.length s
  let cand := s.shadowOf t pend
  match cand.commitBreach t with
  | some b =>
    (some b, s.modTile t (fun x => { x with pending := kept, refused := true, detail := BitVec.ofNat 8 b.2 }))
  | none =>
    let s' := cand.modTile t (fun x => { x with pending := kept, refused := false })
    (none, commitEffects s t pend s')

/-- PT_COMMIT of tile t, over the writes of earlier cycles (R133, 00 R9). DEDUCED: log entry 44. DEDUCED: log
entry 183. -/
def ptCommit (t : Nat) (s : State) : Option (Byte × Nat) × State :=
  let (pend, kept) := pendSplit s.now (s.tile t).pendAt (s.tile t).pending
  commitOf t pend kept s

/-- A ROUTE_UPDATE or a port-configuration commit, which are carried out one at a time in the order in which they reach
the Driant (R120). -/
def Job.ordered (j : Job) : Bool :=
  let k := descKind j.desc
  k == dkRouteUpdate || k == dkShaperSet || (k == dkPortCtl && (bodyOp k j.desc).1 == 3) ||
  (match j.src with
   | .commit _ _ _ => true
   | _ => false)

/-- PT_COMMIT written by master m: it is carried out at once, or after the operations that reached the Driant before
it (R120). A commit that waits takes the writes that were pending when it was written (DEDUCED, log entry 241). -/
def ptCommitWrite (m t : Nat) (s : State) : State :=
  s.ownerWrite m (fun s =>
    if s.jobs.any Job.ordered then
      let n := (pendSplit s.now (s.tile t).pendAt (s.tile t).pending).1.length
      { s with jobs := s.jobs ++ [{ src := .commit m t n, desc := [] }] }
    else (ptCommit t s).2)

/-- The commit that nothing precedes any longer: its tile and writes, and the list without it. -/
def nextCommit : List Job → List Job → Option (Nat × Nat × List Job)
  | _, [] => none
  | ahead, j :: js =>
    match j.src with
    | .commit _ t n => some (t, n, ahead ++ js)
    | _ => if j.ordered then none else nextCommit (ahead ++ [j]) js

/-- The commits that nothing precedes any longer are carried out, in order. -/
def drainCommits : Nat → State → State
  | 0, s => s
  | fuel + 1, s =>
    match nextCommit [] s.jobs with
    | none => s
    | some (t, n, rest) =>
      let ws := (s.tile t).pending
      drainCommits fuel (commitOf t (ws.take n) (ws.drop n) { s with jobs := rest }).2

/-- An ordered operation, and the commits that waited for it (R120). -/
def inOrder (f : State → State) (s : State) : State :=
  let s := f s
  drainCommits s.jobs.length s

/-! ## Descriptors that write and commit (12 R366) -/

/-- Put the words of an image into the shadow copy of tile t from an offset on. -/
def stageImage (t off : Nat) (data : List Byte) (s : State) : State :=
  let ws := (List.range (data.length / 4)).filterMap (fun i =>
    if s.isTileShadow t (off + 4 * i) then some (off + 4 * i, BitVec.ofNat 32 (fieldOf data (4 * i) 4)) else none)
  s.modTile t (fun x => { x with pending := x.pending ++ ws, pendAt := (0, 0) })

/-- Commit, and answer as the descriptor does. -/
def commitAnswer (t : Nat) (s : State) : Ans :=
  let (b, s) := ptCommit t s
  match b with
  | some (st, d) => (st, d, [], s)
  | none => (St.ok, 0, [], s)

/-- SHAPER_SET; host is what the host returned for data_addr. -/
def shaperSet (host : List Byte) (s : State) : State :=
  s.runBody dkShaperSet 0 host (fun j s =>
    let t := fieldOf j.desc 8 1
    let what := fieldOf j.desc 9 1
    let i := fieldOf j.desc 10 2
    let bad := decide (t > 15) || (if what = 1 then decide (i > 4095) else decide (i > 31) || !s.startsPort (32 * t + i))
    if bad then (St.badTarget, 0, [], s)
    else
      let (off, n) := if what = 1 then (0x100000 + 0x20 * i, 32) else if what = 2 then (0x18000 + 0x40 * i, 16)
        else (0x200000 + 0x2000 * i, 8192)
      commitAnswer t (stageImage t off (s.jobData j.src (fieldOf j.desc 16 8) n host) s))

/-- PORT_CTL op PORT_SET. -/
def portSet (host : List Byte) (s : State) : State :=
  s.runBody dkPortCtl 3 host (fun j s =>
    let p := fieldOf j.desc 8 2
    if !s.startsPort p then (St.badTarget, 0, [], s)
    else commitAnswer (tileOf p) (stageImage (tileOf p) (0x10000 + 0x400 * (p % 32))
      (s.jobData j.src (fieldOf j.desc 32 8) 512 host) s))

/-- The completion of a descriptor that writes wiring entries of port p as words and commits LN_COMMIT
(03 R100). -/
def wireCommit (p : Nat) (serial pport mode : Nat) (s : State) : State :=
  let n := laneDieOf p
  let o := 0x10 * (p % 16)
  let ws : List (Nat × W32) := [(o, BitVec.ofNat 32 serial), (o + 4, BitVec.ofNat 32 (serial / 2 ^ 32)),
    (o + 8, BitVec.ofNat 32 (pport % 65536 + 65536 * mode))]
  lnCommit n (s.modLaneDie n (fun d => { d with pending := d.pending ++ ws, pendAt := (0, 0) }))

/-- PORT_CTL op WIRE. -/
def portWire (s : State) : State :=
  s.runJob dkPortCtl 2 (fun j s =>
    let p := fieldOf j.desc 8 2
    if !s.startsPort p then (St.badTarget, 0, [], s)
    else (St.ok, 0, [], wireCommit p (fieldOf j.desc 16 8) (fieldOf j.desc 24 2) (fieldOf j.desc 12 4 % 4) s))

/-- WIRING_ACCEPT (03 R79, 12 R366, R367). -/
def wiringAccept (s : State) : State :=
  s.runJob dkWiringAccept 0 (fun j s =>
    let p := fieldOf j.desc 8 2
    let id := (s.port p).partner
    if !s.startsPort p || id.all (fun b => b == 0) then (St.badTarget, 0, [], s)
    else (St.ok, 0, sliceOf id 0 10, wireCommit p (fieldOf id 0 8) (fieldOf id 8 2) 1 s))

/-- PORT_CTL op RESET (02 R52). DEDUCED: log entry 57. -/
def portCtlReset (s : State) : State :=
  s.runJob dkPortCtl 1 (fun j s =>
    let p := fieldOf j.desc 8 2
    if !s.startsPort p then (St.badTarget, 0, [], s) else (St.ok, 0, [], portReset p s))

/-! ## The commands -/

/-- PT_COMMIT (04 R133). -/
def execPtCommit (t m tile : Nat) (s : State) : Out :=
  run (isMaster m && decide (tile < 16)) t (accessDie m (dieTile tile) (ptCommitWrite m tile)) s

/-- WRITE_ENTRIES (04 R118). -/
def execWriteEntries (t : Nat) (host : List Byte) (s : State) : Out := run true t (inOrder (writeEntriesDesc host)) s

/-- WRITE_SET (04 R118). -/
def execWriteSet (t : Nat) (host : List Byte) (s : State) : Out := run true t (inOrder (writeSetDesc host)) s

/-- COPY_REGION (04 R118). -/
def execCopyRegion (t : Nat) (s : State) : Out := run true t (inOrder copyRegionDesc) s

/-- COMMIT_SLICE (04 R120). -/
def execCommitSlice (t : Nat) (host : List Byte) (s : State) : Out := run true t (inOrder (commitSliceDesc host)) s

/-- CLEAR_SLICE (04 R118). -/
def execClearSlice (t : Nat) (s : State) : Out := run true t (inOrder clearSliceDesc) s

/-- SHAPER_SET (12 R366). -/
def execShaperSet (t : Nat) (host : List Byte) (s : State) : Out := run true t (inOrder (shaperSet host)) s

/-- PORT_SET (12 R366). -/
def execPortSet (t : Nat) (host : List Byte) (s : State) : Out := run true t (inOrder (portSet host)) s

/-- PORT_CTL_WIRE (12 R366). -/
def execPortCtlWire (t : Nat) (s : State) : Out := run true t portWire s

/-- WIRING_ACCEPT (03 R79). -/
def execWiringAccept (t : Nat) (s : State) : Out := run true t wiringAccept s

/-- PORT_CTL_RESET (12 R366). -/
def execPortCtlReset (t : Nat) (s : State) : Out := run true t portCtlReset s

end Sys2Proof.Machine
end

