-- ==== Sys2Proof/Machine/Messages.lean ====
section
/-! DEFINITION. The packets of a Caldera die: landing and its over bits, the intake checks, the
collective header, the packets the die originates and their lookup (08 R226, R227, R249, 09 R269, R270,
R276, 05 R160). -/

namespace Sys2Proof.Machine

/-! ## The collective header (08 R227) -/

/-- The fields of a collective header. -/
structure Coll where
  group : Nat := 0
  step : Nat := 0
  op : Nat := 0
  msg : Nat := 0
  etype : Nat := 0
  rank : Nat := 0xFFFF
  count : Nat := 0
  seg : Nat := 0
  part : Nat := 0
  exactUp : Bool := false
  aux : Nat := 0
  deriving DecidableEq, Repr

/-- Read a collective header; reserved bits are ignored (R7). -/
def parseColl (b : List Byte) : Coll :=
  let b8 := (byteAt b 8).toNat
  let w := fieldOf b 16 4
  { group := fieldOf b 0 2, step := fieldOf b 2 6, op := bitsOf b8 0 4, msg := bitsOf b8 4 4
    etype := bitsOf (byteAt b 9).toNat 0 5, rank := fieldOf b 10 2, count := fieldOf b 12 4
    seg := bitsOf w 0 20, part := bitsOf w 20 5, exactUp := bitOf (byteAt b 20).toNat 0
    aux := fieldOf b 24 8 }

/-- Write a collective header. -/
def collBytes (c : Coll) : List Byte :=
  leBytes 2 c.group ++ leBytes 6 c.step ++ leBytes 1 (c.op + 16 * c.msg) ++ leBytes 1 c.etype ++
    leBytes 2 c.rank ++ leBytes 4 c.count ++ leBytes 4 (c.seg % 2 ^ 20 + 2 ^ 20 * c.part) ++
    [BitVec.ofNat 8 (b2n c.exactUp), 0, 0, 0] ++ leBytes 8 c.aux

/-- Messages (08 R226). -/
def msgContrib : Nat := 1
def msgPartial : Nat := 2
def msgResult : Nat := 3
def msgCount : Nat := 4
def msgCountResult : Nat := 5
def msgCredit : Nat := 6
def msgStatus : Nat := 7
def msgParticipation : Nat := 8
def msgSignal : Nat := 9

/-- The virtual channel of a message; 0 for a reserved one (08 R226). -/
def msgVc (m : Nat) : BitVec 3 :=
  if m = 1 ∨ m = 2 ∨ m = 8 then 1 else if m = 3 then 2
  else if m = 4 ∨ m = 5 ∨ m = 6 ∨ m = 7 ∨ m = 9 then 7 else 0

/-- The key of the open invocation of a group and STEP. -/
def State.findInv (s : State) (g step : Nat) : Option Nat :=
  (s.invs.find? (fun e => match e.2 with
    | some i => i.group == g && i.step == step
    | none => false)).map Prod.fst

/-! ## Landing (09 R269) -/

/-- The landed packet with this identifier. -/
def State.landed (s : State) (die id : Nat) : Option Landed :=
  (s.caldera die).landing.find? (fun l => l.id == id)

/-- Change it. -/
def State.modLanded (s : State) (die id : Nat) (f : Landed → Landed) : State :=
  s.modCaldera die (fun c => { c with landing := c.landing.map (fun l => if l.id == id then f l else l) })

/-- Discard it, or end it: its places are free. -/
def State.dropLanded (s : State) (die id : Nat) : State :=
  s.modCaldera die (fun c => { c with landing := c.landing.filter (fun l => l.id != id) })

/-- Landing places that a packet holds. -/
def Landed.places (l : Landed) : Nat :=
  match l.phase with
  | .dropped _ => 0
  | _ => l.got.length

/-- Landing places in use for a user, and on the die (R269, R293, R294). -/
def Caldera.used (c : Caldera) (u : Nat) : Nat :=
  (c.landing.filter (fun l => l.user == u)).foldl (fun n l => n + l.places) 0
def Caldera.usedAll (c : Caldera) : Nat := c.landing.foldl (fun n l => n + l.places) 0

/-- The die-wide over bit, and the over bit of a user (R269). -/
def Caldera.dieOver (c : Caldera) : Bool := decide (12288 ≤ c.usedAll)
def Caldera.over (c : Caldera) (u : Nat) : Bool := decide (1536 ≤ c.used u) || c.dieOver

/-- The header slot of a packet lands for an engine: on the first packet of a segment a slot is bound to it (R271). -/
def bindHeader (die user : Nat) (vc : BitVec 3) (body : List Byte) (s : State) : State :=
  let c := parseColl (sliceOf body 32 32)
  if vc != 1 || !(c.msg == msgContrib || c.msg == msgPartial) then s
  else
    match s.findInv c.group c.step with
    | none => s
    | some k =>
      match s.inv k with
      | none => s
      | some v => s.when (v.engineOf c.seg == 8 * die + user) (bindSeg k c.seg)

/-- A data cell lands in the lowest free place (R269, DESIGN CHOICE, log entry 228). A packet is discarded whole when
one of its cells finds no place; the cells that still come of it take none. -/
def landCell (die : Nat) (cell : FabCell) (corrupt : Bool) (s : State) : State :=
  let user := if cell.vc == 4 then 8 else cell.mask.toNat % 8
  if (s.caldera die).lost || s.halted || (cell.src < 16 && s.dieOut (dieTile cell.src)) then s
  else
    let is (l : Landed) : Bool := l.src == cell.src && l.vc == cell.vc.toNat && l.relSeq == cell.relSeq
    let s := if (s.caldera die).landing.any is then s
      else
        let (id, s) := s.fresh
        let l : Landed := { id := id, src := cell.src, vc := cell.vc.toNat, relSeq := cell.relSeq, user := user
                            firstAt := s.now, count := cell.count, got := [], failed := false, verdict := 0
                            payCrc := 0, crcPresent := false, inPort := cell.inPort, phase := .receiving }
        s.modCaldera die (fun c => { c with landing := c.landing ++ [l] })
    match (s.caldera die).landing.find? is with
    | none => s
    | some l =>
      match l.phase with
      | .dropped n =>
        if n + 1 = l.count then s.dropLanded die l.id
        else s.modLanded die l.id (fun l => { l with phase := .dropped (n + 1) })
      | _ =>
        if (s.caldera die).usedAll ≥ 24576 then
          let s := s.countIntake die user (fun k => { k with intakeDrop := satInc k.intakeDrop })
          let n := l.got.length
          if n + 1 = l.count then s.dropLanded die l.id
          else s.modLanded die l.id (fun l => { l with got := [], cellAt := [], phase := .dropped (n + 1) })
        else
          let last := cell.index + 1 = cell.count
          let place := firstFree ((s.caldera die).landing.flatMap (fun l => l.cellAt.map Prod.snd))
          let s := s.modLanded die l.id (fun l =>
            let l := { l with got := tput l.got cell.index cell.body, cellAt := tput l.cellAt cell.index place
                              failed := l.failed || corrupt }
            if last then { l with verdict := cell.verdict, payCrc := cell.payCrc, crcPresent := cell.crcPresent }
            else l)
          s.when (cell.index == 0 && decide (user < 8)) (bindHeader die user cell.vc cell.body)

/-- CALDERA_CELL_LANDING: the oldest cell on its way to fabric port 16 + die arrives (R269). corrupt says
that the cell was changed on its way; a failing fcrc is a fault whatever kind the cell is of (05 R146). -/
def cellLanding (die : Nat) (corrupt : Bool) (s : State) : State :=
  match takeArrival (16 + die) s with
  | (none, s) => s
  | (some (plane, cell), s) =>
    let bad := cell.fails corrupt
    let s := if bad then s.raise (dieCaldera die) srcCaFabCrc plane else s
    if cell.data then landCell die cell bad s else s

/-- LANDING_TIMEOUT: a packet still incomplete 2 µs after its first cell is discarded and counted
(R270); one discarded already is only forgotten. -/
def landingTimeout (die id : Nat) (s : State) : State :=
  match s.landed die id with
  | none => s
  | some l =>
    if !s.past l.firstAt 2000 then s
    else match l.phase with
      | .dropped _ => s.dropLanded die id
      | .receiving =>
        if l.got.length = l.count then s
        else (s.dropLanded die id).countIntake die l.user
          (fun k => { k with reasmTimeout := satInc k.reasmTimeout })
      | _ => s

/-! ## A landed message -/

/-- A landed message as an engine reads it. -/
structure LandMsg where
  l : Landed
  hdr : PktHdr
  coll : Coll
  payload : List Byte
  deriving DecidableEq, Repr

/-- The message in a landed packet. -/
def Landed.read (l : Landed) : LandMsg :=
  let b := (List.range l.count).flatMap (fun i => tget [] l.got i)
  let h := slotHdr b
  { l := l, hdr := h, coll := parseColl (sliceOf b 32 32), payload := sliceOf b 64 h.payLen.toNat }

/-- The record and plan of a group. -/
def State.groupRec (s : State) (g : Nat) : Option GroupRec := (s.group g).record
def State.groupPlan (s : State) (g : Nat) : Option Plan := (s.group g).plan

/-- The engine that acts for a group: its lead engine, or the default engine where it has none (09 R261,
R280). -/
def State.leadOf (s : State) (g : Nat) : Nat :=
  match s.groupPlan g with
  | some p => (s.physEngine p.engineFirst).getD s.defaultEngine
  | none => s.defaultEngine

/-- The invocation of a STEP that holds its slots: while they are reserved no record is taken (09 R266). -/
def State.heldInv (s : State) (g step : Nat) : Option Nat :=
  (s.findInv g step).filter (fun k => (s.inv k).any (fun v => !v.reserving))

/-- Count malformed: in the invocation the message names or, without one, in its group (08 R226,
R256). -/
def countMalformed (g step : Nat) (s : State) : State :=
  match s.heldInv g step with
  | some k => s.modInv k (fun v => v.map (fun v => { v with malformed := satInc v.malformed }))
  | none => s.modGroup g (fun x => { x with malformed := satInc x.malformed })

/-- Count rejected, where no invocation of the message's STEP exists (08 R256, 09 R299). -/
def countRejected (g step : Nat) (s : State) : State :=
  if (s.heldInv g step).isSome then s
  else s.modGroup g (fun x => { x with rejected := satInc x.rejected })

/-- INTAKE_CHECK of a whole landed packet (09 R270 checks 1 to 3, R261, R280, 08 R226). A packet that
passes waits for the step of its message, or of the fold unit. DEDUCED: log entry 174. -/
def intakeCheck (die id : Nat) (flaw : Flaw) (s : State) : State :=
  match s.landed die id with
  | none => s
  | some l =>
    if l.phase != .receiving || l.got.length ≠ l.count || s.halted then s
    else
      let u := l.user
      let m := l.read
      let drop (f : IntakeCnt → IntakeCnt) (s : State) := (s.dropLanded die id).countIntake die u f
      let (good, s) := sramRead (dieCaldera die) srcSharedUe flaw s
      if !good then s.dropLanded die id
      else if l.failed then drop (fun k => { k with fabCrc := satInc k.fabCrc }) s
      else if l.verdict != 1 then drop (fun k => { k with verdictDrop := satInc k.verdictDrop }) s
      else if l.crcPresent && crc32c m.payload != l.payCrc then
        (drop (fun k => { k with payCrc := satInc k.payCrc }) s).raise (dieCaldera die) srcCaIntake
      else if m.hdr.vc == 1 && s.engineFor 1 (collBytes m.coll) != 8 * die + u then
        drop (fun k => { k with misdirected := satInc k.misdirected }) s
      else if u < 8 && !(s.engine (8 * die + u)).inService then s.dropLanded die id
      else if u < 8 && (msgVc m.coll.msg == 0 || msgVc m.coll.msg != m.hdr.vc ||
          (m.coll.msg == msgSignal && bitsOf m.coll.aux 16 3 == 7)) then
        countMalformed m.coll.group m.coll.step (s.dropLanded die id)
      else s.modLanded die id (fun l => { l with phase := .checked })

/-- A landed message of this kind that passed the intake checks, on a die that runs (02 R50, R51). -/
def State.checkedMsg (s : State) (die id msg : Nat) : Option LandMsg :=
  match s.landed die id with
  | some l =>
    if l.phase == .checked && decide (l.user < 8) && l.read.coll.msg == msg && !s.halted &&
      s.dieRuns (dieCaldera die) then some l.read
    else none
  | none => none

/-! ## Packets that an engine originates (09 R276) -/

/-- As sendFrom, for an engine of the package and a payload whose CRC is computed. DESIGN CHOICE: log entry 80. -/
def sendPkt (eng : Nat) (h : PktHdr) (coll payload : List Byte) (frees : Option (Nat × Nat)) (s : State) :
    State :=
  sendFrom (eng / 8) (eng % 8) h coll payload (crc32c payload) frees s

/-- Send a collective message to an endpoint, or to a multicast identifier (08 R226, R227). launch is
the invocation's launch count, which PARTIAL, COUNT, PARTICIPATION and RESULT carry (11 R334). -/
def sendColl (eng slice dst : Nat) (mcast : Bool) (launch : Option Nat) (c : Coll) (payload : List Byte)
    (frees : Option (Nat × Nat)) (s : State) : State :=
  let carries := c.msg = msgPartial ∨ c.msg = msgCount ∨ c.msg = msgParticipation ∨ c.msg = msgResult
  let l := if carries then launch else none
  let h : PktHdr := { vc := msgVc c.msg, cls := 0, mcast := mcast, dst := BitVec.ofNat 16 dst
                      slice := BitVec.ofNat 8 slice, lc := l.isSome, launch := BitVec.ofNat 64 (l.getD 0) }
  sendPkt eng h (collBytes c) payload frees s

/-- The payload of STATUS (08 R249). -/
def statusPayload (status : Byte) (dropped aborted : Bool) (detail seg step : Nat) : List Byte :=
  [status, BitVec.ofNat 8 (b2n dropped + 2 * b2n aborted)] ++ leBytes 2 detail ++ leBytes 4 (seg % 2 ^ 20) ++
    leBytes 6 step ++ [0, 0]

/-- What a STATUS says beside its status. -/
structure StatusInfo where
  rank : Nat := 0xFFFF
  detail : Nat := 0
  seg : Nat := 0
  dropped : Bool := false
  aborted : Bool := false
  deriving DecidableEq, Repr

/-- Send STATUS about a group and STEP to an endpoint (08 R249). Without an installed group the slice, op
and etype are those of the message answered, which def_ gives. -/
def sendStatus (g step dst : Nat) (status : Byte) (i : StatusInfo) (def_ : Nat × Nat × Nat) (s : State) : State :=
  let (slice, op, et) := match s.groupRec g with
    | some r => (r.slice.toNat, r.op.toNat, r.etype.toNat)
    | none => def_
  let count := match s.findInv g step with
    | some k => ((s.inv k).bind (fun v => v.count)).getD 0
    | none => 0
  let shown := if status = St.stepSkew then (s.group g).expected else step
  let c : Coll := { group := g, step := step, op := op, msg := msgStatus, etype := et, rank := i.rank
                    count := count }
  sendColl (s.leadOf g) slice dst false none c (statusPayload status i.dropped i.aborted i.detail i.seg shown)
    none s

/-- The segment that a message concerns: that of a CONTRIB or PARTIAL (08 R249). -/
def LandMsg.segOf (m : LandMsg) : Nat := if m.coll.msg = msgContrib ∨ m.coll.msg = msgPartial then m.coll.seg else 0

/-- Answer the sender of a message with STATUS. -/
def answer (m : LandMsg) (status : Byte) (detail : Nat) (s : State) : State :=
  sendStatus m.coll.group m.coll.step m.hdr.src.toNat status { rank := m.coll.rank, detail := detail, seg := m.segOf }
    (m.hdr.slice.toNat, m.coll.op, m.coll.etype) s

/-! ## Held link credits (05 R160, 09 R269, 02 R44) -/

/-- A user that held credits wait on is over: an output queue port*8 + vc, or a landing user 4,096 +
die*9 + user. -/
def State.userOver (s : State) (u : Nat) : Bool :=
  if u < 4096 then s.queueOver (u / 8) (u % 8)
  else (s.caldera ((u - 4096) / 9)).over ((u - 4096) % 9)

/-- The longest prefix of held entries that may be freed, and the rest. -/
def splitHeld (ok : Held → Bool) : List Held → List Held × List Held
  | [] => ([], [])
  | h :: hs => if ok h then (h :: (splitHeld ok hs).1, (splitHeld ok hs).2) else ([], h :: hs)

/-- CREDIT_FREE of a pair of port p: the credits held longest are freed while the users they wait on are
not over, in the order they were held (05 R160), and while ingress staging has room for the port (05 R139, R143) and
the tile's arrivals keep to its admitted rate (02 R44, 03 R80). DEDUCED: log entry 172. -/
def creditFree (p pair : Nat) (s : State) : State :=
  let t := tileOf p
  let admits := decide (0 < tget 0 s.admitted t) && !s.overAdmitted t && !s.halted &&
    s.dieRuns (dieTile t) && s.stageRoom p &&
    ((s.port p).state != .quarantine || decide (pair / 2 = 0))
  if !admits then s
  else
    let ok (h : Held) : Bool := h.known && !h.users.any s.userOver
    let (go, stay) := splitHeld ok (tget ({} : PairLink) (s.port p).pairs pair).held
    let n := go.foldl (fun n h => n + h.cells) 0
    s.modPort p (fun x => { x with pairs := tmod {} x.pairs pair (fun c =>
      { c with held := stay, freed := c.freed + n }) })

/-! ## The commands -/

/-- CALDERA_CELL_LANDING (09 R269). -/
def execCalderaCellLanding (t die : Nat) (corrupt : Bool) (s : State) : Out :=
  run (decide (die < 8)) t (onDie (dieCaldera die) (cellLanding die corrupt)) s

/-- LANDING_TIMEOUT (09 R270). -/
def execLandingTimeout (t die id : Nat) (s : State) : Out :=
  run (decide (die < 8)) t (onDie (dieCaldera die) (landingTimeout die id)) s

/-- INTAKE_CHECK (09 R270). -/
def execIntakeCheck (t die id : Nat) (flaw : Flaw) (s : State) : Out :=
  run (decide (die < 8)) t (onDie (dieCaldera die) (intakeCheck die id flaw)) s

/-- CREDIT_FREE (05 R160). -/
def execCreditFree (t p pair : Nat) (s : State) : Out :=
  run (decide (p < 512) && decide (pair < 16)) t (creditFree p pair) s

end Sys2Proof.Machine
end

