-- ==== Sys2Proof/Machine/Invocation.lean ====
section
/-! DEFINITION. Invocations at a switch: their children and timers, creation and slot reservation, the
checks of collective messages, the count phase, launch and the steps of the plan, drops, aborts, the
audit record, PARTICIPATION and the messages from the parent (08 R234 to R258, 09 R265 to R267, R273,
11 R334, R338). -/

namespace Sys2Proof.Machine

/-! ## Plans and children -/

def skReduce : Nat := 1
def skBcast : Nat := 2
def skCount : Nat := 3
def skSignal : Nat := 4
def skWait : Nat := 5

/-- The kind of the step at an index; 0 past the last (08 R232). -/
def Plan.kindAt (p : Plan) (i : Nat) : Nat := ((p.steps[i]?).map (fun w => w.kind.toNat)).getD 0

/-- The plan has a step of this kind, or of this kind and variant. -/
def Plan.has (p : Plan) (kind : Nat) : Bool := p.steps.any (fun w => w.kind.toNat == kind)
def Plan.hasVar (p : Plan) (kind var : Nat) : Bool :=
  p.steps.any (fun w => w.kind.toNat == kind && w.variant.toNat == var)

/-- The plan's REDUCE is PARENT; the plan has a BCAST SOURCE (08 R232). -/
def Plan.toParent (p : Plan) : Bool := p.hasVar skReduce 0
def Plan.source (p : Plan) : Bool := p.hasVar skBcast 1

/-- The switch is the apex of the plan (08 R230). -/
def Plan.apex (p : Plan) : Bool := p.parentEp == 0xFFFF

/-- Number of children: local members first, then child switches. -/
def Plan.kids (p : Plan) : Nat := p.locals_.length + p.children.length

/-- Child i is a local member. -/
def Plan.isMember (p : Plan) (i : Nat) : Bool := decide (i < p.locals_.length)

/-- The endpoint, rank and members of child i. -/
def Plan.epOf (p : Plan) (i : Nat) : Nat :=
  match p.locals_[i]?, p.children[i - p.locals_.length]? with
  | some m, _ => m.ep.toNat
  | none, some c => c.ep.toNat
  | none, none => 0xFFFF
def Plan.rankOf (p : Plan) (i : Nat) : Nat := ((p.locals_[i]?).map (fun m => m.rank)).getD 0xFFFF
def Plan.countOf (p : Plan) (i : Nat) : Nat :=
  if p.isMember i then 1 else ((p.children[i - p.locals_.length]?).map (fun c => c.count)).getD 0

/-- The child a message comes from (08 R244 row 2): a member by endpoint and rank for CONTRIB and COUNT,
a child switch by endpoint for COUNT, PARTIAL, PARTICIPATION and STATUS. -/
def Plan.childOf (p : Plan) (src : Nat) (c : Coll) : Option Nat :=
  let n := p.locals_.length
  let sw := ((List.range p.children.length).find? (fun j => p.epOf (n + j) == src)).map (fun j => n + j)
  let mem := (List.range n).find? (fun i => p.epOf i == src && p.rankOf i == c.rank)
  if c.msg = msgContrib then mem
  else if c.msg = msgCount then mem.or sw
  else sw

/-- The index of the source of a BCAST SOURCE: the local member root_ep. -/
def Plan.rootIdx (p : Plan) : Option Nat :=
  (List.range p.locals_.length).find? (fun i => p.epOf i == p.rootEp.toNat)

/-- An invocation with the records it runs under. -/
structure Run where
  v : Inv
  r : GroupRec
  p : Plan
  deriving DecidableEq, Repr

/-- The invocation with a key. -/
def State.runOf (s : State) (k : Nat) : Option Run :=
  match s.inv k with
  | some v =>
    match s.groupRec v.group, s.groupPlan v.group with
    | some r, some p => some { v := v, r := r, p := p }
    | _, _ => none
  | none => none

/-- Change the invocation with a key. -/
def State.modRun (s : State) (k : Nat) (f : Inv → Inv) : State := s.modInv k (fun v => v.map f)

/-- Child i of an invocation. -/
def Inv.child (v : Inv) (i : Nat) : Child := tget {} v.children i
def Inv.modChild (v : Inv) (i : Nat) (f : Child → Child) : Inv :=
  { v with children := tmod {} v.children i f }

/-- Segments of the invocation, 0 while its count is not known. -/
def Inv.nseg (v : Inv) : Nat := segCount (v.count.getD 0)

/-- The first segment that child i does not send (08 R240, R241, R243): under PAD a member's own last
plus 1, under BCAST SOURCE 0 for every child but the source, and 0 in a plan with neither REDUCE nor BCAST. -/
def Run.endOf (x : Run) (i : Nat) : Option Nat :=
  match x.v.count with
  | none => none
  | some c =>
    if !(x.p.has skReduce || x.p.has skBcast) then some 0
    else if x.p.source ∧ x.p.rootIdx ≠ some i then some 0
    else if x.p.isMember i ∧ x.r.countMode = 2 then
      some (segCount (((x.v.child i).count.map Prod.fst).getD c))
    else some (segCount c)

/-- The highest segment that child i may send (08 R236). -/
def Run.limitOf (x : Run) (i : Nat) : Nat := (x.v.child i).limit.getD (x.r.creditWindow - 1)

/-- Child i is settled for segment j (08 R240). -/
def Run.settled (x : Run) (i j : Nat) : Bool :=
  let c := x.v.child i
  (match c.dropped with
   | some d => decide (d ≤ j)
   | none => false) ||
  decide (j < c.token) ||
  (match x.endOf i with
   | some e => decide (e ≤ j)
   | none => false)

/-- Child i is settled for every segment. -/
def Run.settledAll (x : Run) (i : Nat) : Bool :=
  (x.v.child i).dropped.isSome ||
  (match x.endOf i with
   | some e => decide (e ≤ (x.v.child i).token)
   | none => false)

/-- The member timeout in ns (08 R228). -/
def GroupRec.timeoutNs (r : GroupRec) : Nat := 1000 * (if r.timeoutUs = 0 then 1000 else r.timeoutUs)

/-- An expired timer ends the invocation: policy ABORT, or coverage by DET_STRICT (11 R340). -/
def Run.aborts (x : Run) : Bool := x.r.abortPolicy || x.v.strict

/-- MIN and MAX aside, the operation travels bitwise, or in EXACT-UP parts (08 R252). -/
def GroupRec.exact (r : GroupRec) : Bool := r.exactUp && !opBitwise r.op.toNat

/-! ## Timers (08 R245) -/

/-- The switch awaits from child i a message that it is allowed to send. DEDUCED: log entry 76. -/
def Run.awaits (x : Run) (i : Nat) : Bool :=
  let c := x.v.child i
  x.v.launched && c.dropped.isNone &&
  (match x.v.state with
   | .count => c.count.isNone
   | .reduce =>
     (match x.endOf i with
      | some e => decide (c.token < e) && decide (c.token ≤ x.limitOf i)
      | none => false)
   | _ => false)

/-- Run or hold the timer of child i; restart sets it back to 0. -/
def retime (k i : Nat) (restart : Bool) (s : State) : State :=
  match s.runOf k with
  | none => s
  | some x =>
    let on := x.awaits i
    s.modRun k (fun v => v.modChild i (fun c =>
      let ran := match c.timerFrom with
        | some f => c.timerRan + (s.now - f)
        | none => c.timerRan
      { c with timerFrom := if on then some s.now else none, timerRan := if restart then 0 else ran }))

/-- Run or hold the timers of all children. -/
def retimeAll (k : Nat) (restart : Bool) (s : State) : State :=
  match s.runOf k with
  | none => s
  | some x => s.forEach (List.range x.p.kids) (fun s i => retime k i restart s)

/-! ## Sending for an invocation -/

/-- The fields that every message of an invocation carries. -/
def Run.coll (x : Run) (msg : Nat) : Coll :=
  { group := x.v.group, step := x.v.step, op := x.r.op.toNat, msg := msg, etype := x.r.etype.toNat
    count := x.v.count.getD 0 }

/-- Send a message of an invocation to an endpoint, from the group's lead engine. -/
def sendInv (x : Run) (dst : Nat) (c : Coll) (payload : List Byte) (s : State) : State :=
  sendColl (s.leadOf x.v.group) x.r.slice.toNat dst false x.v.launch c payload none s

/-- Send STATUS of an invocation to child i. -/
def statusChild (x : Run) (i : Nat) (st : Byte) (info : StatusInfo) (s : State) : State :=
  sendStatus x.v.group x.v.step (x.p.epOf i) st { info with rank := x.p.rankOf i } (0, 0, 0) s

/-- The invocation's landed messages that wait as segments. -/
def isHeldSeg (v : Inv) (l : Landed) : Bool :=
  (match l.phase with
   | .waiting => true
   | .magma _ => true
   | _ => false) &&
  (l.read.coll.group == v.group && l.read.coll.step == v.step)

/-- Discard landed segments of an invocation that satisfy p, on every die. -/
def discardHeld (v : Inv) (p : LandMsg → Bool) (s : State) : State :=
  s.forEach (List.range 8) (fun s d => s.modCaldera d (fun c =>
    { c with landing := c.landing.filter (fun l => !(isHeldSeg v l && p l.read)) }))

/-! ## Basin slots, engine starts and stops -/

/-- Free the magma records of segment j (09 R275). -/
def freeRecords (k j : Nat) (s : State) : State :=
  match s.inv k with
  | none => s
  | some v =>
    (s.modCaldera (v.engineOf j / 8) (fun c => c.freeMagma k j)).modRun k
      (fun v => v.modSeg j (fun g => { g with entries := [] }))

/-- The segments of the plan need a slot (09 R266, R267). -/
def Plan.slotted (p : Plan) : Bool := p.has skReduce || p.has skBcast

/-- Slots that the invocation reserves on each engine (09 R266). -/
def slotsFor (r : GroupRec) (p : Plan) : Nat :=
  if p.slotted then (r.creditWindow + p.engineCount - 1) / max 1 p.engineCount else 0

/-- The front past every freed segment (09 R267). -/
def frontFrom (v : Inv) : Nat → Nat → Nat
  | 0, j => j
  | fuel + 1, j => if (v.seg j).freed then frontFrom v fuel (j + 1) else j

/-- The front of invocation k: a segment is released when its slot is freed, or when it needs none (09 R267). -/
def moveFront (k : Nat) (s : State) : State :=
  match s.runOf k with
  | none => s
  | some x => s.modRun k (fun v =>
      { v with front := if x.p.slotted then frontFrom v v.nseg v.front else v.nseg })

/-- Put an engine start in its place of 02 R42: by launch, then by group, then by engine. DEDUCED: log entry 82. -/
def insertStart (x : StartReq) : List StartReq → List StartReq
  | [] => [x]
  | y :: ys =>
    if x.launchAt < y.launchAt ∨ (x.launchAt = y.launchAt ∧ x.group < y.group) then x :: y :: ys
    else y :: insertStart x ys

/-- The copy of the FTC on the Caldera die of an invocation's lead engine (11 R326). -/
def State.ftcOf (s : State) (v : Inv) : Nat := s.ftcAt (dieCaldera v.leadDie)

/-- Something that the lead engine of invocation k does, where its die runs (02 R50, R51). -/
def onLead (k : Nat) (f : State → State) (s : State) : State :=
  match s.inv k with
  | some v => onDie (dieCaldera v.leadDie) f s
  | none => s

/-- Something that the engine of segment j of invocation k does, where its die runs. -/
def onEngine (k j : Nat) (f : State → State) (s : State) : State :=
  match s.inv k with
  | some v => onDie (dieCaldera (v.engineOf j / 8)) f s
  | none => s

/-- Ask Float to start the idle engines of an invocation that launches now; those that run add at once, and no stop
of theirs waits any longer (02 R42). -/
def askStarts (v : Inv) (s : State) : State :=
  let s := keepRunning v.engines s
  let idle := (List.range 64).filter (fun e => v.engines.contains e && !(s.engine e).running)
  s.forEach idle (fun s e =>
    { s with float := { s.float with
        starts := insertStart { launchAt := s.ftcNow, raisedAt := s.now, group := v.group, step := v.step, engine := e } s.float.starts } })

/-- The engines on which no invocation adds any longer are to stop, in ascending order (02 R42). -/
def stopIdle (es : List Nat) (s : State) : State :=
  askStops ((List.range 64).filter (fun e => es.contains e && !s.engineAdds e)) s

/-! ## Ending -/

/-- The expected STEP moves past an ended STEP (08 R236, R247). -/
def stepEnded (g step : Nat) (s : State) : State :=
  s.modGroup g (fun x =>
    let next := fun n => (n + 1) % 2 ^ 48
    if step = x.expected then
      if x.skipNext then { x with expected := next (next x.expected), skipNext := false }
      else { x with expected := next x.expected }
    else if step = next x.expected then { x with skipNext := true }
    else x)

/-- The starts that an invocation waits for are wanted no longer (02 R42). -/
def withdrawStarts (v : Inv) (s : State) : State :=
  { s with float := { s.float with
    starts := s.float.starts.filter (fun q => !(q.group == v.group && q.step == v.step)) } }

/-- The invocation's record and slots are free, no engine starts for it any more, and no audit record of it waits (02 R42,
08 R238, 09 R265, R266, 12 R362). -/
def freeInv (k : Nat) (s : State) : State :=
  match s.inv k with
  | none => s
  | some v =>
    let s := s.forEach v.engines (fun s e => s.modEngine e (fun x => x.release k))
    let s := { s with rings := tmap {} (fun _ g => { g with audits := g.audits.erase k }) s.rings }
    stopIdle v.engines (withdrawStarts v (s.modInv k (fun _ => none)))

/-- Withdraw the waits of an invocation without taking a count (10 R310). -/
def withdrawWaits (k : Nat) (s : State) : State :=
  { s with counters := tmap {} (fun _ c => { c with waiters := c.waiters.filter (fun w => w.inv != k) }) s.counters }

/-- Codes assigned to statuses (12 R384). -/
def statusKnown (b : Byte) : Bool :=
  [0x00, 0x01, 0x10, 0x11, 0x12, 0x13, 0x14, 0x15, 0x20, 0x21, 0x22, 0x23, 0x24, 0x25, 0x30, 0x31, 0x40, 0x41,
   0x42, 0x50, 0x51, 0x52, 0x60, 0x61, 0x70, 0x71, 0x72, 0x73, 0x74, 0x75, 0x76, 0x77, 0x80, 0x81, 0x82].contains
    b.toNat

/-- An invocation enters ABORT (08 R247): held segments are discarded, STATUS goes to every child and, off
the apex, to the parent, except where the abort came from. fromChild: the child it came from;
fromParent: it came from the parent. DEDUCED: log entry 72. -/
def abortInv (k : Nat) (st : Byte) (detail : Nat) (fromChild : Option Nat) (fromParent : Bool) (s : State) : State :=
  match s.runOf k with
  | none => s
  | some x =>
    if x.v.state == .abort || x.v.state == .done then s
    else
      let v := x.v
      -- held segments and the creating message of a reservation in progress
      let s := discardHeld v (fun _ => true) s
      let s := s.forEach (v.segs.map Prod.fst) (fun s j => freeRecords k j s)
      let s := withdrawWaits k s
      let s := withdrawStarts v s
      let s := s.modRun k (fun v =>
        { v with state := .abort, status := st, detail := BitVec.ofNat 16 detail, waitFrom := none
                 segs := tmap {} (fun _ g => { g with slot := none }) v.segs
                 children := tmap {} (fun _ c => { c with timerFrom := none, frozen := none, parts := [] }) v.children })
      let s := stopIdle v.engines s
      let info : StatusInfo := { detail := detail, aborted := true }
      let s := s.forEach (List.range x.p.kids) (fun s i =>
        if fromChild = some i then s else statusChild x i st info s)
      let s := if !x.p.apex && !fromParent then
          sendStatus v.group v.step x.p.parentEp.toNat st info (0, 0, 0) s
        else s
      stepEnded v.group v.step s

/-! ## Participation (08 R253) -/

/-- The term of a local member. -/
def memberTerm (g d rank : Nat) : BitVec 64 := tephra 0 0 g d rank 0x200

/-- The subtree term of a child switch dropped as a whole. -/
def subtreeTerm (g d ep : Nat) : BitVec 64 := tephra 0 0 g d (0x10000 + ep) 0x201

/-- The digest of the subtree as this switch knows it. -/
def Run.digest (x : Run) : BitVec 64 :=
  (List.range x.p.kids).foldl (fun (d : BitVec 64) i =>
    let c := x.v.child i
    if x.p.isMember i then d ^^^ memberTerm x.v.group (c.dropped.getD x.v.nseg) (x.p.rankOf i)
    else match c.dropped, c.particip with
      | some n, _ => d ^^^ subtreeTerm x.v.group n (x.p.epOf i)
      | none, some b => d ^^^ b.digest
      | none, none => d) 0

/-- The full bitmap of the subtree; 0 in a group of more than 512 members. -/
def Run.full (x : Run) : BitVec 512 :=
  if x.r.members > 512 then 0
  else (List.range x.p.kids).foldl (fun (b : BitVec 512) i =>
    let c := x.v.child i
    if c.dropped.isSome || !x.settledAll i then b
    else if x.p.isMember i then setBit b (x.p.rankOf i) true
    else match c.particip with
      | some q => b ||| q.full
      | none => b) 0

/-- Members of a child switch in every segment where it sends no PARTIAL: those of its PARTICIPATION, or the counts it
included, or all (08 R246, R253). DEDUCED: log entry 75. -/
def Run.fullBelow (x : Run) (i : Nat) : Nat :=
  let c := x.v.child i
  match (if x.r.members > 512 then none else c.particip), c.count with
  | some q, _ => (bitsSet q.full.toNat 512).length
  | none, some n => n.2.2
  | none, none => x.p.countOf i

/-- Members at or below child i in every segment (08 R255, n_full). A child switch's are the participants
of its last PARTIAL, or those of fullBelow where it sends none. DEDUCED: log entry 75. -/
def Run.fullOf (x : Run) (i : Nat) : Nat :=
  let c := x.v.child i
  if c.dropped.isSome || !x.settledAll i then 0
  else if x.p.isMember i then 1
  else if !x.p.has skReduce || x.v.nseg = 0 then x.fullBelow i
  else c.lastNs
def Run.nFull (x : Run) : Nat := (List.range x.p.kids).foldl (fun n i => n + x.fullOf i) 0

/-- Members at or below child i dropped. -/
def Run.droppedOf (x : Run) (i : Nat) : Nat :=
  if (x.v.child i).dropped.isSome then x.p.countOf i
  else if x.settledAll i then x.p.countOf i - x.fullOf i
  else 0
def Run.nDropped (x : Run) : Nat := (List.range x.p.kids).foldl (fun n i => n + x.droppedOf i) 0

/-- Every live child switch has sent PARTICIPATION; a plan without REDUCE and COUNT hears of no invocation of its
child switches and waits for none. DEDUCED: log entry 230. -/
def Run.blocksIn (x : Run) : Bool :=
  !(x.p.has skReduce || x.p.has skCount) ||
  (List.range x.p.kids).all (fun i =>
    x.p.isMember i || (x.v.child i).dropped.isSome || (x.v.child i).particip.isSome)

/-- Every segment of the invocation has been produced. -/
def Run.allProduced (x : Run) : Bool :=
  x.v.count.isSome && (List.range x.v.nseg).all (fun j => (x.v.seg j).produced)

/-- Every segment has been produced and its packets have left the die. -/
def Run.allSent (x : Run) : Bool :=
  x.allProduced && (List.range x.v.nseg).all (fun j => (x.v.seg j).leaving == 0)

/-- Off the apex, send PARTICIPATION once the last PARTIAL has left, or in DRAIN where the plan sends none, and
the children's blocks are in (R238, R253). -/
def tryParticipation (k : Nat) (s : State) : State :=
  match s.runOf k with
  | none => s
  | some x =>
    let done := if x.p.toParent then (x.v.state == .reduce || x.v.state == .drain) && x.allSent
      else x.v.state == .drain
    if x.v.participSent || x.p.apex || !done || !x.blocksIn then s
    else
      let payload := leBytes 8 x.digest.toNat ++ leBytes 64 x.full.toNat
      let c := { x.coll msgParticipation with exactUp := x.r.exact }
      sendInv x x.p.parentEp.toNat c payload (s.modRun k (fun v => { v with participSent := true }))

/-! ## Steps of the plan (08 R232, R238) -/

/-- Go on with the plan: past COUNT once the count is known, past REDUCE and BCAST once every segment has
been sent, to DRAIN after the last step. SIGNAL and WAIT wait for their own steps. -/
def planStep (k : Nat) : Nat → State → State
  | 0, s => s
  | fuel + 1, s =>
    match s.runOf k with
    | none => s
    | some x =>
      let v := x.v
      let active := v.launched && (v.state == .armed || v.state == .count || v.state == .reduce || v.state == .drain)
      let next (f : Inv → Inv) : State := planStep k fuel (s.modRun k (fun v => f { v with pc := v.pc + 1 }))
      let kind := x.p.kindAt v.pc
      if !active then s
      else if kind = skCount then (if v.count.isSome ∧ v.state ≠ .count then next id else s)
      else if kind = skReduce ∨ kind = skBcast then
        (if v.state ≠ .count ∧ x.allSent then next (fun v => { v with state := .drain }) else s)
      else if kind = 0 ∧ v.state ≠ .drain ∧ v.state ≠ .count then
        -- a plan with neither REDUCE nor BCAST leaves ARMED here
        s.modRun k (fun v => { v with state := .drain
                                      ftcActive := if v.state = .armed then BitVec.ofNat 64 (s.ftcOf v) else v.ftcActive })
      else s

/-- Go on with the plan (at most 17 steps), then with PARTICIPATION. -/
def goOn (k : Nat) (s : State) : State := tryParticipation k (planStep k 20 s)

/-! ## The count phase (08 R243) -/

/-- The count is agreed: COUNT_RESULT goes to the children and the invocation to REDUCE. -/
def countAgreed (k c : Nat) (s : State) : State :=
  let s := s.modRun k (fun v => { v with count := some c, state := .reduce })
  match s.runOf k with
  | none => s
  | some x =>
    let s := s.forEach (List.range x.p.kids) (fun s i => sendInv x (x.p.epOf i) (x.coll msgCountResult) [] s)
    goOn k (retimeAll k false (moveFront k s))

/-- Every child has counted or been dropped: a COUNT goes up, or the apex decides. -/
def countDone (k : Nat) (s : State) : State :=
  match s.runOf k with
  | none => s
  | some x =>
    let live := (List.range x.p.kids).filter (fun i => (x.v.child i).dropped.isNone)
    if x.v.state != .count || live.any (fun i => (x.v.child i).count.isNone) then s
    else
      let infos := (live.filterMap (fun i => (x.v.child i).count)).filter (fun q => q.2.2 != 0)
      let inc : Nat := infos.foldl (fun n q => n + q.2.2) 0
      let big := infos.foldl (fun n q => max n q.1) 0
      let small := match infos with
        | [] => 0
        | q :: qs => qs.foldl (fun n q => min n q.2.1) q.2.1
      if !x.p.apex then
        if x.v.countSent then s
        else
          let c := { x.coll msgCount with count := big, aux := small + 2 ^ 32 * inc }
          sendInv x x.p.parentEp.toNat c [] (s.modRun k (fun v => { v with countSent := true }))
      else if inc = 0 then abortInv k St.memberTimeout 0 none false s
      else if x.r.countMode = 1 ∧ small ≠ big then abortInv k St.mismatchCount 0 none false s
      else countAgreed k big s

/-! ## Drops (08 R246, 11 R338) -/

/-- The port toward a child: the one its route entry names, by the hash default for a set (11 R338). -/
def State.portToward (s : State) (slice ep die : Nat) : Option Nat :=
  let h : PktHdr := { vc := 7, dst := BitVec.ofNat 16 ep, src := s.pkg.selfEp, slice := BitVec.ofNat 8 slice }
  match (if (s.slice slice).valid then routeIndex (s.slice slice) h else none) with
  | none => none
  | some i =>
    let e := s.route i
    if entryKind e = rkPort then some (entryTarget e)
    else if entryKind e = rkSet then
      let live := (s.rset (entryTarget e)).ports.filter (fun p => s.available p h.vc)
      if live.isEmpty then none
      else some (spray h live (s.tile die).seed (fun _ => 0) 0 false).1
    else none

/-- Child i is dropped from segment d onward. -/
def dropChild (k i d : Nat) (s : State) : State :=
  match s.runOf k with
  | none => s
  | some x =>
    let mine (m : LandMsg) : Bool := x.p.childOf m.hdr.src.toNat m.coll == some i && decide (d ≤ m.coll.seg)
    let s := discardHeld x.v mine s
    let s := s.modRun k (fun v =>
      { v.modChild i (fun c => { c with dropped := some d, frozen := none, timerFrom := none, parts := [] })
        with drops := satInc v.drops })
    let s := match s.portToward x.r.slice.toNat (x.p.epOf i) (s.leadOf x.v.group / 8) with
      | some p => s.modPortCntOf p (fun c => { c with ndetDrops := satInc c.ndetDrops })
      | none => s
    let s := statusChild x i St.memberTimeout { seg := d, dropped := true } s
    match s.runOf k with
    | none => s
    | some x =>
      if x.p.apex && (List.range x.p.kids).all (fun i => (x.v.child i).dropped == some 0) then
        abortInv k St.memberTimeout 0 none false s
      else if x.v.state == .count then countDone k s
      else goOn k s

/-- FREEZE_REPLY for child i (09 R273): the drop at the token's value, or its cancelling when a segment
counted after the expiry. -/
def freezeReply (k i : Nat) (s : State) : State :=
  match s.runOf k with
  | none => s
  | some x =>
    let c := x.v.child i
    match c.frozen with
    | none => s
    | some known =>
      if known < c.token then
        retime k i true (s.modRun k (fun v => v.modChild i (fun c => { c with frozen := none })))
      else dropChild k i c.token s

/-! ## Creation (08 R237, 09 R265, R266, 11 R334) -/

/-- An invocation whose launch count had passed at its creation counts in launch_late (11 R334). -/
def countLate (v : Inv) (s : State) : State :=
  s.when v.launchPast (fun s => { s with ftc := { s.ftc with launchLate := satInc s.ftc.launchLate } })

/-- The launch count of a message. -/
def LandMsg.launch (m : LandMsg) : Option Nat := if m.hdr.lc then some m.hdr.launch.toNat else none

/-- Refuse to create an invocation (09 R265, R266). -/
def refuseInv (m : LandMsg) (detail : Nat) (s : State) : State :=
  answer m St.invocLimit detail (s.modGroup m.coll.group (fun x => { x with invocLimit := satInc x.invocLimit }))

/-- Create the invocation that message m names: none where it is refused or its slots are still being
reserved. DEDUCED: log entry 67. -/
def createInv (die : Nat) (m : LandMsg) (r : GroupRec) (p : Plan) (s : State) : Option Nat × State :=
  let engines := (List.range p.engineCount).filterMap (fun i => s.physEngine (p.engineFirst + i))
  let lead := engines.getD 0 0 / 8
  match (List.range 128).find? (fun i => (s.inv (lead * 128 + i)).isNone) with
  | none => (none, refuseInv m 1 (s.dropLanded die m.l.id))
  | some i =>
    let k := lead * 128 + i
    let n := slotsFor r p
    let v : Inv := { group := m.coll.group, step := m.coll.step, state := .armed, createdAt := s.now
                     launch := m.launch, engines := engines
                     launchPast := m.launch.any (fun l => decide (l ≤ s.ftcAt (dieCaldera lead))), strict := s.strictSlice r.slice.toNat
                     reserved := n, reserving := decide (n ≠ 0), creator := m.l.id
                     count := if r.countMode = 0 then some r.count else none }
    let s := s.modInv k (fun _ => some v)
    if n = 0 then (some k, countLate v s) else (none, s)

/-! ## The checks of R244 -/

/-- A late message of child i (08 R248): counted for its port and its STEP, and answered once in the invocation; k
where the invocation still stands. DEDUCED: log entry 66. -/
def lateMsg (m : LandMsg) (k : Option Nat) (p : Plan) (i d : Nat) (goesOn sent : Bool) (s : State) : State :=
  let s := s.modPortCntOf m.l.inPort (fun c => { c with ndetLate := satInc c.ndetLate })
  let mine (e : DropRec) : Bool := e.ep == p.epOf i && e.rank == p.rankOf i
  let s := match k with
    | some k => s.modRun k (fun v => { v.modChild i (fun c => { c with sentLate := true }) with late := satInc v.late })
    | none => s.modGroup m.coll.group (fun x => { x with ended := x.ended.map (fun q =>
        if q.step == m.coll.step then
          { q with late := satInc q.late, drops := q.drops.map (fun e => if mine e then { e with sent := true } else e) }
        else q) })
  if sent then s
  else sendStatus m.coll.group m.coll.step m.hdr.src.toNat St.lateDiscard
    { rank := m.coll.rank, seg := d, dropped := goesOn } (0, 0, 0) s

/-- The drop of child i in STEP step, where that STEP is e - 1 (08 R236). -/
def Group.dropIn (x : Group) (p : Plan) (step i : Nat) : Option DropRec :=
  if (step + 1) % 2 ^ 48 ≠ x.expected then none
  else (x.ended.find? (fun q => q.step == step)).bind (fun q =>
    q.drops.find? (fun e => e.ep == p.epOf i && e.rank == p.rankOf i))

/-- A launch count that differs from that of the creating message counts (11 R334). -/
def countLaunch (v : Inv) (m : LandMsg) (s : State) : State :=
  s.when (v.launch != m.launch) (fun s => { s with ftc := { s.ftc with launchMismatch := satInc s.ftc.launchMismatch } })

/-- Rows 1 to 3 of R244: the child that a message comes from, with its invocation where one is open, or none where the
message has been discarded or waits for the reservation of its invocation. DEDUCED: log entry 79. -/
def admitMsg (die : Nat) (m : LandMsg) (s : State) : Option (Option Nat × Nat) × State :=
  let g := m.coll.group
  let step := m.coll.step
  let gone := s.dropLanded die m.l.id
  let reject (st : Byte) (detail : Nat) : Option (Option Nat × Nat) × State :=
    (none, answer m st detail (countRejected g step gone))
  let late (k : Option Nat) (p : Plan) (i d : Nat) (goesOn sent : Bool) (s : State) : State :=
    if m.coll.msg = msgParticipation then s else lateMsg m k p i d goesOn sent s
  match s.groupRec g, s.groupPlan g with
  | some _, some p =>
    let x := s.group g
    match x.suspended, p.childOf m.hdr.src.toNat m.coll with
    | some st, _ => reject st 0
    | none, none => reject St.notMember 0
    | none, some i =>
      match s.findInv g step with
      | some k =>
        match s.inv k with
        | none => (none, s)
        | some v =>
          let ending := v.state == .abort || v.state == .done
          if v.reserving then (none, s)
          else
            match (v.child i).dropped with
            | some d => (none, late (some k) p i d (!ending) (v.child i).sentLate (countLaunch v m gone))
            | none => if ending then reject St.stepSkew 0 else (some (some k, i), countLaunch v m s)
      | none =>
        let next := (x.expected + 1) % 2 ^ 48
        if step = x.expected ∨ (step = next ∧ !x.skipNext) then (some (none, i), s)
        else match x.dropIn p step i with
          | some e => (none, late none p i e.d false e.sent gone)
          | none => reject St.stepSkew 0
  | _, _ => reject St.groupBad 5

/-- A member's COUNT breaks the rules of R243 step 1. -/
def countBad (r : GroupRec) (n : Nat) : Bool :=
  decide (n > r.count) || n % etMultiple r.etype.toNat != 0 || (n == 0 && r.countMode != 2)

/-- Rows 4 to 7 of R244 for CONTRIB, PARTIAL and COUNT: the status of the first that fails, and its number among the
statuses. -/
def rows47 (r : GroupRec) (p : Plan) (i : Nat) (m : LandMsg) : Option (Byte × Nat) :=
  let c := m.coll
  let badCount :=
    if c.msg = msgContrib then r.countMode = 0 ∧ c.count ≠ r.count
    else c.msg = msgCount ∧ p.isMember i ∧ countBad r c.count
  if c.msg = msgParticipation then none
  else if c.op ≠ r.op.toNat then some (St.mismatchOp, 0)
  else if c.etype ≠ r.etype.toNat then some (St.mismatchType, 1)
  else if badCount then some (St.mismatchCount, 2)
  else if c.msg = msgPartial ∧ c.exactUp ≠ r.exact then some (St.mismatchType, 1)
  else none

/-- A mismatch is counted for each message: in its invocation, where each status is answered once for each member, or
in the group where none exists (08 R244, R256). DEDUCED: log entry 224. -/
def mismatch (k : Option Nat) (i : Nat) (m : LandMsg) (st : Byte) (bit : Nat) (s : State) : State :=
  match k with
  | none => answer m st 0 (s.modGroup m.coll.group (fun x => { x with mismatches := satInc x.mismatches }))
  | some k =>
    match s.inv k with
    | none => s
    | some v =>
      let sent := (v.child i).sentMismatch.getLsbD bit
      let s := s.modRun k (fun v =>
        { v.modChild i (fun c => { c with sentMismatch := setBit c.sentMismatch bit true })
          with mismatches := satInc v.mismatches })
      if sent then s else answer m st 0 s

/-- Handle a message of CONTRIB, PARTIAL, COUNT or PARTICIPATION: rows 1 to 3, rows 4 to 7, the creation of R237, then
f on the invocation. A message that rows 4 to 7 turn away creates none. DEDUCED: log entry 68. -/
def checkThen (die : Nat) (m : LandMsg) (f : Nat → Nat → Run → State → State) (s : State) : State :=
  match admitMsg die m s with
  | (none, s) => s
  | (some (k, i), s) =>
    match s.groupRec m.coll.group, s.groupPlan m.coll.group with
    | some r, some p =>
      match rows47 r p i m with
      | some (st, b) => mismatch k i m st b (s.dropLanded die m.l.id)
      | none =>
        let (k, s) := match k with
          | some k => (some k, s)
          | none => createInv die m r p s
        match k.bind s.runOf, k with
        | some x, some k => f k i x s
        | _, _ => s
    | _, _ => s

/-! ## Segments that arrive (08 R236, R239, R243, R252, 09 R271) -/

/-- Count a discarded segment in the invocation. -/
def countSeg (k : Nat) (f : Inv → Inv) (s : State) : State := s.modRun k f
def Inv.addCreditViol (v : Inv) : Inv := { v with creditViol := satInc v.creditViol }
def Inv.addDup (v : Inv) : Inv := { v with dup := satInc v.dup }
def Inv.addMalformed (v : Inv) : Inv := { v with malformed := satInc v.malformed }

/-- esc_count and n_s of a PARTIAL (08 R227). -/
def escOf (c : Coll) : Nat := bitsOf c.aux 32 13
def nsOf (c : Coll) : Nat := bitsOf c.aux 0 17

/-- Elements of escape records in a part. -/
def recordElems (payload : List Byte) : List Nat :=
  (chunks 96 170 payload).map (fun r => fieldOf r 85 2 % 4096)

/-- A list rises strictly. -/
def rises : List Nat → Bool
  | [] => true
  | [_] => true
  | a :: b :: l => decide (a < b) && rises (b :: l)

/-- A part of an EXACT-UP segment of n elements is well formed (08 R252). -/
def partOk (n : Nat) (m : LandMsg) : Bool :=
  let e := escOf m.coll
  let p := m.coll.part
  let len := m.payload.length
  if p = 0 then len == 8 * min n 2048
  else if p = 1 then decide (2048 < n) && len == 8 * (n - 2048)
  else decide (p < 2 + (e + 169) / 170) && len == 96 * min 170 (e - 170 * (p - 2)) && rises (recordElems m.payload)

/-- The parts that a segment of n elements with e escape records has. -/
def partsOf (n e : Nat) : List Nat :=
  [0] ++ (if 2048 < n then [1] else []) ++ (List.range ((e + 169) / 170)).map (fun i => i + 2)

/-- All parts have arrived. -/
def partsIn (n : Nat) (q : Nat × Nat × List (Nat × Nat)) : Bool :=
  (partsOf n q.2.1).all (fun p => q.2.2.any (fun e => e.1 == p))

/-- A part of child i's segment j (08 R252). DEDUCED: log entry 70. -/
def takePart (die k i n : Nat) (m : LandMsg) (s : State) : State :=
  match s.inv k with
  | none => s
  | some v =>
    let j := m.coll.seg
    let e := escOf m.coll
    let c := v.child i
    let old := c.parts.find? (fun q => q.1 == j)
    let bad := !partOk n m || (match old with
      | some q => q.2.1 != e
      | none => false)
    let ids := match old with
      | some q => q.2.2.map Prod.snd
      | none => []
    let others := c.parts.filter (fun q => q.1 != j)
    if bad then
      let s := (s.dropLanded die m.l.id).forEach ids (fun s id => s.dropLanded die id)
      countSeg k (fun v => (v.modChild i (fun c => { c with parts := others })).addMalformed) s
    else
      match old with
      | some q =>
        if q.2.2.any (fun x => x.1 == m.coll.part) then s.dropLanded die m.l.id
        else
          let s := s.modLanded die m.l.id (fun l => { l with phase := .waiting })
          s.modRun k (fun v => v.modChild i (fun c =>
            { c with parts := (j, e, q.2.2 ++ [(m.coll.part, m.l.id)]) :: others }))
      | none =>
        let s := s.modLanded die m.l.id (fun l => { l with phase := .waiting })
        bindSeg k j (s.modRun k (fun v => v.modChild i (fun c =>
          { c with parts := (j, e, [(m.coll.part, m.l.id)]) :: others })))

/-- A copy of child i's segment j waits in landing. DEDUCED: log entry 71. -/
def segWaits (x : Run) (i j : Nat) (s : State) : Bool :=
  (List.range 8).any (fun d => (s.caldera d).landing.any (fun l =>
    isHeldSeg x.v l && l.read.coll.seg == j && x.p.childOf l.read.hdr.src.toNat l.read.coll == some i))

/-- A segment, or a part of one, from child i (08 R236, R239, R243). -/
def takeSegment (die : Nat) (m : LandMsg) (k i : Nat) (x : Run) (s : State) : State :=
  let c := x.v.child i
  let j := m.coll.seg
  let out (f : Inv → Inv) : State := countSeg k f (s.dropLanded die m.l.id)
  match x.v.count with
  | none => out Inv.addCreditViol
  | some total =>
    let own := if x.p.isMember i ∧ x.r.countMode = 2 then (c.count.map Prod.fst).getD total else total
    let n := segElems own j
    if x.v.state == .count || decide (x.limitOf i < j) then out Inv.addCreditViol
    else if j < c.token then out Inv.addDup
    else if n = 0 then out Inv.addMalformed
    else if m.coll.msg = msgPartial ∧ m.coll.exactUp then takePart die k i n m s
    else if m.payload.length ≠ segLen x.r.etype.toNat n ∨ (m.coll.msg = msgPartial ∧ m.coll.part ≠ 0) then
      out Inv.addMalformed
    else if segWaits x i j s then out Inv.addDup
    else bindSeg k j (s.modLanded die m.l.id (fun l => { l with phase := .waiting }))

/-- CONTRIB (08 R239, R244). DEDUCED: log entry 69. -/
def contrib (die : Nat) (m : LandMsg) (s : State) : State :=
  checkThen die m (fun k i x s => takeSegment die m k i x s) s

/-- PARTIAL (08 R244, R252). -/
def partial_ (die : Nat) (m : LandMsg) (s : State) : State :=
  checkThen die m (fun k i x s => takeSegment die m k i x s) s

/-- A COUNT of child i is collected (08 R243). -/
def takeCount (die : Nat) (m : LandMsg) (k i : Nat) (x : Run) (s : State) : State :=
  let s := s.dropLanded die m.l.id
  let c := m.coll
  if (x.v.child i).count.isSome || !(x.v.state == .armed || x.v.state == .count) then s
  else
    let q := if x.p.isMember i then (c.count, c.count, 1) else (c.count, bitsOf c.aux 0 32, bitsOf c.aux 32 17)
    let s := s.modRun k (fun v => v.modChild i (fun y => { y with count := some q }))
    countDone k (retime k i true s)

/-- COUNT (08 R242, R243). Under FIXED it is malformed and creates no invocation. -/
def countMsg (die : Nat) (m : LandMsg) (s : State) : State :=
  match s.groupRec m.coll.group with
  | some r =>
    if r.countMode = 0 then countMalformed m.coll.group m.coll.step (s.dropLanded die m.l.id)
    else checkThen die m (fun k i x s => takeCount die m k i x s) s
  | none => checkThen die m (fun k i x s => takeCount die m k i x s) s

/-- PARTICIPATION (08 R253); as a message from a child it may create its invocation (R237). DEDUCED: log entry 78. -/
def participation (die : Nat) (m : LandMsg) (s : State) : State :=
  checkThen die m (fun k i _ s =>
    let s := s.dropLanded die m.l.id
    if m.payload.length ≠ 72 then countSeg k Inv.addMalformed s
    else
      let q : Particip := { digest := BitVec.ofNat 64 (fieldOf m.payload 0 8)
                            full := BitVec.ofNat 512 (fieldOf m.payload 8 64) }
      goOn k (s.modRun k (fun v => v.modChild i (fun c => { c with particip := some q })))) s

/-- Handle a message by its kind, once its invocation has its slots. -/
def handleMsg (die : Nat) (m : LandMsg) (s : State) : State :=
  if m.coll.msg = msgContrib then contrib die m s
  else if m.coll.msg = msgPartial then partial_ die m s
  else if m.coll.msg = msgCount then countMsg die m s
  else if m.coll.msg = msgParticipation then participation die m s
  else s

/-- SLOT_RESERVATION_DONE for invocation k (09 R266): every engine has answered. -/
def reservationDone (k : Nat) (s : State) : State :=
  match s.inv k with
  | none => s
  | some v =>
    if !v.reserving then s
    else
      let die := ((List.range 8).find? (fun d => (s.landed d v.creator).isSome)).getD 0
      if v.engines.all (fun e => decide ((s.engine e).slotsUsed + v.reserved ≤ 72)) then
        let s := s.forEach v.engines (fun s e => s.modEngine e (fun x => x.reserve k v.reserved))
        let s := countLate v (s.modRun k (fun v => { v with reserving := false }))
        match s.landed die v.creator with
        | some l => handleMsg die l.read s
        | none => s
      else
        let s := s.modInv k (fun _ => none)
        match s.landed die v.creator with
        | some l => refuseInv l.read 2 (s.dropLanded die v.creator)
        | none => s

/-! ## Launch (08 R237, R238, 11 R334, 02 R42) -/

/-- INVOCATION_LAUNCH of invocation k. launch_far counts where its hold ended at launch_max, whenever it launches.
DEDUCED: log entry 77. -/
def invLaunch (k : Nat) (s : State) : State :=
  match s.runOf k with
  | none => s
  | some x =>
    let v := x.v
    if v.state != .armed || v.launched || v.reserving || decide (v.step ≠ (s.group v.group).expected) ||
        (s.holdOf v).isNone || s.halted then s
    else
      let s := if s.holdOf v = some true then s else { s with ftc := { s.ftc with launchFar := satInc s.ftc.launchFar } }
      let st : InvState :=
        if x.p.kindAt 0 = skCount then .count
        else if x.p.has skReduce || x.p.has skBcast then .reduce else .armed
      let s := s.modRun k (fun v =>
        { v with launched := true, state := st
                 ftcActive := if st = .armed then v.ftcActive else BitVec.ofNat 64 (s.ftcOf v) })
      let s := if v.reserved = 0 then s else askStarts v s
      goOn k (countDone k (retimeAll k true (moveFront k s)))

/-! ## Messages from the parent and the tree -/

/-- CREDIT, COUNT_RESULT or STATUS for an open invocation. A group without a lead engine counts it (08 R256, 09 R261),
and a suspended one answers it (08 R234); fromParent where its sender is the parent. -/
def treeMsg (die : Nat) (m : LandMsg) (f : Nat → Run → Bool → State → State) (s : State) : State :=
  let s := s.dropLanded die m.l.id
  match s.groupRec m.coll.group, s.groupPlan m.coll.group, (s.group m.coll.group).suspended with
  | some _, some p, none =>
    match (s.findInv m.coll.group m.coll.step).bind (fun k => (s.runOf k).map (fun x => (k, x))) with
    | none => s
    | some (k, x) => f k x (!p.apex && m.hdr.src == p.parentEp) s
  | some _, some _, some st => answer m st 0 s
  | _, _, _ => countRejected m.coll.group m.coll.step s

/-- COUNT_RESULT (08 R243). -/
def countResult (die : Nat) (m : LandMsg) (s : State) : State :=
  treeMsg die m (fun k x up s =>
    if up && x.v.state == .count then countAgreed k m.coll.count s else s) s

/-- CREDIT (08 R236). -/
def creditMsg (die : Nat) (m : LandMsg) (s : State) : State :=
  treeMsg die m (fun k _ up s =>
    if up then s.modRun k (fun v => { v with parentLimit := some (max m.coll.seg (v.parentLimit.getD 0)) })
    else s) s

/-- STATUS (08 R247, R250): an aborting one for an open invocation aborts it here; one that does not abort
changes nothing at a switch. DEDUCED: log entry 193. -/
def statusMsg (die : Nat) (m : LandMsg) (s : State) : State :=
  treeMsg die m (fun k x up s =>
    let b := m.payload
    let child := x.p.childOf m.hdr.src.toNat m.coll
    if !up && child.isNone then s
    else if b.length ≠ 16 ∨ !statusKnown (byteAt b 0) then countSeg k Inv.addMalformed s
    else if (byteAt b 1).getLsbD 1 then
      abortInv k (byteAt b 0) (fieldOf b 2 2) (if up then none else child) up s
    else s) s

/-! ## The audit record (08 R254 to R257) -/

/-- Drop entries of local members, in ascending rank. -/
def Run.localDrops (x : Run) : List (Nat × Nat) :=
  let l := (List.range x.p.locals_.length).filterMap (fun i =>
    (x.v.child i).dropped.map (fun d => (x.p.rankOf i, d)))
  (List.range (x.r.members)).filterMap (fun rank => l.find? (fun e => e.1 == rank))

/-- A drop entry. -/
def dropEntry (e : Nat × Nat) : List Byte := leBytes 8 (e.1 + 2 ^ 16 * (e.2 % 2 ^ 20))

/-- The extension entry's address, where one is written (R257). -/
def Run.extAddr (x : Run) : Option Nat :=
  if 7 < x.localDrops.length ∧ x.r.auditExt ≠ 0 ∧ x.r.extEntries ≠ 0 then
    some (x.r.auditExt.toNat + 4096 * (x.v.step % x.r.extEntries))
  else none

/-- The status of the record: the abort cause, OK_DROPPED or OK (R246). -/
def Run.auditStatus (x : Run) : Byte :=
  if x.v.state = .abort then x.v.status
  else if x.nDropped ≠ 0 then St.okDropped else St.ok

/-- The audit record (R255). -/
def Run.audit (x : Run) (ftcEnd : Nat) : List Byte :=
  let v := x.v
  let drops := x.localDrops
  let flags := b2n x.p.apex + 2 * b2n (decide (512 < x.r.members)) + 4 * b2n x.extAddr.isSome +
    8 * b2n (decide (7 < drops.length) && x.extAddr.isNone) + 16 * b2n v.strict
  let crc := crc32c ((List.range v.nseg).flatMap (fun j => (v.seg j).sentBytes))
  [0xA0, 4] ++ leBytes 2 v.group ++ leBytes 6 v.step ++ leBytes 2 x.p.planVer.toNat ++ [x.auditStatus] ++
  leBytes 1 flags ++ leBytes 1 (x.p.tier.toNat + 16 * (if v.state = .abort then 6 else 5)) ++ [x.r.modes] ++
  leBytes 1 x.r.op.toNat ++ leBytes 1 x.r.etype.toNat ++ leBytes 1 x.r.rtype.toNat ++ [0] ++
  leBytes 4 (v.count.getD 0) ++ leBytes 4 x.r.seedId.toNat ++ leBytes 4 x.nFull ++ leBytes 4 x.nDropped ++
  leBytes 4 crc.toNat ++ leBytes 8 v.ftcActive.toNat ++ leBytes 8 ftcEnd ++ leBytes 4 v.nseg ++ zeros 4 ++
  leBytes 4 v.adaptive.toNat ++ leBytes 4 v.drops.toNat ++ leBytes 4 v.late.toNat ++
  leBytes 4 v.arith.convOvf.toNat ++ leBytes 4 v.arith.ovfConflict.toNat ++ leBytes 4 v.arith.underFlush.toNat ++
  leBytes 4 v.arith.nanResults.toNat ++ leBytes 4 v.arith.mxNanBlocks.toNat ++ leBytes 4 v.arith.xpBad.toNat ++
  leBytes 4 v.arith.promotions.toNat ++ leBytes 8 x.digest.toNat ++ leBytes 8 (x.extAddr.getD 0) ++
  leBytes 2 v.dup.toNat ++ leBytes 2 v.creditViol.toNat ++ leBytes 2 v.malformed.toNat ++
  leBytes 2 v.mismatches.toNat ++ leBytes 64 x.full.toNat ++ leBytes 2 drops.length ++ zeros 6 ++
  padTo 56 ((drops.take 7).flatMap dropEntry)

/-- The body of cell 0 shows a packet of this switch for the invocation, a PARTIAL or a RESULT. -/
def State.isOurs (s : State) (g step : Nat) (b : List Byte) : Bool :=
  let h := slotHdr b
  let c := parseColl (sliceOf b 32 32)
  h.src == s.pkg.selfEp && (h.vc == 1 || h.vc == 2) && (c.msg == msgPartial || c.msg == msgResult) &&
    c.group == g && c.step == step

/-- A PARTIAL or RESULT of the invocation has not left the switch: it is on its die, in the fabric, at a
tile or in an output queue (R254). -/
def State.stillInside (s : State) (v : Inv) : Bool :=
  let ours := s.isOurs v.group v.step
  let cell (c : FabCell) : Bool := c.data && c.index == 0 && ours c.body
  let pkt (q : QPkt) : Bool := ours (headerSlot q.hdr q.coll)
  v.segs.any (fun e => decide (e.1 < 2 ^ 20) && e.2.leaving != 0) ||
  s.fabric.latches.any (fun e => e.2.any cell) || s.fabric.toPlane.any (fun e => e.2.any cell) ||
  s.fabric.toPort.any (fun e => decide (e.1 < 16) && e.2.any (fun c => cell c.2)) ||
  s.tiles.any (fun e => e.2.reasm.any (fun r => ours (tget [] r.got 0))) ||
  s.out.any (fun e => e.2.queue.any pkt || e.2.prog.any (fun g => pkt g.pkt))

/-- The record may be written: every step of the plan is done, or the invocation aborted (R238). -/
def Run.auditDue (x : Run) : Bool :=
  x.v.state == .abort ||
  (x.v.state == .drain && x.p.kindAt x.v.pc == 0 && x.blocksIn &&
    (x.p.apex || x.v.participSent))

/-- What the group keeps of an invocation that ends: its drops and late_discards, as long as a message may still name
its STEP (08 R236, R246, R248). DEDUCED: log entry 229. -/
def keepEnded (x : Run) (s : State) : State :=
  let v := x.v
  let drops := (List.range x.p.kids).filterMap (fun i =>
    (v.child i).dropped.map (fun d =>
      ({ ep := x.p.epOf i, rank := x.p.rankOf i, d := d, sent := (v.child i).sentLate } : DropRec)))
  s.modGroup v.group (fun g =>
    let near (q : Ended) : Bool := (q.step + 1) % 2 ^ 48 == g.expected || q.step == g.expected ||
      q.step == (g.expected + 1) % 2 ^ 48
    { g with ended := ({ step := v.step, late := v.late, drops := drops } :: g.ended).filter near })

/-- The record is written: the invocation is DONE, or its abort ends, and it is free. -/
def endInv (k : Nat) (x : Run) (s : State) : State :=
  let s := freeInv k s
  keepEnded x (if x.v.state == .abort then s else stepEnded x.v.group x.v.step s)

/-- Write the extension entry of an invocation, where it has one (R257). -/
def writeExt (x : Run) (s : State) : State :=
  match x.extAddr with
  | some a => s.hostWrite a (x.localDrops.flatMap dropEntry)
  | none => s

/-- AUDIT_WRITE of invocation k (R254, R257, 12 R361, R362): the record is written when its ring has room
and no earlier record of the ring waits; where the ring is not enabled it is lost. DEDUCED: log entry 73.
DEDUCED: log entry 74. -/
def auditWrite (k : Nat) (s : State) : State :=
  match s.runOf k with
  | none => s
  | some x =>
    let r := x.r.ring.toNat
    let g := s.ring r
    if !x.auditDue || s.stillInside x.v then s
    else if !g.enable || g.kind != 1 then endInv k x (writeExt x s).lostRecord
    else
      let first := g.audits.isEmpty || g.audits.head? == some k
      if first && g.room 4 false then
        endInv k x ((writeExt x s).putRecord r (x.audit (s.ftcOf x.v)))
      else if g.audits.contains k then s
      else (s.modRing r (fun g => { g with audits := g.audits ++ [k] })).modRun k (fun v => { v with auditWaits := true })

/-! ## Credits (09 R267) -/

/-- CREDIT_SEND to child i of invocation k. -/
def creditSend (k i : Nat) (s : State) : State :=
  match s.runOf k with
  | none => s
  | some x =>
    let c := x.v.child i
    let paced := match c.creditAt with
      | some a => decide (s.now < a + 500)
      | none => false
    if i ≥ x.p.kids || x.v.state != .reduce || x.settledAll i || paced ||
        decide (x.v.front ≤ c.creditFront) || x.v.nseg = 0 then s
    else
      let lim := min (x.v.front + x.r.creditWindow - 1) (x.v.nseg - 1)
      let s := s.modRun k (fun v => v.modChild i (fun c =>
        { c with limit := some (max lim (x.limitOf i)), creditAt := some s.now, creditFront := v.front }))
      let m := { x.coll msgCredit with seg := lim, rank := x.p.rankOf i }
      retime k i false (sendInv x (x.p.epOf i) m [] s)

/-! ## The commands -/

/-- Run f on a checked message of a kind. -/
def onMsg (die id msg : Nat) (f : Nat → LandMsg → State → State) (s : State) : State :=
  match s.checkedMsg die id msg with
  | some m => f die m s
  | none => s

/-- CONTRIB (08 R239). -/
def execContrib (t die id : Nat) (s : State) : Out := run (decide (die < 8)) t (onMsg die id msgContrib contrib) s

/-- PARTIAL (08 R252). -/
def execPartial (t die id : Nat) (s : State) : Out := run (decide (die < 8)) t (onMsg die id msgPartial partial_) s

/-- COUNT (08 R243). -/
def execCount (t die id : Nat) (s : State) : Out := run (decide (die < 8)) t (onMsg die id msgCount countMsg) s

/-- COUNT_RESULT (08 R243). -/
def execCountResult (t die id : Nat) (s : State) : Out :=
  run (decide (die < 8)) t (onMsg die id msgCountResult countResult) s

/-- CREDIT (08 R236). -/
def execCredit (t die id : Nat) (s : State) : Out := run (decide (die < 8)) t (onMsg die id msgCredit creditMsg) s

/-- STATUS (08 R247). -/
def execStatus (t die id : Nat) (s : State) : Out := run (decide (die < 8)) t (onMsg die id msgStatus statusMsg) s

/-- PARTICIPATION (08 R253). -/
def execParticipation (t die id : Nat) (s : State) : Out :=
  run (decide (die < 8)) t (onMsg die id msgParticipation participation) s

/-- SLOT_RESERVATION_DONE (09 R266). -/
def execSlotReservationDone (t k : Nat) (s : State) : Out := run (decide (k < 1024)) t (onLead k (reservationDone k)) s

/-- INVOCATION_LAUNCH (11 R334). -/
def execInvocationLaunch (t k : Nat) (s : State) : Out := run (decide (k < 1024)) t (onLead k (invLaunch k)) s

/-- CREDIT_SEND (09 R267). -/
def execCreditSend (t k i : Nat) (s : State) : Out :=
  run (decide (k < 1024) && decide (i < 1023)) t (onLead k (creditSend k i)) s

/-- FREEZE_REPLY (09 R273). -/
def execFreezeReply (t k i : Nat) (s : State) : Out :=
  run (decide (k < 1024) && decide (i < 1023)) t (onLead k (freezeReply k i)) s

/-- AUDIT_WRITE (08 R254). -/
def execAuditWrite (t k : Nat) (s : State) : Out := run (decide (k < 1024)) t (onLead k (auditWrite k)) s

end Sys2Proof.Machine
end

