-- ==== Sys2Proof/Machine/Segments.lean ====
section
/-! DEFINITION. The segments of an invocation: their adds into the basin, the magma records, their
production and the freeing of their slots (07 R201 to R224, 08 R239 to R241, R251, R252, 09 R271 to R279). -/

namespace Sys2Proof.Machine

/-! ## Adding (08 R239, 09 R271, R272, R274) -/

/-- A landed packet waits as a segment, its add not waiting for a record. -/
def isWaiting (l : Landed) : Bool :=
  match l.phase with
  | .waiting => true
  | _ => false

/-- The parts of child i's segment j, in rising part number. -/
def Child.partsOfSeg (c : Child) (j : Nat) : List (Nat × Nat) :=
  match c.parts.find? (fun q => q.1 == j) with
  | some q => (List.range 27).filterMap (fun p => q.2.2.find? (fun e => e.1 == p))
  | none => []

/-- The elements of child i's segment j: the member's own under PAD, the invocation's otherwise (08 R243). -/
def Run.elemsOf (x : Run) (i j : Nat) : Nat :=
  let total := x.v.count.getD 0
  if x.p.isMember i && x.r.countMode == 2 then segElems (((x.v.child i).count.map Prod.fst).getD total) j
  else segElems total j

/-- The weight of child i (07 R200, 08 R231): that of its member entry for WSUM, 1 otherwise. -/
def Run.weightOf (x : Run) (i : Nat) : Val :=
  let et := x.r.etype.toNat
  match x.p.locals_[i]? with
  | some m =>
    if x.r.op.toNat ≠ opWsum then Val.one
    else if etMx et then (decodeElem et (bitsOf m.weight.toNat 0 8)).scale (bitsOf m.weight.toNat 8 8)
    else decodeElem et (bitsOf m.weight.toNat 0 (8 * etSize et))
  | none => Val.one

/-- A segment with the contribution of child i added: its entries or bytes, and the counts it moves. -/
structure Added where
  seg : Seg
  arith : Arith
  records : Nat
  deriving DecidableEq, Repr

/-- The escape records of a part (07 R203). -/
def escapesOf (payload : List Byte) : List (Nat × Int × Nat) :=
  (chunks 96 170 payload).map (fun r =>
    (fieldOf r 85 2 % 4096, signedOf 672 (fieldOf r 0 84), (byteAt r 84).toNat))

/-- A plan that reduces by EXPAND: the spec names no result of combining such contributions. DESIGN CHOICE:
log entry 196. -/
def Run.openResult (x : Run) : Bool := x.r.op.toNat == opExpand && !x.p.source

/-- Child i is the source of a BCAST SOURCE: only its segments are passed on (08 R241). DEDUCED: log entry 226. -/
def Run.isSource (x : Run) (i : Nat) : Bool := x.p.source && x.p.rootIdx == some i

/-- Add child i's segment j. msgs are its packets, in part order (07 R199 to R209, R219 to R222). -/
def Run.addSeg (x : Run) (i j : Nat) (msgs : List LandMsg) : Added :=
  let g := x.v.seg j
  let op := x.r.op.toNat
  let et := x.r.etype.toNat
  let total := segElems (x.v.count.getD 0) j
  let partial_ := !x.p.isMember i
  let ns := match msgs with
    | m :: _ => if partial_ then nsOf m.coll else 1
    | [] => 0
  let payload := (msgs.map (fun m => m.payload)).headD []
  let g := { g with counted := g.counted ++ [i], nS := if x.p.source && !x.isSource i then g.nS else g.nS + ns }
  if x.p.source then { seg := if x.isSource i then { g with bytes := payload } else g, arith := {}, records := 0 }
  else if x.openResult then { seg := { g with contribs := tset [] g.contribs i payload }, arith := {}, records := 0 }
  else if opBitwise op then
    let base := if g.bytes.isEmpty then padBytes op et 0 total [] else g.bytes
    let bytes := if ns = 0 then base else addBytes op base (padBytes op et (x.elemsOf i j) total payload)
    { seg := { g with bytes := bytes }, arith := {}, records := 0 }
  else
    let es := if g.entries.isEmpty then List.replicate total {} else g.entries
    let (new, a) :=
      if ns = 0 then (es, {})
      else if partial_ && x.r.exactUp then
        let words := (msgs.filter (fun m => decide (m.coll.part < 2))).flatMap (fun m => m.payload)
        let recs := (msgs.filter (fun m => decide (2 ≤ m.coll.part))).flatMap (fun m => escapesOf m.payload)
        addWords op et words recs es
      else if partial_ then addElements op et total Val.one 0 payload es
      else addElements op et (x.elemsOf i j) (x.weightOf i) x.r.scaleExp payload es
    let n := promotionsOf es new
    { seg := { g with entries := new }, arith := { a with promotions := satAdd a.promotions n }, records := n }

/-- Commit an add: the segment counts, its packets leave landing and the token passes on (09 R272). -/
def commitAdd (k i j : Nat) (ids : List Nat) (q : Added) (s : State) : State :=
  match s.inv k with
  | none => s
  | some v =>
    let e := v.engineOf j
    let old := if (v.seg j).entries.isEmpty then List.replicate q.seg.entries.length {} else (v.seg j).entries
    let (es, magma) := if q.records = 0 then (q.seg.entries, (s.caldera (e / 8)).magma)
      else takeMagma k j old q.seg.entries (s.caldera (e / 8)).magma
    let s := s.forEach ids (fun s id => s.dropLanded (e / 8) id)
    let s := s.modEngine e (fun x => { x with arith := x.arith.plus q.arith })
    let s := s.modCaldera (e / 8) (fun c => { c with magma := magma })
    let ns := q.seg.nS - (v.seg j).nS
    let s := s.modRun k (fun v =>
      { (v.modChild i (fun c =>
          { c with token := j + 1, lastNs := ns, parts := c.parts.filter (fun p => p.1 != j) })).modSeg j
          (fun _ => { q.seg with entries := es })
        with arith := v.arith.plus q.arith })
    retime k i true s

/-- The packets of a waiting segment: itself, or every part of an EXACT-UP segment once all are in. -/
def Run.packetsOf (x : Run) (i : Nat) (m : LandMsg) : Option (List Nat) :=
  if m.coll.exactUp && !x.p.isMember i then
    let j := m.coll.seg
    let c := x.v.child i
    match c.parts.find? (fun q => q.1 == j) with
    | some q => if partsIn (segElems (x.v.count.getD 0) j) q then some ((c.partsOfSeg j).map Prod.snd) else none
    | none => none
  else some [m.l.id]

/-- A record is free for each promotion of the add, and no add waits for one (09 R279). -/
def Caldera.recordsFor (c : Caldera) (n : Nat) : Bool := n == 0 || decide (c.magmaUsed + n ≤ 65536)

/-- An add of the die waits for a record. -/
def Caldera.magmaWaits (c : Caldera) : Bool := c.landing.any (fun l =>
  match l.phase with
  | .magma _ => true
  | _ => false)

/-- What a waiting packet would add now: invocation, child, segment, packets and effect. Nothing where
its token has not come, its engine does not run, or a part is missing. -/
def State.addOf (s : State) (die : Nat) (l : Landed) : Option (Nat × Nat × Nat × List Nat × Added) :=
  let m := l.read
  match s.findInv m.coll.group m.coll.step with
  | none => none
  | some k =>
    match s.runOf k with
    | none => none
    | some x =>
      match x.p.childOf m.hdr.src.toNat m.coll with
      | none => none
      | some i =>
        let j := m.coll.seg
        let c := x.v.child i
        if x.v.state != .reduce || !x.v.launched || c.dropped.isSome || decide (c.token ≠ j) || !(s.engine (x.v.engineOf j)).running then none
        else
          match x.packetsOf i m with
          | none => none
          | some ids =>
            let msgs := ids.filterMap (fun id => (s.landed die id).map Landed.read)
            some (k, i, j, ids, x.addSeg i j msgs)

/-- An aborting STATUS for invocation k comes in this cycle (08 R250). -/
def State.abortComes (s : State) (k : Nat) : Bool := s.sameCycle (fun c => match c with
  | .status t die id =>
    t == s.now && (match s.checkedMsg die id msgStatus, s.runOf k with
      | some m, some x =>
        let up := !x.p.apex && m.hdr.src == x.p.parentEp
        m.coll.group == x.v.group && m.coll.step == x.v.step && (s.group x.v.group).suspended.isNone &&
          (up || (x.p.childOf m.hdr.src.toNat m.coll).isSome) && m.payload.length == 16 &&
          statusKnown (byteAt m.payload 0) && (byteAt m.payload 1).getLsbD 1
      | _, _ => false)
  | _ => false)

/-- A row of a bank of a Caldera die cannot be read: every invocation that holds it ends (13 R392). -/
def rowLost (die bank row : Nat) (s : State) : State :=
  s.forEach (s.rowHolders die bank row) (fun s k => abortInv k St.calderaLost 0 none false s)

/-- The reads of segment j of invocation k before an add, or before it is produced, and the residues of the add: whether
it goes on (13 R392, R393). ids: the landed packets of the add, which an unreadable row of the landing banks discards. -/
def segReads (die k j : Nat) (ids : List Nat) (flaw : Flaw) (s : State) : Bool × State :=
  let d := dieCaldera die
  let e := (((s.inv k).map (fun v => v.engineOf j)).getD 0) % 8
  match flaw with
  | .residue =>
    let s := s.modDie d (fun x => { x with residueErr := satInc x.residueErr })
    (false, abortInv k St.calderaLost 0 none false (s.raise d (srcEngResidue e)))
  | _ =>
    let (good, s) := sramRead d (srcEngUe e) flaw s
    if good then (true, s)
    else match flaw with
      | .shared bank row =>
        (false, if bankArea bank == .landing then s.forEach ids (fun s id => s.dropLanded die id) else rowLost die bank row s)
      | _ => (false, abortInv k St.calderaLost 0 none false s)

/-- SEGMENT_ADD of a waiting packet (09 R272). flaw: what the basin and the adders find (13 R392, R393).
DEDUCED: log entry 61. -/
def segmentAdd (die id : Nat) (flaw : Flaw) (s : State) : State :=
  match s.landed die id with
  | none => s
  | some l =>
    if !isWaiting l || s.halted then s
    else
      match s.addOf die l with
      | none => s
      | some (k, i, j, ids, q) =>
        let (good, s) := segReads die k j ids flaw s
        if !good then s
        else if s.abortComes k then s.forEach ids (fun s id => s.dropLanded die id)
        else if q.records ≠ 0 ∧ ((s.caldera die).magmaWaits ∨ !(s.caldera die).recordsFor q.records) then
          s.modLanded die id (fun l => { l with phase := .magma s.now })
        else commitAdd k i j ids q s

/-- The add that has waited longest for a record on a die. -/
def Caldera.firstMagma (c : Caldera) : Option (Nat × Landed) :=
  c.landing.foldl (fun best l =>
    match l.phase, best with
    | .magma t, some (b, _) => if t < b then some (t, l) else best
    | .magma t, none => some (t, l)
    | _, _ => best) none

/-- MAGMA_RECORD_GRANT on a die: the oldest waiting add goes on once its records are free (09 R279), as a SEGMENT_ADD
does. -/
def magmaGrant (die : Nat) (flaw : Flaw) (s : State) : State :=
  match (s.caldera die).firstMagma with
  | none => s
  | some (_, l) =>
    match s.addOf die l with
    | none => s
    | some (k, i, j, ids, q) =>
      if !(s.caldera die).recordsFor q.records || s.halted then s
      else
        let (good, s) := segReads die k j ids flaw s
        if !good then s
        else if s.abortComes k then s.forEach ids (fun s id => s.dropLanded die id)
        else commitAdd k i j ids q s

/-- MAGMA_WAIT_EXPIRY of a waiting add (09 R279). DEDUCED: log entry 191. -/
def magmaExpiry (die id : Nat) (s : State) : State :=
  match s.landed die id with
  | none => s
  | some l =>
    match l.phase with
    | .magma since =>
      if !s.past since (1000 * (s.caldera die).magmaWait.toNat) then s
      else
        let s := s.countIntake die l.user (fun c => { c with magmaAborts := satInc c.magmaAborts })
        match s.findInv l.read.coll.group l.read.coll.step with
        | some k => abortInv k St.magmaFull 0 none false s
        | none => s.dropLanded die id
    | _ => s

/-! ## Production (08 R240, R241, R251, R252, 09 R275) -/

/-- The members padded for the whole of segment j, whose own count ends before it (08 R240). -/
def Run.paddedFor (x : Run) (j : Nat) : Nat :=
  if x.r.countMode ≠ 2 ∨ x.p.source then 0
  else ((List.range x.p.locals_.length).filter (fun i =>
    let live := match (x.v.child i).dropped with
      | some d => decide (j < d)
      | none => true
    live && (match x.endOf i with
      | some e => decide (e ≤ j)
      | none => false))).length

/-- n_s of segment j (08 R240). -/
def Run.nsOf (x : Run) (j : Nat) : Nat := (x.v.seg j).nS + x.paddedFor j

/-- The random word of element i of segment j for a site (07 R211, R213). -/
def Run.rbits (x : Run) (j site i : Nat) : Nat :=
  (tephra x.r.k0 x.r.k1 x.v.group x.v.step (4096 * j + i) site).toNat % 2 ^ 32

/-- How a segment leaves in a type. -/
def Run.outMode (x : Run) (code : Nat) : OutMode :=
  { code := code, ovfInf := x.r.ovfInf, sr := x.r.sr, op := x.r.op.toNat }

/-- Entries of segment j, cleared where nothing has been added. -/
def Run.entriesOf (x : Run) (j : Nat) : List Entry :=
  let es := (x.v.seg j).entries
  if es.isEmpty then List.replicate (segElems (x.v.count.getD 0) j) {} else es

/-- Entries of segment j as it is produced: an element padded by every participant is the identity (07 R207). -/
def Run.producedOf (x : Run) (j : Nat) : List Entry :=
  let ns := x.nsOf j
  (x.entriesOf j).map (fun t => t.padded x.r.op.toNat x.r.etype.toNat ns)

/-- The result bytes of segment j (07 R207 to R217, R223, R224, 08 R241). -/
def Run.resultOf (x : Run) (j : Nat) : List Byte × Arith :=
  let op := x.r.op.toNat
  let et := x.r.etype.toNat
  let total := segElems (x.v.count.getD 0) j
  let g := x.v.seg j
  if op = opExpand then
    expandSegment (x.outMode x.r.rtype.toNat) et (x.elemsOf (x.p.rootIdx.getD 0) j) g.bytes (x.rbits j 0x100) {}
  else if opBitwise op then (if g.bytes.isEmpty then padBytes op et 0 total [] else g.bytes, {})
  else
    let den := if op = opAvg then max 1 (x.nsOf j) else 1
    encodeSegment (x.outMode et) ((x.producedOf j).map (fun t => t.settle op den)) (x.rbits j 0) {}

/-- The state of an element that leaves in a ROUNDED partial (08 R240, R251): an element of a sum without a
participant is the exact zero with zero_pos clear. DEDUCED: log entry 63. -/
def settlePartial (op : Nat) (t : Entry) : Settled :=
  match t.settle op 1 with
  | .none_ => if opExtreme op then .none_ else .value true 0 1
  | st => st

/-- A ROUNDED partial of segment j (08 R251). -/
def Run.roundedOf (x : Run) (j : Nat) : List Byte × Arith :=
  let op := x.r.op.toNat
  if opBitwise op then x.resultOf j
  else encodeSegment (x.outMode x.r.etype.toNat) ((x.producedOf j).map (settlePartial op))
    (x.rbits j (1 + x.p.tier.toNat)) {}

/-- The parts of an EXACT-UP partial of segment j: number and payload (08 R252). -/
def Run.exactOf (x : Run) (j : Nat) : List (Nat × List Byte) × Nat :=
  let op := x.r.op.toNat
  let es := x.producedOf j
  let ws := es.map (fun t => t.xp64 op)
  let words := ws.flatMap (fun w => leBytes 8 w.1)
  let recs := ((es.zip ws).zip (List.range es.length)).filterMap (fun p =>
    if p.1.2.2 then some (p.1.1.escape p.2) else none)
  let n := es.length
  let low := (0, words.take (8 * min n 2048))
  let high := if 2048 < n then [(1, words.drop (8 * 2048))] else []
  let esc := ((List.range ((recs.length + 169) / 170)).map (fun p =>
    (2 + p, ((recs.drop (170 * p)).take 170).flatMap id)))
  (low :: (high ++ esc), recs.length)

/-- The plan is at the step that sends segments: its REDUCE, or its BCAST SOURCE. -/
def Run.atProduce (x : Run) : Bool :=
  x.p.kindAt x.v.pc == skReduce || (x.p.source && x.p.kindAt x.v.pc == skBcast)

/-- Segment j may be sent to the parent: CREDIT allows it (08 R236). DEDUCED: log entry 62. -/
def Run.parentAllows (x : Run) (j : Nat) : Bool :=
  !x.p.toParent || decide (j ≤ x.v.parentLimit.getD (x.r.creditWindow - 1))

/-- Every child is settled for segment j. -/
def Run.ready (x : Run) (j : Nat) : Bool := (List.range x.p.kids).all (fun i => x.settled i j)

/-- A BCAST SOURCE has nothing to send for segment j: its source is settled without it (08 R241).
DEDUCED: log entry 197. -/
def Run.nothing (x : Run) (j : Nat) : Bool := x.p.source && !((x.v.seg j).counted.any (fun i => x.isSource i))

/-- The bytes of an open result: as many as R196 and R241 give the segment, each a free value that depends on the
segment and the contributions, and under SR on the group and STEP, alone (11 R336). -/
def Run.openBytes (x : Run) (j : Nat) : List Byte :=
  let n := segElems (x.v.count.getD 0) j
  let len := if !x.p.toParent then n * etSize x.r.rtype.toNat
    else if x.r.exact then 8 * n else segLen x.r.etype.toNat n
  (List.range len).map (Config.openByte (if x.r.sr then [j, x.v.group, x.v.step] else [j]) (x.v.seg j).contribs)

/-- A segment whose rows have been read is produced. -/
def produceSeg (k j : Nat) (x : Run) (s : State) : State :=
  let v := x.v
  let e := v.engineOf j
  let ns := x.nsOf j
  let frees := some (k, j)
  let slice := x.r.slice.toNat
  let head (msg : Nat) : Coll := { x.coll msg with seg := j }
  let exact := x.p.toParent && x.r.exact
  let free := if x.openResult then x.openBytes j else []
  let parts : List (Nat × List Byte) × Nat :=
    if x.openResult then
      ((0, free.take (8 * 2048)) :: (if free.length ≤ 8 * 2048 then [] else [(1, free.drop (8 * 2048))]), 0)
    else if exact then x.exactOf j else ([], 0)
  let (sentBytes, a) : List Byte × Arith :=
    if x.openResult then (free, {})
    else if x.nothing j then ([], {})
    else if exact then (parts.1.flatMap Prod.snd, {})
    else if x.p.toParent then x.roundedOf j
    else if x.p.source && x.r.op.toNat ≠ opExpand then ((v.seg j).bytes, {})
    else x.resultOf j
  let s := s.modRun k (fun v =>
    { v.modSeg j (fun g => { g with produced := true, sentBytes := sentBytes })
      with arith := v.arith.plus a })
  let s := s.modEngine e (fun y => { y with arith := y.arith.plus a })
  let s := freeRecords k j s
  let s :=
    if x.nothing j then s
    else if exact then
      s.forEach parts.1 (fun s p =>
        let c := { head msgPartial with
          part := p.1, exactUp := true, aux := ns + 2 ^ 32 * parts.2 + 2 ^ 48 * x.p.tier.toNat }
        sendColl e slice x.p.parentEp.toNat false v.launch c p.2 frees s)
    else if x.p.toParent then
      sendColl e slice x.p.parentEp.toNat false v.launch
        { head msgPartial with aux := ns + 2 ^ 48 * x.p.tier.toNat } sentBytes frees s
    else
      let et := if x.r.op.toNat = opExpand then x.r.rtype.toNat else x.r.etype.toNat
      let c := { head msgResult with etype := et, aux := ns }
      if x.p.hasVar skReduce 2 then sendColl e slice x.p.rootEp.toNat false v.launch c sentBytes frees s
      else sendColl e slice x.p.mcId.toNat true v.launch c sentBytes frees s
  goOn k s

/-- SEGMENT_PRODUCE of segment j of invocation k. flaw: what the reads of its rows find (13 R392). -/
def segmentProduce (k j : Nat) (flaw : Flaw) (s : State) : State :=
  match s.runOf k with
  | none => s
  | some x =>
    let e := x.v.engineOf j
    if x.v.state != .reduce || decide (x.v.nseg ≤ j) || (x.v.seg j).produced || !x.atProduce || !x.ready j ||
        !x.parentAllows j || !(s.engine e).running || s.halted then s
    else
      let (good, s) := if flaw == .residue then (true, s) else segReads (e / 8) k j [] flaw s
      s.when good (produceSeg k j x)

/-! ## Freeing slots (09 R267, R275) -/

/-- SLOT_FREE of segment j: its last packet has left the die. -/
def slotFree (k j : Nat) (s : State) : State :=
  match s.inv k with
  | none => s
  | some v =>
    let g := v.seg j
    if !g.produced || g.leaving ≠ 0 || g.freed || v.state == .abort then s
    else
      let s := moveFront k (s.modRun k (fun v => v.modSeg j (fun g => { g with freed := true, slot := none })))
      goOn k (retimeAll k false s)

/-! ## Timers of children (08 R245, R250) -/

/-- The waiting commands of this cycle by which segments and COUNTs count, done in their order (08 R250). -/
def countsFirst (s : State) : State :=
  s.forEach s.pending (fun s c =>
    if c.time ≠ s.now then s
    else match c with
    | .intakeCheck _ die id flaw => onDie (dieCaldera die) (intakeCheck die id flaw) s
    | .contrib _ die id => onMsg die id msgContrib contrib s
    | .partialMsg _ die id => onMsg die id msgPartial partial_ s
    | .count _ die id => onMsg die id msgCount countMsg s
    | .segmentAdd _ die id flaw => onDie (dieCaldera die) (segmentAdd die id flaw) s
    | .magmaRecordGrant _ die flaw => onDie (dieCaldera die) (magmaGrant die flaw) s
    | .segmentProduce _ k j flaw => onEngine k j (segmentProduce k j flaw) s
    | _ => s)

/-- A segment or a COUNT of child i of invocation k counts in this cycle (08 R250). DEDUCED: log entry 231. -/
def State.countComes (s : State) (k i : Nat) : Bool :=
  match s.inv k, (countsFirst s).inv k with
  | some v, some w =>
    decide ((v.child i).token < (w.child i).token) || ((v.child i).count.isNone && (w.child i).count.isSome)
  | _, _ => false

/-- MEMBER_TIMER_EXPIRY of child i (08 R245, R246, R247): the invocation aborts, the child is dropped in
the count phase, or a freeze goes to its token holder (09 R273). What counts in the same cycle comes first (08
R250). -/
def timerExpiry (k i : Nat) (s : State) : State :=
  match s.runOf k with
  | none => s
  | some x =>
    let c := x.v.child i
    let ran := match c.timerFrom with
      | some f => c.timerRan + (s.now - f)
      | none => 0
    if i ≥ x.p.kids || !x.awaits i || c.timerFrom.isNone || c.frozen.isSome ||
        decide (ran < x.r.timeoutNs) || s.countComes k i then s
    else if x.aborts then abortInv k St.memberTimeout 0 none false s
    else if x.v.state == .count then dropChild k i 0 s
    else s.modRun k (fun v => v.modChild i (fun c => { c with frozen := some c.token }))

/-! ## The commands -/

/-- SEGMENT_ADD (09 R272). -/
def execSegmentAdd (t die id : Nat) (flaw : Flaw) (s : State) : Out :=
  run (decide (die < 8)) t (onDie (dieCaldera die) (segmentAdd die id flaw)) s

/-- MEMBER_TIMER_EXPIRY (08 R245). -/
def execMemberTimerExpiry (t k i : Nat) (s : State) : Out :=
  run (decide (k < 1024) && decide (i < 1023)) t (onLead k (timerExpiry k i)) s

/-- MAGMA_RECORD_GRANT (09 R279). -/
def execMagmaRecordGrant (t die : Nat) (s : State) (flaw : Flaw := .none) : Out :=
  run (decide (die < 8)) t (onDie (dieCaldera die) (magmaGrant die flaw)) s

/-- MAGMA_WAIT_EXPIRY (09 R279). -/
def execMagmaWaitExpiry (t die id : Nat) (s : State) : Out :=
  run (decide (die < 8)) t (onDie (dieCaldera die) (magmaExpiry die id)) s

/-- SEGMENT_PRODUCE (08 R240). -/
def execSegmentProduce (t k j : Nat) (s : State) (flaw : Flaw := .none) : Out :=
  run (decide (k < 1024) && decide (j < 2 ^ 20)) t (onEngine k j (segmentProduce k j flaw)) s

/-- SLOT_FREE (09 R275). -/
def execSlotFree (t k j : Nat) (s : State) : Out :=
  run (decide (k < 1024) && decide (j < 2 ^ 20)) t (onEngine k j (slotFree k j)) s

end Sys2Proof.Machine
end

