-- ==== Sys2Proof/Machine/Counters.lean ====
section
/-! DEFINITION. Sync counters: identifiers, binding, signals, waits, the steps SIGNAL and WAIT, and the
owner's clear and translation writes (10 R300 to R313, R318 to R323). -/

namespace Sys2Proof.Machine

/-! ## Identifiers (R304, R305, R308) -/

/-- The key engine*48 + index of the counter that a logical engine and an index name. -/
def State.ctrAt (s : State) (logical index : Nat) : Option Nat :=
  if 48 ≤ index then none else (s.physEngine logical).map (fun e => 48 * e + index)

/-- The counter an identifier resolves to for a slice, under the counter mode. -/
def State.ctrOf (s : State) (slice ident : Nat) : Option Nat :=
  if s.pkg.direct then (if ident < 4096 then s.ctrAt (ident / 64) (ident % 64) else none)
  else if 48 ≤ ident then none
  else
    let x := s.xl (48 * slice + ident)
    if x.valid then s.ctrAt x.engine.toNat x.index.toNat else none

/-- The identifiers that a plan resolves locally (R307). -/
def State.localIdents (s : State) (p : Plan) : List Nat :=
  (p.steps.filter (fun w => w.kind.toNat == skWait ||
    (w.kind.toNat == skSignal && w.targetEp == s.pkg.selfEp))).map (fun w => w.counter.toNat)

/-- The counters that the loaded plans of the switch resolve locally (R307). -/
def State.localCtrs (s : State) : List Nat :=
  s.groups.flatMap (fun e => match e.2.record, e.2.plan with
    | some r, some p => (s.localIdents p).filterMap (fun i => s.ctrOf r.slice.toNat i)
    | _, _ => [])

/-- The test of R307: a bound counter of value 0 that no loaded plan resolves becomes unbound. -/
def unbindTest (s : State) : State :=
  if !s.pkg.direct then s
  else
    let used := s.localCtrs
    { s with counters := tmap {} (fun k c =>
        if c.bound && c.value == 0 && !used.contains k then { c with bound := false, slice := 0 } else c) s.counters }

/-- Non-zero counters of a physical engine, as a 48-bit map (R318, R322). -/
def State.ctrMap (s : State) (e : Nat) : Nat :=
  (List.range 48).foldl (fun n i => if (s.ctr (48 * e + i)).value = 0 then n else n + 2 ^ i) 0

/-! ## Signals and waits (R301, R302) -/

/-- A satisfied wait: its step is done. -/
def waitDone (k : Nat) (s : State) : State :=
  goOn k (s.modRun k (fun v => { v with pc := v.pc + 1, waitFrom := none }))

/-- The timer of an invocation's wait has run out (R310). -/
def State.waitOver (s : State) (k : Nat) : Bool :=
  match s.runOf k with
  | some x => (match x.v.waitFrom with
    | some f => s.past f x.r.timeoutNs
    | none => false)
  | none => false

/-- The next RESYNC names group g and is the owner's. -/
def State.resyncs (s : State) (g : Nat) : Bool :=
  !s.vent.inSafe && !s.clkStopped dieTD && (match takeJobFrom (fun j => jobIs dkResync 0 j && !j.started) [] s.jobs with
    | some (j, _) => s.isOwner (jobMaster j.src) && fieldOf j.desc 8 2 == g
    | none => false)

/-- A command of this cycle makes open invocation k enter ABORT. -/
def State.abortedBy (s : State) (k : Nat) (c : Instr) : Bool :=
  let gone (s : State) : Bool := match s.inv k with
    | some v => v.state == .abort
    | none => false
  let uses (p : Nat → Bool) : Bool := match s.inv k with
    | some v => v.engines.any (fun e => p e && (s.engine e).inService)
    | none => false
  match c with
  | .status _ die id => gone (onMsg die id msgStatus statusMsg s)
  | .contrib _ die id => gone (onMsg die id msgContrib contrib s)
  | .partialMsg _ die id => gone (onMsg die id msgPartial partial_ s)
  | .count _ die id => gone (onMsg die id msgCount countMsg s)
  | .countResult _ die id => gone (onMsg die id msgCountResult countResult s)
  | .participation _ die id => gone (onMsg die id msgParticipation participation s)
  | .memberTimerExpiry _ k' i => gone (onLead k' (timerExpiry k' i) s)
  | .freezeReply _ k' i => gone (onLead k' (freezeReply k' i) s)
  | .waitTimerExpiry _ k' => k' == k && s.waitOver k
  | .magmaWaitExpiry _ die id => gone (onDie (dieCaldera die) (magmaExpiry die id) s)
  | .segmentAdd _ die id flaw => gone (onDie (dieCaldera die) (segmentAdd die id flaw) s)
  | .magmaRecordGrant _ die flaw => gone (onDie (dieCaldera die) (magmaGrant die flaw) s)
  | .segmentProduce _ k' j flaw => gone (onEngine k' j (segmentProduce k' j flaw) s)
  | .resync _ => (match s.inv k with
    | some v => s.resyncs v.group
    | none => false)
  | .engineLoss _ e => uses (fun x => x == e)
  | .calderaDieLoss _ c => !(s.caldera c).lost && (k / 128 == c || uses (fun x => x / 8 == c))
  | _ => false

/-- Invocation k aborts in this cycle: its wait is not satisfied, and the count stays (R310). DEDUCED: log entry 231. -/
def State.abortsNow (s : State) (k : Nat) : Bool := s.sameCycle (fun c => c.time == s.now && s.abortedBy k c)

/-- The owner's clear of counter c comes in this cycle, by whichever of its register writes (R302). -/
def State.ctrClearComes (s : State) (c : Nat) : Bool :=
  !s.clkStopped dieTD && s.reachable (dieCaldera (c / 384)) && (s.wordsComing id).any (fun w =>
    s.mayWrite w.1 && bitOf w.2.2 (c % 48 % 32) &&
      w.2.1 == dieCaldera (c / 384) * windowSize + 0x6800 + 0x10 * (c / 48 % 8) + 4 * (c % 48 / 32))

/-- Clear counter c (R301). The clear of a cycle comes before its signals, so that a second clear of the cycle changes
nothing (R302). -/
def clearCtr (c : Nat) (s : State) : State :=
  s.modCtr c (fun x => if x.clearedAt = s.now + 1 then x else { x with value := 0, ovf := false, clearedAt := s.now + 1 })

/-- The clear of this cycle, taken before anything else of the cycle on the counter (R302). DEDUCED: log entry 231. -/
def clearFirst (c : Nat) (s : State) : State := s.when (s.ctrClearComes c) (clearCtr c)

/-- Serve the waiters of a counter in their order while its value lasts; one whose invocation aborts in this cycle
takes nothing (R301, R310). -/
def serveWaiters (c : Nat) : Nat → State → State
  | 0, s => s
  | fuel + 1, s =>
    let x := s.ctr c
    match x.waiters.find? (fun w => !s.abortsNow w.inv) with
    | none => s
    | some w =>
      if x.value = 0 then s
      else serveWaiters c fuel (waitDone w.inv
        (s.modCtr c (fun x => { x with value := x.value - 1, waiters := x.waiters.erase w })))

/-- A waiter joins a list: behind the others, but among those that join in one cycle by group, then by STEP (R301). -/
def insertWaiter (w : Waiter) : List Waiter → List Waiter
  | [] => [w]
  | y :: ys =>
    if y.joinedAt = w.joinedAt ∧ (w.group < y.group ∨ (w.group = y.group ∧ w.step < y.step)) then w :: y :: ys
    else y :: insertWaiter w ys

/-- SIGNAL_APPLY: a signal on its way reaches its counter's engine (R301, R303). A lost engine takes
none (R308). DEDUCED: log entry 83. DEDUCED: log entry 86. -/
def signalApply (c : Nat) (s : State) : State :=
  if !s.signals.contains c then s
  else
    let e := c / 48
    let s := clearFirst c { s with signals := s.signals.erase c }
    let x := s.ctr c
    if !(s.engine e).inService then s
    else if x.value = 0xFFFF then
      let s := s.modCaldera (e / 8) (fun d => { d with sigOverflows := satInc d.sigOverflows })
      if x.ovf then s
      else (s.modCtr c (fun x => { x with ovf := true })).event 0x40 (dieCaldera (e / 8)) e (c % 48) 0
    else
      let s := s.modCaldera (e / 8) (fun d => { d with sigApplied := satInc d.sigApplied })
      let s := s.modCtr c (fun x => { x with value := x.value + 1 })
      serveWaiters c (x.waiters.length) s

/-- The signals of this cycle on counter c are applied: they come before its waits (R302). DEDUCED: log entry 231. -/
def signalsFirst (c : Nat) (s : State) : State :=
  s.forEach s.pending (fun s i => match i with
    | .signalApply t c' => if t = s.now ∧ c' = c then onDie (dieCaldera (c / 384)) (signalApply c) s else s
    | _ => s)

/-! ## Steps (R309, R310) -/

/-- The invocation stands at a step of this kind that may be taken. -/
def Run.atStep (x : Run) (kind : Nat) : Bool :=
  x.v.launched && (x.v.state == .armed || x.v.state == .reduce || x.v.state == .drain) &&
    x.p.kindAt x.v.pc == kind

/-- Count a signal that the engine of an invocation's record discards (R323). -/
def discardSignal (die : Nat) (s : State) : State :=
  s.modCaldera die (fun d => { d with sigDiscarded := satInc d.sigDiscarded })

/-- SIGNAL_STEP of invocation k: a local signal is given and the step is done; a message is sent, and the
step is done at the SIGNAL_STEP that finds its packet gone from the die (R309). DESIGN CHOICE: log entry 84. -/
def signalStep (k : Nat) (s : State) : State :=
  match s.runOf k with
  | none => s
  | some x =>
    if !x.atStep skSignal || s.halted then s
    else
      match x.p.steps[x.v.pc]? with
      | none => s
      | some w =>
        let done (s : State) : State := goOn k (s.modRun k (fun v => { v with pc := v.pc + 1 }))
        if w.targetEp == s.pkg.selfEp then
          match s.ctrOf x.r.slice.toNat w.counter.toNat with
          | some c => done { s with signals := s.signals ++ [c] }
          | none => done (discardSignal (k / 128) s)
        else
          let mark := 2 ^ 20 + x.v.pc
          let g := x.v.seg mark
          if g.produced then (if g.leaving = 0 then done s else s)
          else
            let c : Coll := { group := x.v.group, step := x.v.step, msg := msgSignal, aux := w.counter.toNat }
            let s := s.modRun k (fun v => v.modSeg mark (fun g => { g with produced := true }))
            sendColl (s.leadOf x.v.group) x.r.slice.toNat w.targetEp.toNat false none c [] (some (k, mark)) s

/-- A wait fails: counted, and the invocation aborts (R310). -/
def waitFails (k : Nat) (s : State) : State :=
  abortInv k St.waitTimeout 0 none false
    (s.modCaldera (k / 128) (fun d => { d with waitTimeouts := satInc d.waitTimeouts }))

/-- The wait that invocation k would take now: it stands at a WAIT step that it has not issued. With it the counter,
where the identifier resolves. -/
def State.waitAt (s : State) (k : Nat) : Option (Waiter × Option Nat) :=
  match s.runOf k with
  | none => none
  | some x =>
    if !x.atStep skWait || x.v.waitFrom.isSome || s.halted then none
    else some ({ inv := k, group := x.v.group, step := x.v.step, joinedAt := s.now },
      (x.p.steps[x.v.pc]?).bind (fun w => s.ctrOf x.r.slice.toNat w.counter.toNat))

/-- Invocation k takes its wait (R301, R310). -/
def waitTake (k : Nat) (s : State) : State :=
  match s.waitAt k with
  | none => s
  | some (_, none) => waitFails k s
  | some (w, some c) =>
    if !(s.engine (c / 48)).inService then waitFails k s
    else
      let s := signalsFirst c (clearFirst c s)
      if (s.ctr c).value = 0 then
        (s.modCtr c (fun y => { y with waiters := insertWaiter w y.waiters })).modRun k
          (fun v => { v with waitFrom := some s.now })
      else if s.abortsNow k then s
      else waitDone k (s.modCtr c (fun y => { y with value := y.value - 1 }))

/-- The waits on the counter of invocation k's wait that come in this cycle and go before it: a lower group, or of one
group a lower STEP (R301, R302). -/
def State.lowerWaits (s : State) (k : Nat) : List Waiter :=
  match s.waitAt k with
  | some (w, some c) =>
    (s.pending.filterMap (fun i => match i with
      | .waitStep t k' => if t = s.now then (match s.waitAt k' with
          | some (y, some c') =>
            if c' = c ∧ (y.group < w.group ∨ (y.group = w.group ∧ y.step < w.step)) then some y else none
          | _ => none) else none
      | _ => none)).foldl (fun l y => insertWaiter y l) []
  | _ => []

/-- WAIT_STEP of invocation k (R310), behind the waits of this cycle that go before it. -/
def waitStep (k : Nat) (s : State) : State :=
  waitTake k (s.forEach (s.lowerWaits k) (fun s w => onLead w.inv (waitTake w.inv) s))

/-- WAIT_TIMER_EXPIRY of invocation k (R310). DEDUCED: log entry 85. -/
def waitExpiry (k : Nat) (s : State) : State := s.when (s.waitOver k) (waitFails k)

/-- A SIGNAL message at the engine that received it (R313). -/
def signalMsg (die : Nat) (m : LandMsg) (s : State) : State :=
  let s := s.dropLanded die m.l.id
  match s.groupRec m.coll.group with
  | none => discardSignal die s
  | some r =>
    if m.hdr.slice != r.slice then discardSignal die s
    else
      match s.ctrOf r.slice.toNat (bitsOf m.coll.aux 0 16) with
      | none => discardSignal die s
      | some c =>
        let x := s.ctr c
        if s.pkg.direct && (!x.bound || x.slice != r.slice) then discardSignal die s
        else { s with signals := s.signals ++ [c] }

/-! ## The owner's writes (R306, R322) -/

/-- COUNTER_CLEAR of the counters of physical engine e that a 48-bit mask names (R301, R322). -/
def counterClear (m e mask : Nat) (s : State) : State :=
  s.ownerWrite m (fun s =>
    unbindTest (s.forEach (bitsSet mask 48) (fun s i => clearCtr (48 * e + i) s)))

/-- The value of the counter that a translation entry names. -/
def State.xlValue (s : State) (x : Xlat) : Nat :=
  if x.valid then ((s.ctrAt x.engine.toNat x.index.toNat).map (fun c => (s.ctr c).value.toNat)).getD 0 else 0

/-- An open invocation belongs to the slice. -/
def State.sliceOpen (s : State) (slice : Nat) : Bool :=
  s.invs.any (fun e => match e.2 with
    | some v => (s.groupRec v.group).any (fun r => r.slice.toNat == slice)
    | none => false)

/-- CTR_XLAT_WRITE of entry v of a slice (R306, R320). DEDUCED: log entry 87. -/
def xlatWrite (m slice v w : Nat) (s : State) : State :=
  s.ownerWrite m (fun s =>
    let k := 48 * slice + v
    let old := s.xl k
    let new : Xlat := { index := BitVec.ofNat 6 w, engine := BitVec.ofNat 6 (w / 64), valid := bitOf w 15 }
    let taken := new.valid && s.xlat.any (fun e =>
      e.1 != k && e.2.valid && e.2.engine == new.engine && e.2.index == new.index)
    if s.pkg.direct || s.sliceOpen slice || s.xlValue old != 0 || s.xlValue new != 0 || taken then
      ({ s with pkg := { s.pkg with xlatDropped := true } }).hwSet wbXlat
    else s.modXl k (fun _ => new))

/-! ## The commands -/

/-- SIGNAL_STEP (10 R309). -/
def execSignalStep (t k : Nat) (s : State) : Out := run (decide (k < 1024)) t (onLead k (signalStep k)) s

/-- WAIT_STEP (10 R310). -/
def execWaitStep (t k : Nat) (s : State) : Out := run (decide (k < 1024)) t (onLead k (waitStep k)) s

/-- SIGNAL (10 R313). -/
def execSignal (t die id : Nat) (s : State) : Out := run (decide (die < 8)) t (onMsg die id msgSignal signalMsg) s

/-- SIGNAL_APPLY (10 R301). -/
def execSignalApply (t c : Nat) (s : State) : Out := run (decide (c < 3072)) t (onDie (dieCaldera (c / 48 / 8)) (signalApply c)) s

/-- WAIT_TIMER_EXPIRY (10 R310). -/
def execWaitTimerExpiry (t k : Nat) (s : State) : Out := run (decide (k < 1024)) t (onLead k (waitExpiry k)) s

/-- COUNTER_CLEAR (10 R322). -/
def execCounterClear (t m e mask : Nat) (s : State) : Out :=
  run (isMaster m && decide (e < 64) && decide (mask < 2 ^ 48)) t (accessDie m (dieCaldera (e / 8)) (counterClear m e mask)) s

/-- CTR_XLAT_WRITE (10 R306). -/
def execCtrXlatWrite (t m slice v w : Nat) (s : State) : Out :=
  run (isMaster m && decide (slice < 256) && decide (v < 48) && decide (w < 2 ^ 16)) t (onPath m (xlatWrite m slice v w)) s

end Sys2Proof.Machine
end

