-- ==== Sys2Proof/Machine/Groups.lean ====
section
/-! DEFINITION. Groups and plans: GROUP_INSTALL, PLAN_LOAD and RESYNC, the negotiated features, suspension,
the engine map and the loss of an engine (08 R228 to R235, R258, 09 R260, R280, R282, 10 R307, R308,
R318). -/

namespace Sys2Proof.Machine

/-! ## Records (R228, R230 to R232) -/

/-- The group record in 64 bytes (R228). DEDUCED: log entry 89. -/
def parseGroup (b : List Byte) : GroupRec :=
  let m := (byteAt b 6).toNat
  { group := BitVec.ofNat 16 (fieldOf b 0 2), slice := byteAt b 2
    op := BitVec.ofNat 4 (byteAt b 3).toNat, etype := BitVec.ofNat 5 (byteAt b 4).toNat
    rtype := BitVec.ofNat 5 (byteAt b 5).toNat, countMode := BitVec.ofNat 2 m
    ovfInf := bitOf m 2, sr := bitOf m 3, exactUp := bitOf m 4, abortPolicy := bitOf m 5
    purpose := BitVec.ofNat 2 (m / 64), creditWindow := (byteAt b 7).toNat, count := fieldOf b 8 4
    scaleExp := signedOf 10 (fieldOf b 12 2 % 1024), members := fieldOf b 14 2 + 1
    timeoutUs := fieldOf b 16 3, ring := BitVec.ofNat 14 (fieldOf b 20 2), extEntries := fieldOf b 22 2
    seedId := BitVec.ofNat 32 (fieldOf b 28 4), k0 := BitVec.ofNat 64 (fieldOf b 32 8)
    k1 := BitVec.ofNat 64 (fieldOf b 40 8), auditExt := BitVec.ofNat 64 (fieldOf b 48 8)
    modes := byteAt b 6 }

/-- The reserved bits of a group record are 0. -/
def groupReservedOk (b : List Byte) : Bool :=
  decide ((byteAt b 3).toNat < 16) && decide ((byteAt b 4).toNat < 32) && decide ((byteAt b 5).toNat < 32) &&
    decide (fieldOf b 12 2 < 1024) && byteAt b 19 == 0 && decide (fieldOf b 20 2 < 2 ^ 14) &&
    fieldOf b 24 4 == 0 && fieldOf b 56 8 == 0

/-- RANGE of R229 for a group record. -/
def groupRangeOk (b : List Byte) (group : Nat) : Bool :=
  let r := parseGroup b
  r.group.toNat == group && decide (group < 16384) && groupReservedOk b &&
    decide (1 ≤ r.op.toNat ∧ r.op.toNat ≤ 9) && etKnown r.etype.toNat &&
    (r.rtype == 0 || etKnown r.rtype.toNat) && r.countMode != 3 && r.purpose != 3 &&
    decide (r.timeoutUs ≤ 10000000) && decide (1 ≤ r.creditWindow ∧ r.creditWindow ≤ 64) &&
    ((r.extEntries == 0) == (r.auditExt == 0))

/-- OP_TYPE of R229. -/
def groupOpOk (r : GroupRec) : Bool :=
  let op := r.op.toNat
  let rs := etRs r.etype.toNat
  !(rs && decide (op ≤ 5)) && (op != opExpand || (rs && (r.rtype == 5 || r.rtype == 6))) &&
    (op == opExpand || r.rtype == 0)

/-- COUNT of R229. -/
def groupCountOk (r : GroupRec) : Bool :=
  !(r.countMode == 0 && r.count == 0) && r.count % etMultiple r.etype.toNat == 0

/-- A step word (R232). -/
def parseStep (b : List Byte) : StepWord :=
  let x := (byteAt b 0).toNat
  { kind := BitVec.ofNat 4 x, variant := BitVec.ofNat 4 (x / 16), counter := BitVec.ofNat 16 (fieldOf b 2 2)
    targetEp := BitVec.ofNat 16 (fieldOf b 4 2) }

/-- The encodings and reserved bits of a step word are those of R232. -/
def stepOk (b : List Byte) : Bool :=
  let w := parseStep b
  let k := w.kind.toNat
  decide (1 ≤ k ∧ k ≤ 5) && byteAt b 1 == 0 && fieldOf b 6 2 == 0 &&
    (k != skReduce || decide (w.variant.toNat ≤ 2)) && (k != skBcast || decide (w.variant.toNat ≤ 1))

/-- The fields of a step word that its kind does not use are 0 (R232). -/
def stepZeros (w : StepWord) : Bool :=
  let k := w.kind.toNat
  (w.variant == 0 || k == skReduce || k == skBcast) && (w.counter == 0 || k == skSignal || k == skWait) &&
    (w.targetEp == 0 || k == skSignal)

/-- A member entry and a child entry (R231). -/
def parseMember (b : List Byte) : MemberEnt :=
  { rank := fieldOf b 0 2, ep := BitVec.ofNat 16 (fieldOf b 2 2), weight := BitVec.ofNat 32 (fieldOf b 4 4) }
def parseChild (b : List Byte) : ChildEnt :=
  { ep := BitVec.ofNat 16 (fieldOf b 0 2), zero := BitVec.ofNat 16 (fieldOf b 2 2), count := fieldOf b 4 4 % 2 ^ 17 }

/-- Bytes of a member's weight (R231). -/
def weightBytes (r : GroupRec) : Nat :=
  if r.op.toNat ≠ opWsum then 0 else if etMx r.etype.toNat then 2 else etSize r.etype.toNat

/-- Steps that a header names (R230). -/
def planSteps (b : List Byte) : Nat :=
  let n := (byteAt b 4).toNat / 16
  if n = 0 then 16 else n

/-- Entry i of a plan record, 8 bytes each behind the header. -/
def planEntry (b : List Byte) (i : Nat) : List Byte := sliceOf b (64 + 8 * i) 8

/-- The plan record (R230). -/
def parsePlan (b : List Byte) : Plan :=
  let n := planSteps b
  let nl := fieldOf b 14 2
  let nc := fieldOf b 16 2
  let e := fieldOf b 12 2
  { planVer := BitVec.ofNat 16 (fieldOf b 2 2), tier := BitVec.ofNat 4 (byteAt b 4).toNat
    parentEp := BitVec.ofNat 16 (fieldOf b 6 2), mcId := BitVec.ofNat 16 (fieldOf b 8 2)
    rootEp := BitVec.ofNat 16 (fieldOf b 10 2), engineFirst := bitsOf e 0 6, engineCount := bitsOf e 6 7
    subtree := fieldOf b 18 4 % 2 ^ 17
    steps := (List.range n).map (fun i => parseStep (planEntry b i))
    locals_ := (List.range nl).map (fun i => parseMember (planEntry b (n + i)))
    children := (List.range nc).map (fun i => parseChild (planEntry b (n + nl + i))) }

/-- RANGE of R229 for a plan record. -/
def planRangeOk (b : List Byte) : Bool :=
  let n := planSteps b
  let nl := fieldOf b 14 2
  let nc := fieldOf b 16 2
  decide (fieldOf b 0 2 < 16384) && byteAt b 5 == 0 && decide (fieldOf b 12 2 < 2 ^ 13) &&
    decide (fieldOf b 18 4 < 2 ^ 17) && (sliceOf b 22 42).all (fun x => x == 0) &&
    (List.range n).all (fun i => stepOk (planEntry b i)) &&
    (List.range nc).all (fun i => decide (fieldOf (planEntry b (n + nl + i)) 4 4 < 2 ^ 17))

/-- No element of a list stands in it twice. -/
def distinct (l : List Nat) : Bool := l.eraseDups.length == l.length

/-- BCAST TURN follows REDUCE TURN at once and only there (R233). -/
def turnOk (p : Plan) : Bool :=
  (List.range p.steps.length).all (fun i =>
    let at_ (j k v : Nat) : Bool := match p.steps[j]? with
      | some w => w.kind.toNat == k && w.variant.toNat == v
      | none => false
    (!at_ i skReduce 1 || at_ (i + 1) skBcast 0) && (!at_ i skBcast 0 || (i != 0 && at_ (i - 1) skReduce 1)))

/-- The rules of R230, R231 and R233 of a plan against a group record. DEDUCED: log entry 190. -/
def planRulesOk (r : GroupRec) (p : Plan) : Bool :=
  let ranks := p.locals_.map (fun m => m.rank)
  let eps := p.locals_.map (fun m => m.ep.toNat) ++ p.children.map (fun c => c.ep.toNat)
  let below := p.locals_.length + p.children.foldl (fun n c => n + c.count) 0
  let counts := (List.range p.steps.length).filter (fun i => p.kindAt i == skCount)
  let reduces := p.steps.filter (fun w => w.kind.toNat == skReduce)
  let kids := p.kids != 0
  decide (1 ≤ p.engineCount) && decide (p.engineFirst + p.engineCount ≤ 64) &&
    decide (1 ≤ p.subtree ∧ p.subtree ≤ 65536) && ranks.all (fun x => decide (x < r.members)) &&
    distinct ranks && distinct eps && p.subtree == below && (!p.apex || p.subtree == r.members) &&
    (if r.countMode = 0 then counts.isEmpty else !kids || counts == [0]) &&
    decide (reduces.length ≤ 1) && reduces.all (fun w => (w.variant == 0) != p.apex) && turnOk p &&
    (!p.source || ((r.op.toNat == opOr || r.op.toNat == opExpand) && reduces.isEmpty)) &&
    (kids || !(p.has skReduce || p.has skBcast || p.has skCount)) &&
    p.locals_.all (fun m => decide (m.weight.toNat < 2 ^ (8 * weightBytes r))) &&
    p.children.all (fun c => c.zero == 0) && p.steps.all stepZeros

/-! ## Checks against the switch (R229, R234, R260, R307, R308, R318) -/

/-- SLICE of R229. -/
def State.planSliceOk (s : State) (r : GroupRec) (p : Option Plan) : Bool :=
  let d := s.slice r.slice.toNat
  let inside (e : BitVec 16) : Bool :=
    decide (d.epLo.toNat ≤ e.toNat ∧ e.toNat < d.epLo.toNat + d.epCount.toNat)
  d.valid && (match p with
    | some p => p.locals_.all (fun m => inside m.ep) && p.children.all (fun c => inside c.ep)
    | none => true)

/-- The ports that the route entry of an endpoint names: every member of a set (R234). -/
def State.portsNamed (s : State) (slice : Nat) (ep : BitVec 16) : List Nat :=
  let d := s.slice slice
  match (if d.valid then routeIndex d { dst := ep } else none) with
  | none => []
  | some i =>
    let e := s.route i
    if entryKind e = rkPort then [entryTarget e]
    else if entryKind e = rkSet ∨ entryKind e = rkMcast then (s.rset (entryTarget e)).ports
    else []

/-- The features that a plan's routes need were negotiated (R234). -/
def State.featuresOk (s : State) (r : GroupRec) (p : Plan) : Bool :=
  let have_ (ep : BitVec 16) (bit : Nat) : Bool :=
    (s.portsNamed r.slice.toNat ep).all (fun q => (s.port q).features.getLsbD bit)
  (!(r.exactUp && p.toParent) || have_ p.parentEp 0) &&
    (!(r.op.toNat == opExpand && p.source) || have_ p.rootEp 1)

/-- Every logical engine of the plan is valid (R260). -/
def State.enginesOk (s : State) (p : Plan) : Bool :=
  (List.range p.engineCount).all (fun i => (s.physEngine (p.engineFirst + i)).isSome)

/-- The counters that a plan resolves locally can serve the slice (R307, R308). -/
def State.countersOk (s : State) (slice : BitVec 8) (p : Plan) : Bool :=
  (s.localIdents p).all (fun i => match s.ctrOf slice.toNat i with
    | some c => !(s.pkg.direct && (s.ctr c).bound && (s.ctr c).slice != slice)
    | none => false)

/-- Bind the counters of a loaded plan to its slice (R307). -/
def bindCounters (slice : BitVec 8) (p : Plan) (s : State) : State :=
  if !s.pkg.direct then s
  else s.forEach (s.localIdents p) (fun s i => match s.ctrOf slice.toNat i with
    | some c => s.modCtr c (fun x => { x with bound := true, slice := slice })
    | none => s)

/-- The engines whose counters hold a residue of the group's current plan (R318). -/
def State.residueOf (s : State) (g : Group) : List Nat :=
  match g.record, g.plan with
  | some r, some p =>
    let cs := (s.localIdents p).filterMap (fun i => s.ctrOf r.slice.toNat i)
    (List.range 64).filter (fun e => cs.any (fun c => c / 48 == e && (s.ctr c).value != 0))
  | _, _ => []

/-- Post COUNTER_RESIDUE for an engine (R318). -/
def residueEvent (s : State) (e : Nat) : State := s.event 0x41 (dieCaldera (e / 8)) e (s.ctrMap e) 0

/-- The group has an open invocation at the switch. -/
def State.groupOpen (s : State) (g : Nat) : Bool :=
  s.invs.any (fun e => match e.2 with
    | some v => v.group == g
    | none => false)

/-- The keys of the open invocations that satisfy p, not yet aborted. -/
def State.openInvs (s : State) (p : Inv → Bool) : List Nat :=
  (s.invs.filter (fun e => match e.2 with
    | some v => p v && v.state != .abort
    | none => false)).map Prod.fst

/-! ## GROUP_INSTALL, PLAN_LOAD and RESYNC -/

/-- The first check of GROUP_INSTALL that fails: status and detail (R229). -/
def State.installRefused (s : State) (b : List Byte) (group : Nat) : Option (Byte × Nat) :=
  let r := parseGroup b
  let old := s.group group
  if !groupRangeOk b group then some (St.groupBad, 1)
  else if !groupOpOk r then some (St.groupBad, 2)
  else if etRs r.etype.toNat && r.purpose == 0 then some (St.groupBad, 3)
  else if !groupCountOk r then some (St.groupBad, 4)
  else if !(old.plan.all (fun p => planRulesOk r p)) then some (St.groupBad, 5)
  else if s.groupOpen group then some (St.groupBad, 6)
  else if !s.planSliceOk r old.plan then some (St.groupBad, 7)
  else if !(old.plan.all (fun p => s.featuresOk r p)) then some (St.versionRefused, 0)
  else if !(s.residueOf old).isEmpty then some (St.counterResidue, 0)
  else none

/-- A completion of the group in the same cycle is taken before its descriptor (08 R250). -/
def completeFirst (g : Nat) (s : State) : State :=
  s.forEach s.pending (fun s c => match c with
    | .auditWrite t k => s.when (t == s.now && ((s.inv k).map (fun v => v.group)) == some g) (auditWrite k)
    | _ => s)

/-- Refuse with a status, posting the residues where that is the reason. -/
def refuseGroup (g : Nat) (st : Byte) (detail : Nat) (s : State) : Byte × Nat × List Byte × State :=
  let s := if st = St.counterResidue then s.forEach (s.residueOf (s.group g)) residueEvent else s
  (st, detail, [], s)

/-- GROUP_INSTALL (R229). The expected STEP is kept only where group, seed_id and seed stay.
DEDUCED: log entry 90. -/
def groupInstall (host : List Byte) (s : State) : State :=
  s.runBody dkGroupInstall 0 host (fun j s =>
    let b := s.jobData j.src (fieldOf j.desc 8 8) 64 host
    let g := fieldOf j.desc 16 2
    let s := completeFirst g s
    match s.installRefused b g with
    | some (st, d) => refuseGroup g st d s
    | none =>
      let r := parseGroup b
      let s := s.modGroup g (fun x =>
        let same := match x.record with
          | some o => o.seedId == r.seedId && o.k0 == r.k0 && o.k1 == r.k1
          | none => false
        let x := { x with record := some r }
        if same then x else { x with expected := 0, skipNext := false, ended := [] })
      (St.ok, 0, [], unbindTest (copyPlan g s)))

/-- The first check of PLAN_LOAD that fails (R229 to R235, R260, R307, R308, R318). -/
def State.planRefused (s : State) (b : List Byte) (len group : Nat) : Option (Byte × Nat) :=
  let nl := fieldOf b 14 2
  let nc := fieldOf b 16 2
  if fieldOf b 0 2 ≠ group ∨ len ≠ 64 + 8 * (planSteps b + nl + nc) then some (St.groupBad, 5)
  else
    let g := s.group group
    if !planRangeOk b then some (St.groupBad, 1)
    else
      match g.record with
      | none => some (St.groupBad, 5)
      | some r =>
        let p := parsePlan b
        if 512 < nl ∨ 511 < nc ∨ !planRulesOk r p ∨ !s.enginesOk p ∨ !s.countersOk r.slice p then
          some (St.groupBad, 5)
        else if s.groupOpen group then some (St.groupBad, 6)
        else if !s.planSliceOk r (some p) then some (St.groupBad, 7)
        else if !s.featuresOk r p then some (St.versionRefused, 0)
        else if !(s.residueOf g).isEmpty then some (St.counterResidue, 0)
        else none

/-- PLAN_LOAD (R230). -/
def planLoad (host : List Byte) (s : State) : State :=
  s.runBody dkPlanLoad 0 host (fun j s =>
    let len := fieldOf j.desc 16 4
    let b := s.jobData j.src (fieldOf j.desc 8 8) (min len 1048752) host
    let g := fieldOf j.desc 20 2
    let s := completeFirst g s
    match s.planRefused b len g with
    | some (st, d) => refuseGroup g st d s
    | none =>
      let p := parsePlan b
      let s := copyPlan g (s.modGroup g (fun x => { x with plan := some p, suspended := none }))
      let s := match (s.group g).record with
        | some r => bindCounters r.slice p s
        | none => s
      (St.ok, 0, [], unbindTest s))

/-- RESYNC (R258). -/
def resync (s : State) : State :=
  s.runJob dkResync 0 (fun j s =>
    let g := fieldOf j.desc 8 2
    let s := completeFirst g s
    if (s.group g).record.isNone then (St.groupBad, 1, [], s)
    else
      let s := s.forEach (s.openInvs (fun v => v.group == g)) (fun s k => abortInv k St.stepSkew 0 none false s)
      (St.ok, 0, [], s.modGroup g (fun x => { x with expected := fieldOf j.desc 16 6, skipNext := false })))

/-! ## Suspension (R234, 09 R280) -/

/-- Suspend a group with a status; its open invocations end with it. -/
def suspendGroup (st : Byte) (g : Nat) (s : State) : State :=
  let s := s.modGroup g (fun x => { x with suspended := some st })
  s.forEach (s.openInvs (fun v => v.group == g)) (fun s k => abortInv k st 0 none false s)

/-- The installed groups, in ascending identifier, whose record and plan satisfy p. -/
def State.groupsWith (s : State) (p : GroupRec → Plan → Bool) : List Nat :=
  (s.groups.filter (fun e => match e.2.record, e.2.plan with
    | some r, some q => p r q
    | _, _ => false)).map Prod.fst

/-- Port p carries a feature that a plan's routes need (R234): bit 0 EXACT_UP, bit 1 RESTORE_EXP. -/
def State.needsOf (s : State) (r : GroupRec) (p : Plan) (port bit : Nat) : Bool :=
  let named (ep : BitVec 16) : Bool := (s.portsNamed r.slice.toNat ep).contains port
  if bit = 0 then r.exactUp && p.toParent && named p.parentEp
  else r.op.toNat == opExpand && p.source && named p.rootEp

/-- A port has trained again: suspend the groups whose plans need a feature that it lost (R234). -/
def featuresChanged (port : Nat) (s : State) : State :=
  let x := s.port port
  let lost := (List.range 2).filter (fun b => x.featBefore.getLsbD b && !x.features.getLsbD b)
  let hit := (s.groupsWith (fun r p => lost.any (fun b => s.needsOf r p port b))).filter (fun g =>
    (s.group g).suspended.isNone)
  s.forEach hit (fun s g => suspendGroup St.versionRefused g s)

/-- IDENT_RECEIVED on a port (03 R79, R81, R82): the version and the features, then the groups that need
one the port has lost, then the wiring comparison. -/
def identReceived (p : Nat) (slot : List Byte) (corr unc : Nat) (s : State) : State :=
  let (go, s) := identTaken p slot corr unc s
  if go then
    runWiring p ((featuresChanged p s).modPort p (fun x => { x with featBefore := x.features }))
  else s

/-! ## The engine map and the loss of an engine (09 R260, R280, R282, 10 R308) -/

/-- The logical engine whose valid entry names a physical engine. -/
def State.logicalOf (s : State) (e : Nat) : Option Nat :=
  (List.range 64).find? (fun k => s.physEngine k == some e)

/-- The engine is in service and named by no valid entry (R260). -/
def State.isSpare (s : State) (e : Nat) : Bool := (s.engine e).inService && (s.logicalOf e).isNone

/-- The spare that takes over for a lost engine: the lowest of its die, or else of any, all of whose
counters are 0 (R280, R308). DEDUCED: log entry 192. -/
def State.spareFor (s : State) (e : Nat) : Option Nat :=
  let ok := (List.range 64).filter (fun q => s.isSpare q && s.ctrMap q == 0)
  ((ok.filter (fun q => q / 8 == e / 8)).head?).or ok.head?

/-- Point a logical engine elsewhere after the loss of its engine, or make it invalid and suspend the
groups that name it (R280 steps 2 and 3). -/
def remapEngine (k e : Nat) (s : State) : State :=
  match s.spareFor e with
  | some q =>
    (remap k (fun x => { x with physX := BitVec.ofNat 6 (q ^^^ k), valid := true, auto := true }) s).hwSet (wbAuto k)
  | none =>
    let s := remap k (fun x => { x with valid := false }) s
    let named := s.groupsWith (fun _ p => decide (p.engineFirst ≤ k ∧ k < p.engineFirst + p.engineCount))
    s.forEach named (fun s g => suspendGroup St.calderaLost g s)

/-- What the loss of an engine that is out of service already does (R280): its landed packets are
discarded, its logical number goes to a spare, its invocations end, and a residue of its counters is
posted (R318). -/
def engineGone (e : Nat) (s : State) : State :=
  let s := s.modCaldera (e / 8) (fun c => { c with landing := c.landing.filter (fun l => l.user != e % 8) })
  let s := { s with float := { s.float with starts := s.float.starts.filter (fun q => q.engine != e) } }
  let s := match s.logicalOf e with
    | some k => remapEngine k e s
    | none => s
  let s := s.forEach (s.openInvs (fun v => v.engines.contains e)) (fun s k => abortInv k St.calderaLost 0 none false s)
  if s.ctrMap e = 0 then s else residueEvent s e

/-- An engine goes out of service. Where it runs, it stops through the fall bucket like any other (02 R42).
DEDUCED: log entry 92. -/
def engineOut (e : Nat) (s : State) : State :=
  s.modEngine e (fun x => { x with inService := false })

/-- ENGINE_LOSS of a physical engine (R280). DEDUCED: log entry 81. -/
def engineLoss (e : Nat) (s : State) : State :=
  if (s.engine e).inService then engineGone e (engineOut e s) else s

/-- ENGINE_MAP_WRITE of entry k (R282, R292, 10 R308). DEDUCED: log entry 91. -/
def engineMapWrite (m k w : Nat) (s : State) : State :=
  s.ownerWrite m (fun s =>
    let old := s.emap k
    let new : EngMap := { physX := BitVec.ofNat 6 (w % 64 ^^^ k), valid := bitOf w 6
                          auto := old.auto && !(bitOf w 7 && !s.justSet mgCycle (wbAuto k)) }
    let p := w % 64
    let used := s.invs.any (fun e => match e.2 with
      | some v => (s.groupPlan v.group).any (fun q => decide (q.engineFirst ≤ k ∧ k < q.engineFirst + q.engineCount))
      | none => false)
    let same := new.physX == old.physX && new.valid == old.valid
    let twice := (List.range 64).any (fun j => j != k && s.physEngine j == some p)
    let bad := !same && new.valid && (twice || !(s.engine p).inService || s.ctrMap p != 0)
    let drop (s : State) : State := ({ s with pkg := { s.pkg with mapDropped := true } }).hwSet wbMap
    if used then (drop s).wweEvent m (0x2000 + 4 * k) w
    else if bad then drop s
    else remap k (fun _ => new) s)

/-! ## The commands -/

/-- GROUP_INSTALL (08 R229). -/
def execGroupInstall (t : Nat) (host : List Byte) (s : State) : Out := run true t (groupInstall host) s

/-- PLAN_LOAD (08 R230). -/
def execPlanLoad (t : Nat) (host : List Byte) (s : State) : Out := run true t (planLoad host) s

/-- RESYNC (08 R258). -/
def execResync (t : Nat) (s : State) : Out := run true t resync s

/-- IDENT_RECEIVED (03 R79). -/
def execIdentReceived (t p : Nat) (slot : List Byte) (s : State) (corr unc : Nat := 0) : Out :=
  run (decide (p < 512)) t (identReceived p slot corr unc) s

/-- ENGINE_LOSS (09 R280). -/
def execEngineLoss (t e : Nat) (s : State) : Out := run (decide (e < 64)) t (engineLoss e) s

/-- ENGINE_MAP_WRITE (09 R282). -/
def execEngineMapWrite (t m k w : Nat) (s : State) : Out :=
  run (isMaster m && decide (k < 64) && decide (w < 2 ^ 32)) t (onPath m (engineMapWrite m k w)) s

end Sys2Proof.Machine
end

