-- ==== Sys2Proof/Machine/Recovery.lean ====
section
/-! DEFINITION. Checkpoints and recovery: parity groups and epochs, folds, declarations, the interval,
rebuilds and the buddy ledger (14 R418 to R449, 09 R286 to R290). -/

namespace Sys2Proof.Machine

/-! ## The state of the sequencer -/

/-- Change the recovery state. -/
def State.modRecov (s : State) (f : Recovery → Recovery) : State := { s with recov := f s.recov }

/-- Change parity group g. -/
def State.modPgroup (s : State) (g : Nat) (f : PGroup → PGroup) : State :=
  s.modRecov (fun r => { r with groups := tmod {} r.groups g f })

/-- Change an epoch of a parity group. -/
def State.modEpoch (s : State) (g : Nat) (b : Bool) (f : Epoch → Epoch) : State :=
  s.modPgroup g (fun x => if b then { x with epochB := f x.epochB } else { x with epochA := f x.epochA })

/-- Rebuild slot k. -/
def State.rebuild (s : State) (k : Nat) : Rebuild := tget {} s.recov.rebuilds k
def State.modRebuild (s : State) (k : Nat) (f : Rebuild → Rebuild) : State :=
  s.modRecov (fun r => { r with rebuilds := tmod {} r.rebuilds k f })

/-- Spare list entry k. -/
def State.spare (s : State) (k : Nat) : Spare := tget {} s.recov.spares k
def State.modSpare (s : State) (k : Nat) (f : Spare → Spare) : State :=
  s.modRecov (fun r => { r with spares := tmod {} r.spares k f })

/-- The Caldera dies in service, as a live list. -/
def State.liveNow (s : State) : BitVec 8 :=
  BitVec.ofNat 8 ((List.range 8).foldl (fun n c => if (s.caldera c).lost then n else n + 2 ^ c) 0)

/-- The code of an epoch state (R427). DEDUCED: log entry 94. -/
def EpochState.code : EpochState → Nat
  | .empty => 0
  | .folding => 1
  | .complete => 2
  | .incomplete => 3

/-- Blocks not fully folded in an epoch. -/
def PGroup.missing (g : PGroup) (b : Bool) : Nat := g.blocks - (g.epoch b).full

/-- Parity blocks that a die holds of an epoch (R426, 09 R283). -/
def State.shareBlocks (s : State) (b : Bool) : Nat := (if b then s.pkg.partB else s.pkg.partA) / 8 / 4369

/-- Accumulators that a quarter of a die's reservoir share holds (R432, 09 R284). -/
def State.quarterBlocks (s : State) : Nat := s.pkg.partRes / 8 / 4 / 4369

/-! ## Fold packets that the Driant sends (R421, R422) -/

def ftFold : Nat := 1
def ftFeed : Nat := 2
def ftFeedReq : Nat := 3
def ftRebuilt : Nat := 4
def ftLedger : Nat := 5

/-- A fold tag (R421). DEDUCED: log entry 102. -/
def foldTag (type g : Nat) (b : Bool) (member rslot seq block : Nat) : Nat :=
  type + 8 * g + 128 * b2n b + 2 ^ 8 * member + 2 ^ 14 * rslot + 2 ^ 16 * seq + 2 ^ 24 * block

/-- Send a fold packet from the lowest-numbered Caldera die in service (R422). -/
def sendFold (dst slice tag : Nat) (payload : List Byte) (payCrc : BitVec 32) (s : State) : State :=
  let h : PktHdr := { vc := 4, cls := 2, dst := BitVec.ofNat 16 dst, slice := BitVec.ofNat 8 slice
                      launch := BitVec.ofNat 64 tag }
  if s.halted then s else sendFrom s.firstCaldera 8 h [] payload payCrc none s

/-! ## The ledger (R437 to R439) -/

def lkHeartbeat : Nat := 1
def lkDefine : Nat := 2
def lkMembers : Nat := 3
def lkEpoch : Nat := 4
def lkFail : Nat := 5
def lkRebuild : Nat := 6
def lkRelease : Nat := 7

/-- Write a ledger entry and send it to the buddy (R437, R439). -/
def ledger (kind g : Nat) (body : List Byte) (s : State) : State :=
  let seq := s.recov.ledgerSeq.toNat
  let e := leBytes 1 kind ++ leBytes 1 g ++ zeros 2 ++ leBytes 4 seq ++ leBytes 8 s.ftcNow ++ padTo 48 body
  let s := s.modRecov (fun r => { r with ledger := tset [] r.ledger (seq % 1024) e, ledgerSeq := r.ledgerSeq + 1 })
  if s.recov.buddyEp = 0xFFFF then s
  else sendFold s.recov.buddyEp.toNat s.recov.recSlice.toNat (foldTag ftLedger 0 false 0 0 0 0) e (crc32c e) s

/-- The EPOCH entry of an epoch. -/
def ledgerEpoch (g : Nat) (b : Bool) (s : State) : State :=
  let x := s.pgroup g
  let e := x.epoch b
  ledger lkEpoch g ([BitVec.ofNat 8 (b2n b), BitVec.ofNat 8 e.state.code, e.seq, 0] ++ leBytes 4 (x.missing b)) s

/-- A MEMBERS entry of n members from first on. -/
def ledgerMembers (g first n : Nat) (s : State) : State :=
  let eps := ((s.pgroup g).members.drop first).take n
  ledger lkMembers g (leBytes 1 first ++ leBytes 1 n ++ eps.flatMap (fun e => leBytes 2 e.toNat)) s

/-- A REBUILD entry of slot k. -/
def ledgerRebuild (k : Nat) (st : Byte) (detail : Nat) (s : State) : State :=
  let r := s.rebuild k
  ledger lkRebuild r.pgroup (leBytes 1 k ++ leBytes 1 r.member ++ leBytes 2 r.spareEp.toNat ++
    leBytes 1 (b2n r.epochB) ++ [st] ++ leBytes 1 detail ++ [0] ++ leBytes 4 r.blocksBad.toNat) s

/-- LEDGER_HEARTBEAT (R437, R438). -/
def heartbeatEntry (s : State) : State :=
  let r := s.recov
  if !s.past r.heartbeatAt (1000000 * r.hbMs.toNat) || s.vent.inSafe then s
  else
    let epochs := (List.range 16).foldl (fun n g =>
      let x := s.pgroup g
      n + 2 ^ (4 * g) * (x.epochA.state.code + 4 * x.epochB.state.code)) 0
    let slots := (List.range 4).flatMap (fun k =>
      let x := s.rebuild k
      leBytes 2 (if x.active then x.pgroup + 16 * x.member + 2 ^ 15 else 0))
    let body := leBytes 8 epochs ++ slots ++ leBytes 4 r.tauMs ++ leBytes 1 s.liveNow.toNat
    ledger lkHeartbeat 0 body (s.modRecov (fun r => { r with heartbeatAt := s.now }))

/-! ## The interval (R430) -/

/-- The integer square root, from bit k down. DEDUCED: log entry 175. -/
def isqrtFrom (n : Nat) : Nat → Nat → Nat
  | 0, r => if (r + 1) * (r + 1) ≤ n then r + 1 else r
  | k + 1, r => isqrtFrom n k (if (r + 2 ^ (k + 1)) * (r + 2 ^ (k + 1)) ≤ n then r + 2 ^ (k + 1) else r)

/-- Declared failures in the window. -/
def Recovery.fails (r : Recovery) : Nat := r.buckets.foldl (fun n x => n + x) 0

/-- The interval in ms (R430). -/
def intervalMs (foldMs windowH f tmin tmax : Nat) : Nat :=
  if foldMs = 0 then 0
  else
    let lam := windowH * 3600000 / (f + 1)
    min (max (isqrtFrom (2 * foldMs * lam) 40 0) (tmin * 1000)) (tmax * 1000)

/-- Recompute the interval, and post INTERVAL where it is due. -/
def newInterval (s : State) : State :=
  let r := s.recov
  let tau := intervalMs r.foldMs r.lambdaH.toNat r.fails r.tauMin.toNat r.tauMax.toNat
  let apart := if tau ≤ r.postedTau then r.postedTau - tau else tau - r.postedTau
  let s := s.modRecov (fun r => { r with tauMs := tau })
  if (r.postedTau = 0 ∧ tau ≠ 0) ∨ (r.postedTau ≠ 0 ∧ r.postedTau < 10 * apart) then
    (s.modRecov (fun r => { r with postedTau := tau })).event evInterval dieTD 0 tau
      (r.fails % 2 ^ 32 + 2 ^ 32 * (r.foldMs % 2 ^ 32))
  else s

/-- Length of a bucket in ns: lambda_window_h / 64. -/
def Recovery.bucketNs (r : Recovery) : Nat := r.lambdaH.toNat * 3600000000000 / 64

/-- INTERVAL_BUCKET_EXPIRY (R430). -/
def bucketExpiry (s : State) : State :=
  let r := s.recov
  if s.past r.bucketAt r.bucketNs then
    newInterval (s.modRecov (fun r => { r with buckets := (0 :: r.buckets).take 64, bucketAt := r.bucketAt + r.bucketNs }))
  else s

/-! ## Epochs that end (R427, R428) -/

/-- Post FOLD_DONE for an epoch (R443). -/
def foldDone (g : Nat) (b : Bool) (s : State) : State :=
  let x := s.pgroup g
  let e := x.epoch b
  s.event evFoldDone dieTD g (b2n b + 2 ^ 8 * e.seq.toNat + 2 ^ 16 * e.state.code) (x.missing b)

/-- A FOLDING epoch ends in a state. -/
def endEpoch (g : Nat) (b : Bool) (st : EpochState) (s : State) : State :=
  ledgerEpoch g b (foldDone g b (s.modEpoch g b (fun e => { e with state := st })))

/-- Every block of the epoch is fully folded (R428). -/
def completeEpoch (g : Nat) (b : Bool) (s : State) : State :=
  let c := match ((s.pgroup g).epoch b).firstFold with
    | some f => (s.ftcNow - f) / 1000000
    | none => 0
  newInterval (endEpoch g b .complete (s.modRecov (fun r => { r with foldMs := c })))

/-! ## Rebuilds that end (R432, R434) -/

/-- Post REBUILD_DONE (R443). DEDUCED: log entry 101. -/
def rebuildDone (g member k : Nat) (ep : BitVec 16) (bad : Nat) (st : Byte) (detail : Nat) (s : State) : State :=
  s.event evRebuildDone dieTD g (st.toNat + 2 ^ 8 * detail + 2 ^ 16 * member + 2 ^ 24 * k)
    (ep.toNat + 2 ^ 32 * bad)

/-- The accumulators of slot k are empty again on every die. -/
def clearAccums (k : Nat) (s : State) : State :=
  s.forEach (List.range 8) (fun s c => s.modCaldera c (fun x =>
    { x with accums := x.accums.filter (fun e => e.1 / 2 ^ 32 != k) }))

/-- The spare list entries that hold an endpoint. -/
def State.sparesWith (s : State) (ep : BitVec 16) : List Nat :=
  (List.range 8).filter (fun i => (s.spare i).ep == ep && ep != 0xFFFF)

/-- Mark the spare list entries of an endpoint in use, or free. -/
def markSpare (ep : BitVec 16) (used : Bool) (s : State) : State :=
  s.forEach (s.sparesWith ep) (fun s i => s.modSpare i (fun x => { x with inUse := used }))

/-- The rebuild in slot k ends: its accumulators and its spare are free, the end stands in its register and
in the ledger, and REBUILD_DONE is posted where post says. -/
def endRebuild (k : Nat) (st : Byte) (detail : Nat) (post : Bool) (s : State) : State :=
  let r := s.rebuild k
  if !r.active then s
  else
    let s := markSpare r.spareEp false (clearAccums k s)
    let s := ledgerRebuild k st detail s
    let s := s.modRebuild k (fun x => { x with active := false, loaded := false, status := st, detail := BitVec.ofNat 8 detail })
    s.when post (rebuildDone r.pgroup r.member k r.spareEp r.blocksBad.toNat st detail)

/-- The slots that run a rebuild satisfying p. -/
def State.rebuilds (s : State) (p : Rebuild → Bool) : List Nat :=
  (List.range 4).filter (fun k => (s.rebuild k).active && p (s.rebuild k))

/-- The safe state ends every rebuild, posting nothing (R434). -/
def abandonRebuilds (s : State) : State :=
  s.forEach (s.rebuilds (fun _ => true)) (fun s k => endRebuild k St.parityUnavailable 7 false s)

/-- The lowest spare list entry that is valid, not in use and not failed (R431). -/
def State.freeSpare (s : State) : Option Nat :=
  (List.range 8).find? (fun i => (s.spare i).valid && !(s.spare i).inUse && !(s.spare i).failed)

/-- The fill of slot k restarts from block 0 to another spare (R434). DEDUCED: log entry 100. -/
def restartFill (k : Nat) (ep : BitVec 16) (s : State) : State :=
  let r := s.rebuild k
  let s := markSpare ep true (markSpare r.spareEp false (clearAccums k s))
  s.modRebuild k (fun x =>
    { x with spareEp := ep, windowFirst := 0, windowLen := 0, loaded := false, doneInWindow := 0, blocksSent := 0
             blocksBad := 0, restarts := satInc x.restarts })

/-! ## Declarations (R429) -/

/-- Declare a member failed, once (R429, R434). cause: 1 PORT, 2 OWNER. -/
def declare (g m cause : Nat) (s : State) : State :=
  let x := s.pgroup g
  if x.failed.getLsbD m then s
  else
    let ep := x.members.getD m 0xFFFF
    let s := s.modPgroup g (fun x => { x with failed := setBit x.failed m true })
    let s := s.event evMemberFailed dieTD g (m + 2 ^ 8 * cause) ep.toNat
    let s := s.modRecov (fun r => { r with buckets := (r.buckets.headD 0 + 1) :: r.buckets.drop 1 })
    let s := ledger lkFail g [BitVec.ofNat 8 m, BitVec.ofNat 8 cause] s
    let s := s.forEach [false, true] (fun s b =>
      s.when (((s.pgroup g).epoch b).state == .folding) (endEpoch g b .incomplete))
    let s := s.forEach (s.rebuilds (fun r => r.pgroup == g && r.member != m))
      (fun s k => endRebuild k St.parityUnavailable 1 true s)
    newInterval s

/-- Every die of an epoch's live list is in service. -/
def State.liveUp (s : State) (live : BitVec 8) : Bool := (liveDies live).all (fun c => !(s.caldera c).lost)

/-- Checks 2, 3 and 5 of R431 for a member and an epoch. -/
def State.rebuildRefused (s : State) (g m : Nat) (b : Bool) : Option (Byte × Nat) :=
  let x := s.pgroup g
  let e := x.epoch b
  if e.state != .complete || !s.liveUp e.live then some (St.parityUnavailable, 5)
  else if (x.failed &&& ~~~(BitVec.ofNat 64 (2 ^ m))) != 0 then some (St.parityUnavailable, 1)
  else none

/-- Take slot k for a rebuild (R431). -/
def takeSlot (k g m : Nat) (b : Bool) (ep : BitVec 16) (s : State) : State :=
  let e := (s.pgroup g).epoch b
  let s := s.modRebuild k (fun x =>
    { x with active := true, pgroup := g, member := m, epochB := b, epochSeq := e.seq, spareEp := ep
             windowFirst := 0, windowLen := 0, blocksSent := 0, blocksBad := 0, restarts := 0, loaded := false
             doneInWindow := 0 })
  ledgerRebuild k 0xFF 0 (markSpare ep true s)

/-- The COMPLETE epoch opened later; epoch A where none is. -/
def PGroup.latest (g : PGroup) : Bool :=
  g.epochB.state == .complete && (g.epochA.state != .complete || decide (g.epochA.order < g.epochB.order))

/-- A free rebuild slot. -/
def State.freeSlot (s : State) : Option Nat := (List.range 4).find? (fun k => !(s.rebuild k).active)

/-- Start an automatic rebuild of a declared member, or say whether it must wait (R431). -/
def autoRebuild (g m : Nat) (s : State) : Bool × State :=
  let b := (s.pgroup g).latest
  let fail (st : Byte) (d : Nat) : Bool × State :=
    let ep := (s.freeSpare.map (fun i => (s.spare i).ep)).getD 0xFFFF
    (false, rebuildDone g m 0 ep 0 st d s)
  match s.rebuildRefused g m b with
  | some (st, d) => fail st d
  | none =>
    if s.quarterBlocks = 0 then fail St.parityBad 3
    else
      match s.freeSlot, s.freeSpare with
      | some k, some i => (false, takeSlot k g m b (s.spare i).ep s)
      | _, _ => (true, s)

/-- A port that an endpoint's unicast PORT entry names in a slice, facing an endpoint, has been out of ACTIVE
for fail_hold_ms (R429): since it left, or since time zero of the bring-up where it has not been ACTIVE (DEDUCED: log
entry 268). -/
def State.endpointOut (s : State) (slice : Nat) (ep : BitVec 16) : Bool :=
  let d := s.slice slice
  match (if d.valid then routeIndex d { dst := ep } else none) with
  | none => false
  | some i =>
    let e := s.route i
    let p := entryTarget e
    entryKind e == rkPort && s.endpointFacing p && (s.port p).state != .active &&
      s.past ((tget none s.recov.outSince p).getD s.boot.zeroAt) (1000000 * s.recov.failHoldMs.toNat)

/-- Declaration of spare list entry i (R429, R434): a fill that uses it restarts to the next free entry, or
its rebuild ends. DEDUCED: log entry 97. -/
def spareFailed (i : Nat) (s : State) : State :=
  let x := s.spare i
  let seen := (List.range 16).any (fun g =>
    (s.pgroup g).defined && s.endpointOut (s.pgroup g).slice.toNat x.ep)
  if !x.valid || x.failed || !seen then s
  else
    let s := (s.modSpare i (fun x => { x with failed := true })).hwSet (wbSpare i)
    let s := s.event evMemberFailed dieTD 0xFF (i + 2 ^ 8) x.ep.toNat
    s.forEach (s.rebuilds (fun r => r.spareEp == x.ep)) (fun s k =>
      match s.freeSpare with
      | some j => restartFill k (s.spare j).ep s
      | none => endRebuild k St.parityUnavailable 3 true s)

/-- AUTO_REBUILD_START (R431): the first waiting rebuild that can start starts; one whose member is no longer
failed, or is rebuilt already, is forgotten. -/
def autoStart (s : State) : State :=
  match s.recov.waiting with
  | [] => s
  | (g, m) :: rest =>
    if s.vent.inSafe then s
    else if !(s.pgroup g).defined || !(s.pgroup g).failed.getLsbD m ||
        !(s.rebuilds (fun r => r.pgroup == g && r.member == m)).isEmpty then
      s.modRecov (fun r => { r with waiting := rest })
    else
      let (wait, s) := autoRebuild g m s
      if wait then s else s.modRecov (fun r => { r with waiting := rest })

/-! ## PARITY_GROUP and REBUILD (R425, R426, R431) -/

/-- The parity group a descriptor names, where it is one of the 16. -/
def jobGroup (d : List Byte) : Nat := fieldOf d 8 1

/-- TABLE of R425 for a member table of n members. -/
def State.tableBad (s : State) (b : List Byte) (n : Nat) : Bool :=
  let ep (i : Nat) : Nat := fieldOf b (8 * i) 2
  let sl (i : Nat) : Nat := fieldOf b (8 * i + 2) 1
  n == 0 || decide (64 < n) || !distinct ((List.range n).map ep) || (List.range n).any (fun i => sl i != sl 0) ||
    !(s.slice (sl 0)).valid || (List.range n).any (fun i => fieldOf b (8 * i + 3) 5 != 0)

/-- Blocks of an image on each die of a live list (R426). -/
def perDie (blocks : Nat) (live : BitVec 8) : Nat :=
  let n := (liveDies live).length
  if n = 0 then 0 else (blocks + n - 1) / n

/-- The image does not fit one epoch (R425). DEDUCED: log entry 95. -/
def State.imageTooBig (s : State) (blocks : Nat) : Bool :=
  (liveDies s.liveNow).isEmpty ||
    decide (min (s.shareBlocks false) (s.shareBlocks true) < perDie blocks s.liveNow)

/-- DEFINE (R425). DEDUCED: log entry 93. -/
def define (host : List Byte) (s : State) : State :=
  s.runBody dkParityGroup 1 host (fun j s =>
    let g := jobGroup j.desc
    let n := fieldOf j.desc 10 1
    let blocks := fieldOf j.desc 12 4
    let b := s.jobData j.src (fieldOf j.desc 16 8) (8 * n) host
    let no (d : Nat) : Byte × Nat × List Byte × State := (St.parityBad, d, [], s)
    if 15 < g then no 4
    else if (s.pgroup g).defined then no 1
    else if s.tableBad b n then no 2
    else if blocks = 0 ∨ s.imageTooBig blocks then no 3
    else if s.recov.parityEp = 0xFFFF then no 10
    else
      let x : PGroup := { defined := true, slice := byteAt b 2, blocks := blocks
                          members := (List.range n).map (fun i => BitVec.ofNat 16 (fieldOf b (8 * i) 2)) }
      let s := s.modPgroup g (fun _ => x)
      let s := ledger lkDefine g ([x.slice, BitVec.ofNat 8 n, 0, 0] ++ leBytes 4 blocks) s
      let s := s.forEach (List.range ((n + 22) / 23)) (fun s i => ledgerMembers g (23 * i) (min 23 (n - 23 * i)) s)
      (St.ok, 0, [], s))

/-- The regions of an epoch share on the dies of a live list, other than group g's. DEDUCED: log entry 96. -/
def State.regions (s : State) (g : Nat) (b : Bool) (live : BitVec 8) : List (Nat × Nat) :=
  (List.range 16).filterMap (fun i =>
    let e := (s.pgroup i).epoch b
    if i = g ∨ e.live &&& live = 0 then none else e.region)

/-- The lowest local index at which n blocks fit beside the taken regions (R426). -/
def firstFit (n size : Nat) (taken : List (Nat × Nat)) : Option Nat :=
  let starts := 0 :: taken.map (fun r => r.1 + r.2)
  let ok (a : Nat) : Bool := decide (a + n ≤ size) && taken.all (fun r => decide (a + n ≤ r.1 ∨ r.1 + r.2 ≤ a))
  (starts.filter ok).foldl (fun best a => match best with
    | some x => some (min x a)
    | none => some a) none

/-- The first check of OPEN_EPOCH that fails (R425). -/
def State.openRefused (s : State) (g : Nat) (b : Bool) : Option Nat :=
  let x := s.pgroup g
  let live := s.liveNow
  if 15 < g ∨ !x.defined then some 4
  else if (x.epoch (!b)).state == .folding then some 5
  else if !(s.rebuilds (fun r => r.pgroup == g && r.epochB == b)).isEmpty then some 6
  else if (x.epoch b).state == .complete && (x.epoch (!b)).state != .complete then some 7
  else if x.failed ≠ 0 then some 9
  else if (liveDies live).isEmpty ||
      (firstFit (perDie x.blocks live) (s.shareBlocks b) (s.regions g b live)).isNone then some 3
  else none

/-- The parity blocks of a region are gone on every die of its live list. -/
def clearRegion (b : Bool) (live : BitVec 8) (region : Nat × Nat) (s : State) : State :=
  let base := b2n b * 2 ^ 32 + region.1
  s.forEach (liveDies live) (fun s c => s.modCaldera c (fun x =>
    { x with parity := x.parity.filter (fun e => decide (e.1 < base ∨ base + region.2 ≤ e.1)) }))

/-- OPEN_EPOCH (R425): the sequence number, the live list and the region are taken, and the descriptor waits
for EPOCH_OPEN_DONE. -/
def openEpoch (s : State) : State :=
  if s.vent.inSafe || s.clkStopped dieTD then s
  else match takeJobFrom (fun j => jobIs dkParityGroup 2 j && !j.started) [] s.jobs with
    | none => s
    | some (j, rest) =>
      let g := jobGroup j.desc
      let b := bitOf (fieldOf j.desc 11 1) 0
      if !s.isOwner (jobMaster j.src) then ({ s with jobs := rest }).complete j.src j.desc St.notOwner 0 []
      else match s.openRefused g b with
        | some d => ({ s with jobs := rest }).complete j.src j.desc St.parityBad d []
        | none =>
          let x := s.pgroup g
          let live := s.liveNow
          let n := perDie x.blocks live
          let at_ := (firstFit n (s.shareBlocks b) (s.regions g b live)).getD 0
          let s := { s with jobs := { j with started := true } :: rest }
          let s := s.modPgroup g (fun x => { x with seqCtr := x.seqCtr + 1 })
          let s := s.modRecov (fun r => { r with opens := r.opens + 1 })
          let e : Epoch := { seq := x.seqCtr + 1, live := live, region := some (at_, n), opening := true
                             order := s.recov.opens }
          s.modEpoch g b (fun _ => e)

/-- EPOCH_OPEN_DONE (R425): every directory entry of the region is written, and the epoch is FOLDING. -/
def openDone (s : State) : State :=
  if s.vent.inSafe || s.clkStopped dieTD then s
  else match s.jobs.find? (fun j => j.started && descKind j.desc == dkParityGroup) with
    | none => s
    | some j =>
      let g := jobGroup j.desc
      let b := bitOf (fieldOf j.desc 11 1) 0
      let e := (s.pgroup g).epoch b
      let s := { s with jobs := s.jobs.filter (fun x => !x.started) }
      let s := clearRegion b e.live (e.region.getD (0, 0)) s
      let st : EpochState := if e.state == .incomplete then .incomplete else .folding
      let s := ledgerEpoch g b (s.modEpoch g b (fun e => { e with
        state := st, opening := false, clearedKey := s.sliceKey (s.pgroup g).slice.toNat }))
      s.complete j.src j.desc St.ok 0 [e.seq]

/-- CLOSE_EPOCH (R425). -/
def closeEpoch (s : State) : State :=
  s.runJob dkParityGroup 3 (fun j s =>
    let g := jobGroup j.desc
    let b := bitOf (fieldOf j.desc 11 1) 0
    let x := s.pgroup g
    if 15 < g ∨ !x.defined then (St.parityBad, 4, [], s)
    else if (x.epoch b).state != .folding then (St.parityBad, 8, [], s)
    else
      let m := x.missing b
      let s := endEpoch g b (if m = 0 then .complete else .incomplete) s
      (St.ok, 0, leBytes 4 m, if m = 0 then newInterval s else s))

/-- RELEASE (R425). -/
def releaseGroup (s : State) : State :=
  s.runJob dkParityGroup 4 (fun j s =>
    let g := jobGroup j.desc
    if 15 < g ∨ !(s.pgroup g).defined then (St.parityBad, 4, [], s)
    else if !(s.rebuilds (fun r => r.pgroup == g)).isEmpty then (St.parityBad, 6, [], s)
    else (St.ok, 0, [], ledger lkRelease g [] (s.modPgroup g (fun _ => {}))))

/-! ## Parity blocks (09 R286 to R289) -/

/-- The key of block i of a region. -/
def parityKey (b : Bool) (index : Nat) : Nat := b2n b * 2 ^ 32 + index

/-- The key of an accumulator. -/
def accumKey (k block : Nat) : Nat := k * 2 ^ 32 + block

/-- Parity block i of an epoch's share on die c, as the fold unit of a group reads it (09 R287, R465): its rows
were written under the key of the group's slice, and an entry not folded into since the region was cleared
reads as zero under the key it was cleared with. -/
def State.readBlock (s : State) (c g : Nat) (b : Bool) (i : Nat) : PBlock :=
  let x := s.pgroup g
  let now := s.sliceKey x.slice.toNat
  let p := tget { key := (x.epoch b).clearedKey } (s.caldera c).parity (parityKey b i)
  if p.key = now then p
  else
    let bs := s.reread c (b2n b) (4112 * i) p.key now (padTo 4096 p.data ++ p.entry)
    { data := bs.take 4096, folded := BitVec.ofNat 64 (fieldOf bs 4096 8)
      crcAcc := BitVec.ofNat 32 (fieldOf bs 4104 4), blockLo := BitVec.ofNat 16 (fieldOf bs 4108 2)
      epochSeq := BitVec.ofNat 8 (fieldOf bs 4110 1), bad := p.bad, key := now }

/-- The accumulator of rebuild slot k for a block, as the fold unit of die c reads it (09 R284, R465): its rows
are encrypted under the key of the slice of the group being rebuilt. DESIGN CHOICE: log entry 233. -/
def State.readAccum (s : State) (c k block : Nat) : Accum :=
  let r := s.rebuild k
  let x := s.pgroup r.pgroup
  let now := s.sliceKey x.slice.toNat
  let a := tget ({} : Accum) (s.caldera c).accums (accumKey k block)
  if a.key = now then a
  else
    let place := (block - r.windowFirst) / max 1 (liveDies (x.epoch r.epochB).live).length
    let bs := s.reread c 2 (64 * (s.pkg.partRes / 8 / 4 / 68 * k) + 4112 * place) a.key now
      (padTo 4096 a.data ++ leBytes 4 a.acc.toNat ++ leBytes 8 a.bitmap.toNat ++ leBytes 4 a.block)
    { data := bs.take 4096, acc := BitVec.ofNat 32 (fieldOf bs 4096 4)
      bitmap := BitVec.ofNat 64 (fieldOf bs 4100 8), block := fieldOf bs 4108 4, key := now }

/-- The local index of a block (09 R286). -/
def Epoch.localIndex (e : Epoch) (block : Nat) : Nat :=
  (e.region.getD (0, 0)).1 + block / max 1 (liveDies e.live).length

/-- The CRC of 4,096 zero bytes (09 R289). -/
def zeroBlockCrc : BitVec 32 := crc32c (zeros 4096)

/-- Members folded into a block. -/
def PBlock.count (p : PBlock) : Nat := (bitsSet p.folded.toNat 64).length

/-- The check of R289: the CRC of the XOR of t blocks is the XOR of their CRCs, and Z where t is even. -/
def PBlock.ok (p : PBlock) : Bool :=
  crc32c (padTo 4096 p.data) == (if p.count % 2 = 0 then p.crcAcc ^^^ zeroBlockCrc else p.crcAcc)

/-- The parity group whose region on die c holds local index i of an epoch's share. -/
def State.blockGroup (s : State) (c : Nat) (b : Bool) (i : Nat) : Option Nat :=
  (List.range 16).find? (fun g =>
    let e := (s.pgroup g).epoch b
    e.live.getLsbD c && (match e.region with
      | some (a, n) => decide (a ≤ i ∧ i < a + n)
      | none => false))

/-- Check parity block i of an epoch's share on a read by group g; one that fails is marked bad, counted and raises
PARITY_STORE (R289). DEDUCED: log entry 105. -/
def checkBlock (c g : Nat) (b : Bool) (i : Nat) (s : State) : State :=
  let p := s.readBlock c g b i
  if p.bad || p.count = 0 || p.ok then s
  else
    (s.modCaldera c (fun x =>
      { x with foldCrc := satInc x.foldCrc, parity := tmod {} x.parity (parityKey b i) (fun q => { q with bad := true }) })).raise
      (dieCaldera c) srcParityStore

/-- Fold a block of a member (09 R288): the entry, and whether it was folded already. -/
def PBlock.fold (p : PBlock) (seq : BitVec 8) (b m : Nat) (data : List Byte) (crc : BitVec 32) : PBlock × Bool :=
  let p := if p.epochSeq ≠ seq ∨ p.blockLo ≠ BitVec.ofNat 16 b then
      { data := p.data, epochSeq := seq, blockLo := BitVec.ofNat 16 b, key := p.key } else p
  if p.folded.getLsbD m then (p, true)
  else
    let out := if p.folded = 0 then data else xorBytes (padTo 4096 p.data) data
    ({ p with data := out, folded := setBit p.folded m true, crcAcc := p.crcAcc ^^^ crc }, false)

/-! ## Fold packets that arrive (R423) -/

/-- A landed fold packet that passed the intake checks, on a die that runs (02 R50, R51). -/
def State.checkedFold (s : State) (die id : Nat) : Option LandMsg :=
  match s.landed die id with
  | some l => if l.phase == .checked && l.user == 8 && !s.halted && s.dieRuns (dieCaldera die) then some l.read else none
  | none => none

/-- The fold tag of a packet. -/
def LandMsg.tag (m : LandMsg) : Nat := m.hdr.launch.toNat

/-- Check 1 of R423. -/
def LandMsg.foldOk (m : LandMsg) : Bool :=
  let t := tagType m.tag
  (t == ftFold || t == ftFeed || t == ftLedger) && decide (m.tag < 2 ^ 56) &&
    m.payload.length == (if t == ftLedger then 64 else 4096)

/-- Count fold_bad or fold_stale. -/
def foldBad (s : State) : State := s.modRecov (fun r => { r with foldBad := satInc r.foldBad })
def foldStale (s : State) : State := s.modRecov (fun r => { r with foldStale := satInc r.foldStale })

/-- Check 3 of R423. -/
def State.foldMember (s : State) (m : LandMsg) : Bool :=
  let x := s.pgroup (tagGroup m.tag)
  x.defined && m.hdr.slice == x.slice && (match x.members[tagMember m.tag]? with
    | some e => m.hdr.src == e
    | none => false)

/-- The die is the home of the packet's block. -/
def State.isHome (s : State) (die : Nat) (m : LandMsg) : Bool :=
  homeDie (((s.pgroup (tagGroup m.tag)).epoch (tagEpochB m.tag)).live) (tagGroup m.tag) (tagBlock m.tag) == some die

/-- Count fold_misdirected (R423 check 6, 09 R286). -/
def misfold (die : Nat) (s : State) : State := s.countIntake die 8 (fun c => { c with misdirected := satInc c.misdirected })

/-- A parity block that cannot be read is marked bad (13 R391, R392, 09 R289). DESIGN CHOICE: log entry 262. -/
def spoilBlock (c : Nat) (b : Bool) (i : Nat) (s : State) : State :=
  s.modCaldera c (fun x => { x with parity := tmod {} x.parity (parityKey b i) (fun q => { q with bad := true }) })

/-- The device that holds the first byte of block i of a share (09 R283). -/
def blockDevice (i : Nat) : Nat := rowDevice (blockRows i).1

/-- A FOLD that passed check 1 (R423, R428, 09 R288). flaw: what the read of its block finds; a block that cannot be
read takes no fold. -/
def foldBlock (die : Nat) (m : LandMsg) (flaw : Flaw) (s : State) : State :=
  let g := tagGroup m.tag
  let b := tagEpochB m.tag
  let mem := tagMember m.tag
  let blk := tagBlock m.tag
  let x := s.pgroup g
  let e := x.epoch b
  if !s.foldMember m then foldBad s
  else if e.state != .folding || e.seq.toNat != tagSeq m.tag || decide (x.blocks ≤ blk) || x.failed.getLsbD mem then
    foldStale s
  else if !s.isHome die m then misfold die s
  else
    let i := e.localIndex blk
    let (good, s) := gddrRead die (blockDevice i) flaw s
    if !good then spoilBlock die b i s
    else
    let old := s.readBlock die g b i
    let (new, dup) := old.fold e.seq blk mem m.payload m.l.payCrc
    let s := s.modEpoch g b (fun e => { e with firstFold := some (e.firstFold.getD s.ftcNow) })
    if dup then s.modCaldera die (fun c => { c with foldDup := satInc c.foldDup })
    else
      let s := s.modCaldera die (fun c =>
        { c with parity := tset {} c.parity (parityKey b i) new, blocksFolded := satInc c.blocksFolded })
      if new.count = x.members.length then
        let s := s.modEpoch g b (fun e => { e with full := e.full + 1 })
        if e.full + 1 = x.blocks then completeEpoch g b s else s
      else s

/-- FOLD_RECEIVED: a FOLD, or a fold packet that check 1 of R423 discards. -/
def foldReceived (die id : Nat) (flaw : Flaw) (s : State) : State :=
  match s.checkedFold die id with
  | none => s
  | some m =>
    let t := tagType m.tag
    if t = ftFeed ∨ t = ftLedger then s
    else
      let s := s.dropLanded die id
      if m.foldOk then foldBlock die m flaw s else foldBad s

/-! ## Declarations and what comes in their cycle (R428, R429, R434) -/

/-- The folds that come in this cycle, where they complete an epoch of group g: the epoch becomes COMPLETE before a
failure that is declared in the cycle (R428). DEDUCED: log entry 231. -/
def foldsFirst (g : Nat) (s : State) : State :=
  let s' := s.forEach s.pending (fun s c => match c with
    | .foldReceived t die id flaw => s.when (mgCycle t == mgCycle s.now) (foldReceived die id flaw)
    | _ => s)
  let done (b : Bool) : Bool := ((s.pgroup g).epoch b).state == .folding && ((s'.pgroup g).epoch b).state == .complete
  if done false || done true then s' else s

/-- Declare a member failed, behind the folds of the cycle that complete an epoch (R428, R429). -/
def declareNow (g m cause : Nat) (s : State) : State :=
  if (s.pgroup g).failed.getLsbD m then s else declare g m cause (foldsFirst g s)

/-- Declaration of member m of group g with cause PORT (R429, R431). -/
def memberFailed (g m : Nat) (s : State) : State :=
  let x := s.pgroup g
  if !x.defined || decide (x.members.length ≤ m) || x.failed.getLsbD m ||
      !s.endpointOut x.slice.toNat (x.members.getD m 0xFFFF) then s
  else
    let s := declareNow g m 1 s
    if !s.recov.autoRebuild then s
    else
      let (wait, s) := autoRebuild g m s
      s.when wait (fun s => s.modRecov (fun r => { r with waiting := r.waiting ++ [(g, m)] }))

/-- The declarations of this cycle that go before that of member m of group g: a lower group, or of one group a lower
member (R434), as 64 times the group and the member. -/
def State.lowerFails (s : State) (g m : Nat) : List Nat :=
  (List.range (64 * g + m)).filter (fun k => s.sameCycle (fun c => match c with
    | .memberFailed t g' m' => mgCycle t == mgCycle s.now && decide (m' < 64) && 64 * g' + m' == k
    | _ => false))

/-- MEMBER_FAILED: of member m of group g, or with g = 0xFF of spare list entry m (R429, R443). Declarations of one
cycle are applied in ascending group, then member (R434). -/
def memberOut (g m : Nat) (s : State) : State :=
  if s.vent.inSafe then s
  else if g = 0xFF then spareFailed m s
  else memberFailed g m (s.forEach (s.lowerFails g m) (fun s k => memberFailed (k / 64) (k % 64) s))

/-- REBUILD (R431). DEDUCED: log entry 98. DEDUCED: log entry 99. -/
def rebuildDesc (s : State) : State :=
  s.runJob dkRebuild 0 (fun j s =>
    let g := jobGroup j.desc
    let m := fieldOf j.desc 9 1
    let ep : BitVec 16 := BitVec.ofNat 16 (fieldOf j.desc 10 2)
    let b := bitOf (fieldOf j.desc 12 1) 0
    let x := s.pgroup g
    if 15 < g ∨ !x.defined ∨ x.members.length ≤ m then (St.parityBad, 4, [], s)
    else
      let s := declareNow g m 2 s
      match s.rebuildRefused g m b with
      | some (st, d) => (st, d, [], s)
      | none =>
        match s.rebuilds (fun r => r.pgroup == g && r.member == m) with
        | k :: _ =>
          let r := s.rebuild k
          let s := if r.spareEp = ep then s else restartFill k ep s
          (St.ok, 0, [BitVec.ofNat 8 k, r.epochSeq], s)
        | [] =>
          if s.quarterBlocks = 0 then (St.parityBad, 3, [], s)
          else match s.freeSlot with
            | none => (St.rebuildBusy, 0, [], s)
            | some k => (St.ok, 0, [BitVec.ofNat 8 k, (x.epoch b).seq], takeSlot k g m b ep s))

/-! ## Rebuilds (R432, 09 R290) -/

/-- A finished accumulator is sent to the spare (R432, 09 R290). -/
def sendRebuilt (die k block : Nat) (s : State) : State :=
  let r := s.rebuild k
  let a := s.readAccum die k block
  let s := s.modCaldera die (fun c =>
    { c with blocksRebuilt := satInc c.blocksRebuilt
             accums := tset {} c.accums (accumKey k block) { a with data := [], bitmap := 0 } })
  let s := s.modRebuild k (fun x => { x with blocksSent := satInc x.blocksSent, doneInWindow := x.doneInWindow + 1 })
  sendFold r.spareEp.toNat (s.pgroup r.pgroup).slice.toNat
    (foldTag ftRebuilt r.pgroup r.epochB r.member k r.epochSeq.toNat block) (padTo 4096 a.data) a.acc s

/-- The last window of a rebuild is done (R432). -/
def finishRebuild (k : Nat) (s : State) : State :=
  let r := s.rebuild k
  if r.blocksBad ≠ 0 then endRebuild k St.parityUnavailable 2 true s
  else
    let s := s.modPgroup r.pgroup (fun x =>
      { x with members := x.members.set r.member r.spareEp, failed := setBit x.failed r.member false })
    ledgerMembers r.pgroup r.member 1 (endRebuild k St.ok 0 true s)

/-- Go on when every block of the window has been sent or skipped (R432 step 4). -/
def windowDone (k : Nat) (s : State) : State :=
  let r := s.rebuild k
  if !r.active || !r.loaded || decide (r.doneInWindow < r.windowLen) then s
  else
    let next := r.windowFirst + r.windowLen
    if (s.pgroup r.pgroup).blocks ≤ next then finishRebuild k s
    else (clearAccums k s).modRebuild k (fun x =>
      { x with windowFirst := next, windowLen := 0, loaded := false, doneInWindow := 0 })

/-- A block of the window cannot be rebuilt: it is counted and skipped (R432). -/
def skipBlock (k : Nat) (s : State) : State :=
  s.modRebuild k (fun x => { x with blocksBad := satInc x.blocksBad, doneInWindow := x.doneInWindow + 1 })

/-- Load the accumulator of one block of the window (R432 step 1). flaw: what the read of the block finds. -/
def loadAccum (k block : Nat) (flaw : Flaw) (s : State) : State :=
  let r := s.rebuild k
  let e := (s.pgroup r.pgroup).epoch r.epochB
  match homeDie e.live r.pgroup block with
  | none => s
  | some c =>
    let i := e.localIndex block
    let (good, s) := gddrRead c (blockDevice i) flaw s
    let s := if good then checkBlock c r.pgroup r.epochB i s else spoilBlock c r.epochB i s
    let p := s.readBlock c r.pgroup r.epochB i
    if p.bad then skipBlock k s
    else
      let a : Accum := { data := p.data, acc := p.crcAcc, bitmap := setBit p.folded r.member false, block := block
                         key := p.key }
      let s := s.modCaldera c (fun x => { x with accums := tset {} x.accums (accumKey k block) a })
      if a.bitmap = 0 then sendRebuilt c k block s else s

/-- REBUILD_WINDOW_START of slot k (R432 steps 1 and 2). -/
def windowStart (k : Nat) (flaws : List Flaw) (s : State) : State :=
  let r := s.rebuild k
  if !r.active || r.loaded || s.halted then s
  else
    let x := s.pgroup r.pgroup
    let e := x.epoch r.epochB
    let w := (liveDies e.live).length * s.quarterBlocks
    let n := min w (x.blocks - r.windowFirst)
    let s := s.modRebuild k (fun y => { y with windowLen := n, loaded := true, doneInWindow := 0, feedAt := s.now })
    let s := s.forEach (List.range n) (fun s i => loadAccum k (r.windowFirst + i) (flaws.getD i .none) s)
    let payload := leBytes 4 r.windowFirst ++ leBytes 4 n
    let s := s.forEach (List.range x.members.length) (fun s i =>
      if i = r.member ∨ x.failed.getLsbD i then s
      else sendFold (x.members.getD i 0).toNat x.slice.toNat
        (foldTag ftFeedReq r.pgroup r.epochB i k r.epochSeq.toNat 0) payload (crc32c payload) s)
    windowDone k s

/-- A FEED that passed check 1 (R423, 09 R290). flaw: what the read of its accumulator finds; the block of one that
cannot be read is skipped (DESIGN CHOICE: log entry 262). -/
def feedBlock (die : Nat) (m : LandMsg) (flaw : Flaw) (s : State) : State :=
  let k := tagSlot m.tag
  let mem := tagMember m.tag
  let blk := tagBlock m.tag
  let r := s.rebuild k
  if !s.foldMember m then foldBad s
  else if !r.active || r.pgroup != tagGroup m.tag || r.epochB != tagEpochB m.tag || r.epochSeq.toNat != tagSeq m.tag ||
      mem == r.member || (s.pgroup r.pgroup).failed.getLsbD mem || !r.loaded ||
      !decide (r.windowFirst ≤ blk ∧ blk < r.windowFirst + r.windowLen) then foldStale s
  else if !s.isHome die m then misfold die s
  else
    let key := accumKey k blk
    let a := s.readAccum die k blk
    if !a.bitmap.getLsbD mem then s.modCaldera die (fun c => { c with foldDup := satInc c.foldDup })
    else
      let place := (blk - r.windowFirst) / max 1 (liveDies ((s.pgroup r.pgroup).epoch r.epochB).live).length
      let (good, s) := gddrRead die (rowDevice (s.pkg.partRes / 8 / 4 / 68 * k + 4112 * place / 64)) flaw s
      if !good then
        windowDone k (skipBlock k (s.modCaldera die (fun c => { c with accums := tset {} c.accums key { a with data := [], bitmap := 0 } })))
      else
      let a := { a with data := xorBytes (padTo 4096 a.data) m.payload, acc := a.acc ^^^ m.l.payCrc
                        bitmap := setBit a.bitmap mem false }
      let s := s.modCaldera die (fun c => { c with accums := tset {} c.accums key a })
      let s := s.modRebuild k (fun x => { x with feedAt := s.now })
      if a.bitmap = 0 then windowDone k (sendRebuilt die k blk s) else s

/-- FEED_RECEIVED (R423, 09 R290). -/
def feedReceived (die id : Nat) (flaw : Flaw) (s : State) : State :=
  match s.checkedFold die id with
  | none => s
  | some m =>
    if tagType m.tag ≠ ftFeed then s
    else
      let s := s.dropLanded die id
      if m.foldOk then feedBlock die m flaw s else foldBad s

/-- FEED_TIMEOUT of slot k (R432). -/
def feedTimeout (k : Nat) (s : State) : State :=
  let r := s.rebuild k
  if r.active && r.loaded && s.past r.feedAt (1000000 * s.recov.feedMs.toNat) then
    endRebuild k St.parityUnavailable 6 true s
  else s

/-! ## The mirror (R439) -/

/-- LEDGER from the switch that is mirrored (R423 check 2, R439). DEDUCED: log entry 103. -/
def ledgerReceived (die id : Nat) (s : State) : State :=
  match s.checkedFold die id with
  | none => s
  | some m =>
    if tagType m.tag ≠ ftLedger then s
    else
      let s := s.dropLanded die id
      let r := s.recov
      if !m.foldOk || r.mirrorSrc = 0xFFFF || m.hdr.src ≠ r.mirrorSrc then foldBad s
      else
        let seq := fieldOf m.payload 4 4
        let gap := if r.ledgerSeen ∧ r.mirrorSeq.toNat < seq then seq - r.mirrorSeq.toNat - 1 else 0
        s.modRecov (fun r =>
          { r with mirror := tset [] r.mirror (seq % 1024) m.payload, mirrorSeq := BitVec.ofNat 32 seq
                   mirrorGaps := satAdd r.mirrorGaps gap, ledgerSeen := true, ledgerAt := s.now
                   buddySilent := false })

/-- BUDDY_SILENT (R439). -/
def buddySilence (s : State) : State :=
  let r := s.recov
  if r.mirrorSrc = 0xFFFF || r.buddySilent || !s.past r.ledgerAt (3000000 * r.hbMs.toNat) then s
  else
    (s.modRecov (fun r => { r with buddySilent := true })).event evMemberFailed dieTD 0xFFFF (3 * 2 ^ 8)
      r.mirrorSrc.toNat

/-! ## The loss of a Caldera die (R434, 09 R281) -/

/-- What the loss of die c does to the parity store and to rebuilds. DEDUCED: log entry 104. -/
def parityLost (c : Nat) (s : State) : State :=
  let s := s.modCaldera c (fun x => { x with parity := [], accums := [] })
  let s := s.forEach (List.range 16) (fun s g => s.forEach [false, true] (fun s b =>
    let e := (s.pgroup g).epoch b
    if !e.live.getLsbD c || e.state == .incomplete then s
    else
      let s := s.modEpoch g b (fun e => { e with state := .incomplete })
      if e.opening then s else ledgerEpoch g b s))
  s.forEach (s.rebuilds (fun _ => true)) (fun s k => endRebuild k St.parityUnavailable 4 true s)

/-- What the loss of a Caldera die that is not lost yet does (09 R281): the die takes no cell and sends none,
all its engines are lost, none of them serving as another's spare, and what its GDDR7 held is lost. -/
def dieGone (c : Nat) (s : State) : State :=
  let es := (List.range 8).filter (fun e => (s.engine (8 * c + e)).inService)
  let s := s.forEach es (fun s e => engineOut (8 * c + e) s)
  let s := s.modCaldera c (fun x => { x with lost := true, landing := [], egress := [] })
  let s := { s with fabric := { s.fabric with staged := tset [] s.fabric.staged (16 + c) [] } }
  let s := { s with pkg := { s.pkg with history := s.pkg.history.filter (fun e => historyDie (e.1 / 2 ^ 32) != c) } }
  let s := s.forEach es (fun s e => engineGone (8 * c + e) s)
  let s := { s with invs := tmap none (fun _ v => v.map (fun v => { v with segs := tmap {} (fun j g =>
      if (if j < 2 ^ 20 then v.engineOf j else v.engines.getD 0 0) / 8 = c then { g with leaving := 0 } else g) v.segs })) s.invs }
  parityLost c s

/-- Counters of a group that are gone with die c, which keeps them: its reset clears them, and a lost die leaves only by its
reset (09 R281, R299).
DEDUCED: log entry 160. -/
def groupCountsClear (c : Nat) (s : State) : State :=
  let gs := (s.groups.map Prod.fst).filter (fun g => s.leadOf g / 8 == c)
  s.forEach gs (fun s g => s.modGroup g (fun x => { x with malformed := 0, rejected := 0, mismatches := 0, invocLimit := 0 }))

/-- CALDERA_DIE_LOSS (09 R281). -/
def calderaLoss (c : Nat) (s : State) : State :=
  if (s.caldera c).lost then s else dieGone c (groupCountsClear c s)

/-! ## The commands -/

/-- DEFINE (R425). -/
def execDefine (t : Nat) (host : List Byte) (s : State) : Out := run true t (define host) s

/-- OPEN_EPOCH (R425). -/
def execOpenEpoch (t : Nat) (s : State) : Out := run true t openEpoch s

/-- EPOCH_OPEN_DONE (R425). -/
def execEpochOpenDone (t : Nat) (s : State) : Out := run true t openDone s

/-- CLOSE_EPOCH (R425). -/
def execCloseEpoch (t : Nat) (s : State) : Out := run true t closeEpoch s

/-- RELEASE (R425). -/
def execRelease (t : Nat) (s : State) : Out := run true t releaseGroup s

/-- REBUILD (R431). -/
def execRebuild (t : Nat) (s : State) : Out := run true t rebuildDesc s

/-- FOLD_RECEIVED (R423, 09 R288). -/
def execFoldReceived (t die id : Nat) (s : State) (flaw : Flaw := .none) : Out :=
  run (decide (die < 8)) t (foldReceived die id flaw) s

/-- INTERVAL_BUCKET_EXPIRY (R430). -/
def execIntervalBucketExpiry (t : Nat) (s : State) : Out := run true t bucketExpiry s

/-- MEMBER_FAILED (R429). -/
def execMemberFailed (t g m : Nat) (s : State) : Out :=
  run ((decide (g < 16) && decide (m < 64)) || (g == 0xFF && decide (m < 8))) t (memberOut g m) s

/-- AUTO_REBUILD_START (R431). -/
def execAutoRebuildStart (t : Nat) (s : State) : Out := run true t autoStart s

/-- REBUILD_WINDOW_START (R432). -/
def execRebuildWindowStart (t k : Nat) (s : State) (flaws : List Flaw := []) : Out :=
  run (decide (k < 4)) t (windowStart k flaws) s

/-- FEED_RECEIVED (09 R290). -/
def execFeedReceived (t die id : Nat) (s : State) (flaw : Flaw := .none) : Out :=
  run (decide (die < 8)) t (feedReceived die id flaw) s

/-- FEED_TIMEOUT (R432). -/
def execFeedTimeout (t k : Nat) (s : State) : Out := run (decide (k < 4)) t (feedTimeout k) s

/-- LEDGER_HEARTBEAT (R437). -/
def execLedgerHeartbeat (t : Nat) (s : State) : Out := run true t heartbeatEntry s

/-- LEDGER (R439). -/
def execLedger (t die id : Nat) (s : State) : Out := run (decide (die < 8)) t (ledgerReceived die id) s

/-- BUDDY_SILENT (R439). -/
def execBuddySilent (t : Nat) (s : State) : Out := run true t buddySilence s

/-- CALDERA_DIE_LOSS (09 R281). -/
def execCalderaDieLoss (t c : Nat) (s : State) : Out := run (decide (c < 8)) t (calderaLoss c) s

end Sys2Proof.Machine
end

