-- ==== Sys2Proof/Machine/Sign.lean ====
section
/-! DEFINITION. The signatures of 15 R451 and the identity keys of R457: ECDSA P-384 with SHA-384 (FIPS 186-5) and
LMS/HSS of two levels, LMS_SHA256_M32_H20 with LMOTS_SHA256_N32_W8 (SP 800-208, RFC 8554). PRESUMED: log entry
246. -/

namespace Sys2Proof

/-! ## SHA-256 (FIPS 180-4) -/

/-- The round constants. -/
def sha256K : List (BitVec 32) :=
  [0x428A2F98, 0x71374491, 0xB5C0FBCF, 0xE9B5DBA5, 0x3956C25B, 0x59F111F1, 0x923F82A4, 0xAB1C5ED5,
   0xD807AA98, 0x12835B01, 0x243185BE, 0x550C7DC3, 0x72BE5D74, 0x80DEB1FE, 0x9BDC06A7, 0xC19BF174] ++
  [0xE49B69C1, 0xEFBE4786, 0x0FC19DC6, 0x240CA1CC, 0x2DE92C6F, 0x4A7484AA, 0x5CB0A9DC, 0x76F988DA,
   0x983E5152, 0xA831C66D, 0xB00327C8, 0xBF597FC7, 0xC6E00BF3, 0xD5A79147, 0x06CA6351, 0x14292967] ++
  [0x27B70A85, 0x2E1B2138, 0x4D2C6DFC, 0x53380D13, 0x650A7354, 0x766A0ABB, 0x81C2C92E, 0x92722C85,
   0xA2BFE8A1, 0xA81A664B, 0xC24B8B70, 0xC76C51A3, 0xD192E819, 0xD6990624, 0xF40E3585, 0x106AA070] ++
  [0x19A4C116, 0x1E376C08, 0x2748774C, 0x34B0BCB5, 0x391C0CB3, 0x4ED8AA4A, 0x5B9CCA4F, 0x682E6FF3,
   0x748F82EE, 0x78A5636F, 0x84C87814, 0x8CC70208, 0x90BEFFFA, 0xA4506CEB, 0xBEF9A3F7, 0xC67178F2]

/-- The initial hash value. -/
def sha256Init : List (BitVec 32) :=
  [0x6A09E667, 0xBB67AE85, 0x3C6EF372, 0xA54FF53A, 0x510E527F, 0x9B05688C, 0x1F83D9AB, 0x5BE0CD19]

/-- A rotation to the right. -/
def rotr32 (x : BitVec 32) (n : Nat) : BitVec 32 := (x >>> n) ||| (x <<< (32 - n))

/-- Words of the message schedule, the latest first: n more. -/
def sha256Words : Nat → List (BitVec 32) → List (BitVec 32)
  | 0, ws => ws
  | n + 1, ws =>
    let a := ws.getD 1 0
    let b := ws.getD 14 0
    let s1 := rotr32 a 17 ^^^ rotr32 a 19 ^^^ (a >>> 10)
    let s0 := rotr32 b 7 ^^^ rotr32 b 18 ^^^ (b >>> 3)
    sha256Words n ((s1 + ws.getD 6 0 + s0 + ws.getD 15 0) :: ws)

/-- One round over the eight working variables. -/
def sha256Round (v : List (BitVec 32)) (kw : BitVec 32 × BitVec 32) : List (BitVec 32) :=
  let at_ (i : Nat) : BitVec 32 := v.getD i 0
  let e := at_ 4
  let a := at_ 0
  let t1 := at_ 7 + (rotr32 e 6 ^^^ rotr32 e 11 ^^^ rotr32 e 25) + ((e &&& at_ 5) ^^^ (~~~e &&& at_ 6)) + kw.1 + kw.2
  let t2 := (rotr32 a 2 ^^^ rotr32 a 13 ^^^ rotr32 a 22) + ((a &&& at_ 1) ^^^ (a &&& at_ 2) ^^^ (at_ 1 &&& at_ 2))
  [t1 + t2, a, at_ 1, at_ 2, at_ 3 + t1, e, at_ 5, at_ 6]

/-- One block of 64 bytes. -/
def sha256Block (h : List (BitVec 32)) (b : List Byte) : List (BitVec 32) :=
  let w := (chunks 4 16 b).map (fun x => BitVec.ofNat 32 (beNat x))
  let ws := (sha256Words 48 w.reverse).reverse
  List.zipWith (· + ·) h ((sha256K.zip ws).foldl sha256Round h)

/-- SHA-256 of a byte string: 32 bytes. -/
def sha256 (bs : List Byte) : List Byte :=
  let n := bs.length
  let padded := bs ++ [0x80] ++ zeros ((55 + 64 - n % 64) % 64) ++ beBytes 8 (8 * n)
  ((chunks 64 (padded.length / 64) padded).foldl sha256Block sha256Init).flatMap (fun x => beBytes 4 x.toNat)

/-! ## ECDSA over P-384 -/

/-- The field prime, the order of the base point, and the coefficient b of the curve. -/
def p384P : Nat := 2 ^ 384 - 2 ^ 128 - 2 ^ 96 + 2 ^ 32 - 1
def p384N : Nat :=
  0xFFFFFFFFFFFFFFFFFFFFFFFFFFFFFFFFFFFFFFFFFFFFFFFFC7634D81F4372DDF581A0DB248B0A77AECEC196ACCC52973
def p384B : Nat :=
  0xB3312FA7E23EE7E4988E056BE3F82D19181D9C6EFE8141120314088F5013875AC656398D8A2ED19D2A85C8EDD3EC2AEF

/-- The base point. -/
def p384G : Nat × Nat :=
  (0xAA87CA22BE8B05378EB1C71EF320AD746E1D3B628BA79B9859F741E082542A385502F25DBF55296C3A545E3872760AB7,
   0x3617DE4A96262C6F5D9E98BF9292DC29F8F41DBD289A147CE9DA3113B5F0B8C00A60B1CE1D7E819D7A431D7C90EA0E5F)

/-- The lowest k bits of the power e of x modulo m: x^e where e has no more. -/
def modPow (m x e : Nat) : Nat → Nat
  | 0 => 1 % m
  | k + 1 =>
    let r := modPow m (x * x % m) (e / 2) k
    if e % 2 = 1 then r * x % m else r

/-- The inverse modulo a prime of 384 bits. -/
def modInv (m x : Nat) : Nat := modPow m (x % m) (m - 2) 384

/-- The sum of two points; none is the point at infinity. -/
def ecAdd : Option (Nat × Nat) → Option (Nat × Nat) → Option (Nat × Nat)
  | none, q => q
  | p, none => p
  | some (x1, y1), some (x2, y2) =>
    let m := p384P
    let slope : Option Nat :=
      if x1 ≠ x2 then some ((y2 + m - y1) % m * modInv m (x2 + m - x1) % m)
      else if y1 ≠ y2 ∨ y1 = 0 then none
      else some ((3 * x1 * x1 + (m - 3)) % m * modInv m (2 * y1) % m)
    slope.map (fun l =>
      let x := (l * l + 2 * m - x1 - x2) % m
      (x, (l * (x1 + m - x) + m - y1) % m))

/-- A multiple of a point, by the lowest k bits of a number. -/
def ecMul (n : Nat) (p : Option (Nat × Nat)) : Nat → Option (Nat × Nat)
  | 0 => none
  | k + 1 =>
    let r := ecMul (n / 2) (ecAdd p p) k
    if n % 2 = 1 then ecAdd r p else r

/-- An ECDSA P-384 signature verifies: public key (x then y, each 48 bytes big-endian), message, and signature (r then
s, each 48 bytes big-endian). -/
def ecdsaOk (key msg sig : List Byte) : Bool :=
  let x := beNat (key.take 48)
  let y := beNat (key.drop 48)
  let r := beNat (sig.take 48)
  let s := beNat (sig.drop 48)
  let w := modInv p384N s
  let e := beNat (sha384 msg)
  decide (key.length = 96 ∧ sig.length = 96 ∧ x < p384P ∧ y < p384P ∧
    y * y % p384P = (x * x * x + (p384P - 3) * x + p384B) % p384P ∧ 0 < r ∧ r < p384N ∧ 0 < s ∧ s < p384N) &&
  (match ecAdd (ecMul (e * w % p384N) (some p384G) 384) (ecMul (r * w % p384N) (some (x, y)) 384) with
   | some (a, _) => a % p384N == r
   | none => false)

/-! ## LMS and HSS -/

/-- A hash of the scheme: identifier, node or leaf number, tag, and what follows. -/
def lmsHash (i : List Byte) (q tag : Nat) (rest : List Byte) : List Byte :=
  sha256 (i ++ beBytes 4 q ++ beBytes 2 tag ++ rest)

/-- A chain of the one-time signature: n steps from step a on. -/
def otsChain (i : List Byte) (q k a : Nat) : Nat → List Byte → List Byte
  | 0, t => t
  | n + 1, t => otsChain i q k (a + 1) n (lmsHash i q k ([BitVec.ofNat 8 a] ++ t))

/-- The 34 digits that a message signs: those of its hash and of their checksum. -/
def otsDigits (i : List Byte) (q : Nat) (c msg : List Byte) : List Nat :=
  let h := lmsHash i q 0x8181 (c ++ msg)
  let sum := h.foldl (fun n b => n + (255 - b.toNat)) 0
  (h ++ beBytes 2 sum).map BitVec.toNat

/-- The one-time public key from the ends of its 34 chains. -/
def otsKey (i : List Byte) (q : Nat) (ends : List (List Byte)) : List Byte :=
  lmsHash i q 0x8080 (ends.flatMap id)

/-- The leaf of a tree of height h from a one-time public key. -/
def lmsLeaf (i : List Byte) (h q : Nat) (k : List Byte) : List Byte := lmsHash i (2 ^ h + q) 0x8282 k

/-- The root to which a node and its authentication path lead. -/
def lmsClimb (i : List Byte) : List (List Byte) → Nat → List Byte → List Byte
  | [], _, t => t
  | p :: ps, node, t =>
    lmsClimb i ps (node / 2) (lmsHash i (node / 2) 0x8383 (if node % 2 = 1 then p ++ t else t ++ p))

/-- The type codes of LMS_SHA256_M32_H20 and LMOTS_SHA256_N32_W8. -/
def lmsType : Nat := 8
def otsType : Nat := 4

/-- An LMS signature of 1,772 bytes verifies: public key of 56 bytes, message, signature. -/
def lmsOk (key msg sig : List Byte) : Bool :=
  let i := sliceOf key 8 16
  let q := beNat (sliceOf sig 0 4)
  let y := chunks 32 34 (sliceOf sig 40 1088)
  let ends := (List.range 34).map (fun k =>
    let a := (otsDigits i q (sliceOf sig 8 32) msg).getD k 0
    otsChain i q k a (255 - a) (y.getD k []))
  decide (key.length = 56 ∧ sig.length = 1772 ∧ beNat (sliceOf key 0 4) = lmsType ∧ beNat (sliceOf key 4 4) = otsType ∧
    beNat (sliceOf sig 4 4) = otsType ∧ beNat (sliceOf sig 1128 4) = lmsType ∧ q < 2 ^ 20) &&
  lmsClimb i (chunks 32 20 (sliceOf sig 1132 640)) (2 ^ 20 + q) (lmsLeaf i 20 q (otsKey i q ends)) == sliceOf key 24 32

/-- An HSS signature of two levels verifies: public key of 60 bytes, message, signature of 3,604 bytes. -/
def hssOk (key msg sig : List Byte) : Bool :=
  let mid := sliceOf sig 1776 56
  decide (key.length = 60 ∧ sig.length = 3604 ∧ beNat (sliceOf key 0 4) = 2 ∧ beNat (sliceOf sig 0 4) = 1) &&
  lmsOk (key.drop 4) mid (sliceOf sig 4 1772) && lmsOk mid msg (sliceOf sig 1832 1772)

/-! ## Signing (R457, R458) -/

/-- The start of chain k of leaf q, from the seed. -/
def otsSecret (seed i : List Byte) (q k : Nat) : List Byte := lmsHash i q k ([0xFF] ++ seed)

/-- Node n at height h of a tree of height 20: the leaves below it start at n × 2^h − 2^20. -/
def lmsNode (seed i : List Byte) : Nat → Nat → List Byte
  | 0, n =>
    let q := n - 2 ^ 20
    lmsLeaf i 20 q (otsKey i q ((List.range 34).map (fun k => otsChain i q k 0 255 (otsSecret seed i q k))))
  | h + 1, n => lmsHash i n 0x8383 (lmsNode seed i h (2 * n) ++ lmsNode seed i h (2 * n + 1))

/-- The public key of a tree. -/
def lmsPublic (seed i : List Byte) : List Byte :=
  beBytes 4 lmsType ++ beBytes 4 otsType ++ i ++ lmsNode seed i 20 1

/-- A signature of leaf q with a randomizer. -/
def lmsSign (seed i : List Byte) (q : Nat) (c msg : List Byte) : List Byte :=
  let d := otsDigits i q c msg
  beBytes 4 q ++ beBytes 4 otsType ++ c ++
    (List.range 34).flatMap (fun k => otsChain i q k 0 (d.getD k 0) (otsSecret seed i q k)) ++
    beBytes 4 lmsType ++
    (List.range 20).flatMap (fun h =>
      let n := (2 ^ 20 + q) / 2 ^ h
      lmsNode seed i h (if n % 2 = 0 then n + 1 else n - 1))

/-- The bytes of "ID-". -/
def idLabel : List Byte := [0x49, 0x44, 0x2D]

/-- The seed and the identifier of the top tree, and of second-level tree j (R457). -/
def topSecret (rs : List Byte) : List Byte := hmac rs (idLabel ++ [0x48, 0x53, 0x53, 0x2D, 0x54, 0x4F, 0x50])
def treeSecret (rs : List Byte) (j : Nat) : List Byte :=
  hmac rs (idLabel ++ [0x48, 0x53, 0x53, 0x2D, 0x4C, 0x31] ++ leBytes 4 j)

/-- The ECDSA private key of the package (R457). -/
def identityKey (rs : List Byte) : Nat :=
  let part (k : Byte) : List Byte := hmac rs (idLabel ++ [0x45, 0x43, 0x44, 0x53, 0x41, 0x2D, k])
  1 + beNat (part 0x30 ++ part 0x31) % (p384N - 1)

/-- The package's HSS signature over a digest by leaf q, whose top 20 bits select the second-level tree (R457,
R458). The randomizers are free values. -/
def hssSign (rs : List Byte) (q : Nat) (digest : List Byte) : List Byte :=
  let j := q / 2 ^ 20
  let top := topSecret rs
  let low := treeSecret rs j
  let mid := lmsPublic (low.take 32) (low.drop 32)
  beBytes 4 1 ++ lmsSign (top.take 32) (top.drop 32) j (padTo 32 (Config.hssRandom 0 j)) mid ++ mid ++
    lmsSign (low.take 32) (low.drop 32) (q % 2 ^ 20) (padTo 32 (Config.hssRandom 1 q)) digest

end Sys2Proof
end

