-- ==== Sys2Proof/Machine/Trust.lean ====
section
/-! DEFINITION. Trust: the image store, the boot chain, the package identity, attestation, keys, updates
and debug (15 R450 to R472), with the verification of the die and package records (01 R29 to R32). -/

namespace Sys2Proof.Machine

/-! ## Signed objects (R450 to R455) -/

/-- Both signatures of an object verify over its signed bytes under two keys of one role; the LMS/HSS
signature is 3,604 bytes (R451). -/
def dualOk (ek hk msg sigE : List Byte) (hssLen : Nat) (sigH : List Byte) : Bool :=
  decide (hssLen = 3604) && ecdsaOk ek msg sigE && hssOk hk msg sigH

/-- The framing of R453: both signatures stand at 128 and 228 over bytes 0 to 127. DEDUCED: log entry 117. -/
def framedOk (ek hk obj : List Byte) : Bool :=
  dualOk ek hk (sliceOf obj 0 128) (sliceOf obj 128 96) (fieldOf obj 224 4) (sliceOf obj 228 3604)

/-- The contents of image store copy A (false) or B (true) (R452). -/
def State.flash (s : State) (b : Bool) : Mem := if b then s.is1.flash else s.is0.flash

/-- n bytes of a copy. DESIGN CHOICE: log entry 182. -/
def State.flashRead (s : State) (b : Bool) (a n : Nat) : List Byte := memRead 0xFF (s.flash b) a n

/-- Write bytes into a copy. DEDUCED: log entry 122. -/
def State.flashWrite (s : State) (b : Bool) (a : Nat) (bytes : List Byte) : State :=
  if b then { s with is1 := { s.is1 with flash := memWrite 0xFF s.is1.flash a bytes } }
  else { s with is0 := { s.is0 with flash := memWrite 0xFF s.is0.flash a bytes } }

/-- Erase n bytes of a copy: every byte reads 0xFF. -/
def State.flashErase (s : State) (b : Bool) (a n : Nat) : State :=
  let keep (m : Mem) : Mem := m.filter (fun x => decide (x.1 < a ∨ a + n ≤ x.1))
  if b then { s with is1 := { s.is1 with flash := keep s.is1.flash } }
  else { s with is0 := { s.is0 with flash := keep s.is0.flash } }

/-- The range of a copy holds a programmed byte. -/
def State.flashUsed (s : State) (b : Bool) (a n : Nat) : Bool :=
  (s.flash b).any (fun x => decide (a ≤ x.1 ∧ x.1 < a + n))

/-- The boot header of a copy matches the ROM digests (R450). -/
def State.bootHeaderOk (s : State) (b : Bool) : Bool :=
  s.flashUsed b 0 4096 &&
  (List.range 4).all (fun k =>
    sha384 (Config.bootKey (s.flashRead b 0 4096) k) == Config.romDigest k)

/-- The first copy, A before B, that passes a test (R456). -/
def firstCopy (ok : Bool → Bool) : Option Bool :=
  if ok false then some false else if ok true then some true else none

/-- The boot header in use. -/
def State.bootHeader (s : State) : Option (List Byte) :=
  (firstCopy s.bootHeaderOk).map (fun b => s.flashRead b 0 4096)

/-- The k-th Gulvohan public key, in the order of Config.romDigest (R450). -/
def State.gulvohanKey (s : State) (k : Nat) : List Byte :=
  match s.bootHeader with
  | some h => Config.bootKey h k
  | none => []

/-- The object is framed under the image key (R450, R453). -/
def State.imageSigned (s : State) (obj : List Byte) : Bool :=
  s.bootHeader.isSome && framedOk (s.gulvohanKey 0) (s.gulvohanKey 1) obj

/-! ### Records (01 R29 to R32) -/

/-- Offset of the record slot of die number n (R452). -/
def recordAt (n : Nat) : Nat := 0x100000 + n * 0x1000

/-- A record copy verifies under both manufacturing keys (01 R29, R30). DEDUCED: log entry 121. -/
def State.recordOk (s : State) (n : Nat) (b : Bool) : Bool :=
  let r := s.flashRead b (recordAt n) 4096
  s.flashUsed b (recordAt n) 4096 && s.bootHeader.isSome &&
  dualOk (s.gulvohanKey 2) (s.gulvohanKey 3) (sliceOf r 0 64) (sliceOf r 64 96) (fieldOf r 160 4)
    (sliceOf r 164 3604)

/-- The record of die number n that TD loads: the IS0 copy where it verifies, else the IS1 copy
(01 R32). -/
def State.record (s : State) (n : Nat) : Option (List Byte) :=
  (firstCopy (s.recordOk n)).map (fun b => s.flashRead b (recordAt n) 4096)

/-- package_serial of the package record, 0 where it has no valid copy (01 R30, 16 R476).
DEDUCED: log entry 115. -/
def State.recordSerial (s : State) : Nat :=
  match s.record 0 with
  | some r => fieldOf r 24 8
  | none => 0

/-- package_serial 0 names any package, otherwise one (R453). -/
def State.serialOk (s : State) (v : Nat) : Bool := v == 0 || v == s.recordSerial

/-! ### The security-version record (R454) -/

/-- A security-version record verifies. -/
def State.svrOk (s : State) (r : List Byte) : Bool :=
  fieldOf r 0 4 == 0x52565344 && s.serialOk (fieldOf r 8 8) && s.imageSigned r

/-- seq and min_svn[t] of a security-version record. -/
def svrSeq (r : List Byte) : Nat := fieldOf r 4 4
def svrMin (r : List Byte) (t : Nat) : Nat := fieldOf r (16 + 2 * t) 2

/-- The record of a copy. DEDUCED: log entry 116. -/
def State.svrOf (s : State) (b : Bool) : List Byte := s.flashRead b 0x1000 4096

/-- The record in use: of two that verify, the one with the higher seq (R454). -/
def State.svrChoice (s : State) : Option (List Byte) :=
  let a := s.svrOf false
  let b := s.svrOf true
  match s.svrOk a, s.svrOk b with
  | true, true => some (if svrSeq a < svrSeq b then b else a)
  | true, false => some a
  | false, true => some b
  | false, false => none

/-! ### Images (R453 to R455) -/

/-- An image at an offset of a copy is accepted under two keys and a minimum svn (R453 to R455). -/
def State.imageOk (s : State) (b : Bool) (base type limit minSvn : Nat) (ek hk : List Byte) : Bool :=
  let h := s.flashRead b base 4096
  let len := fieldOf h 12 4
  fieldOf h 0 4 == 0x544E5244 && fieldOf h 4 1 == type && fieldOf h 5 1 == 1 &&
  s.serialOk (fieldOf h 16 8) && decide (len ≤ limit) && decide (minSvn ≤ fieldOf h 6 2) &&
  framedOk ek hk h && sha384 (s.flashRead b (base + 4096) len) == sliceOf h 24 48

/-- Offset of the image slot of type t (R452). -/
def imageAt (t : Nat) : Nat := 0x1000000 + t * 0x800000

/-- A firmware image of type t verifies in a copy, against min_svn of a record (R454). -/
def State.firmwareOk (s : State) (svr : List Byte) (t : Nat) (b : Bool) : Bool :=
  s.bootHeader.isSome &&
  s.imageOk b (imageAt t) t 8384512 (svrMin svr t) (s.gulvohanKey 0) (s.gulvohanKey 1)

/-- The types of firmware image (R453). -/
def firmwareTypes : List Nat := [1, 2, 3, 4, 5]

/-- The operator key record of a copy, as its bytes stand. -/
def State.opRecAt (s : State) (b : Bool) : List Byte := s.flashRead b 0x4000 4096

/-- The operator key record of a copy was sealed: only a sealed record takes effect (R455, R469). -/
def State.opSealed (s : State) (b : Bool) : Bool := if b then s.is1.opSealed else s.is0.opSealed

/-- Mark the operator key record of a copy. -/
def setSealed (b v : Bool) (s : State) : State :=
  if b then { s with is1 := { s.is1 with opSealed := v } } else { s with is0 := { s.is0 with opSealed := v } }

/-- The operator key record of a copy that may take effect, empty where none does (R455, R469). -/
def State.opRecOf (s : State) (b : Bool) : List Byte :=
  if s.opSealed b && s.flashUsed b 0x4000 4096 then s.opRecAt b else []

/-- The operator key record that a boot takes: of two that differ, the one with the higher seq
(DEDUCED, log entry 110). -/
def State.opRecChoice (s : State) : List Byte :=
  let a := s.opRecOf false
  let b := s.opRecOf true
  if a.isEmpty then b else if b.isEmpty || a == b then a
  else if Config.opSeq a < Config.opSeq b then b else a

/-- The operator key record in use; where the boot stopped before it took one, the one it would take (R455, R456). -/
def State.opRecNow (s : State) : List Byte :=
  if s.boot.phase == .bootHalt && s.trust.opRec.isEmpty then s.opRecChoice else s.trust.opRec

/-- The start-up configuration image of a copy is accepted (R455). -/
def State.configOk (s : State) (b : Bool) : Bool :=
  let op := s.opRecNow
  !op.isEmpty &&
  s.imageOk b 0x9000000 8 16773120 (Config.opMinSvn op) (Config.opKey op 0) (Config.opKey op 1)

/-! ## LMS state (R458) -/

/-- The MAC of an LMS slot, over next and seq (R458). -/
def lmsMac (rs : List Byte) (next seq : Nat) : List Byte :=
  let label : List Byte := [0x4C, 0x4D, 0x53, 0x2D, 0x53, 0x54, 0x41, 0x54, 0x45]
  hmac (hmac rs label) (leBytes 5 next ++ leBytes 4 seq)

/-- The bytes of an LMS slot: next, seq and the MAC, in the places of DESIGN CHOICE, log entry 111. -/
def lmsSlot (rs : List Byte) (next seq : Nat) : List Byte :=
  leBytes 5 next ++ leBytes 4 seq ++ lmsMac rs next seq

/-- next and seq of slot i of a copy, where its MAC verifies. -/
def State.lmsRead (s : State) (rs : List Byte) (b : Bool) (i : Nat) : Option (Nat × Nat) :=
  let a := 0x2000 + 0x1000 * i
  let r := s.flashRead b a 57
  let next := fieldOf r 0 5
  let seq := fieldOf r 5 4
  if s.flashUsed b a 57 && (lmsMac rs next seq).take 48 == sliceOf r 9 48 then some (next, seq) else none

/-- The valid slots of a copy. -/
def State.lmsSlots (s : State) (rs : List Byte) (b : Bool) : List (Nat × Nat) :=
  [s.lmsRead rs b 0, s.lmsRead rs b 1].filterMap id

/-- The older slot of a copy: one that is not valid, else the one with the lower seq. -/
def State.lmsOlder (s : State) (rs : List Byte) (b : Bool) : Nat :=
  match s.lmsRead rs b 0, s.lmsRead rs b 1 with
  | none, _ => 0
  | some _, none => 1
  | some x, some y => if x.2 ≤ y.2 then 0 else 1

/-- Load the LMS state at boot: the largest next among the valid slots of both dies (R458). -/
def loadLms (s : State) : State :=
  match s.trust.rootSecret with
  | none => { s with trust := { s.trust with lmsOk := false, lmsNext := 0, lmsSeq := 0 } }
  | some rs =>
    let all := s.lmsSlots rs false ++ s.lmsSlots rs true
    { s with trust := { s.trust with
        lmsOk := !all.isEmpty
        lmsNext := all.foldl (fun n x => max n x.1) 0
        lmsSeq := all.foldl (fun n x => max n x.2) 0 } }

/-- Count an image store operation whose read-back failed (16 R479). -/
def progError (b : Bool) (s : State) : State :=
  if b then { s with is1 := { s.is1 with progErrors := satInc s.is1.progErrors } }
  else { s with is0 := { s.is0 with progErrors := satInc s.is0.progErrors } }

/-- release_hss of R458: the leaf that signs, or none where it is refused. badA, badB: the write of
IS0 or IS1 does not read back. -/
def takeLeaf (badA badB : Bool) (s : State) : Option Nat × State :=
  let q := s.trust.lmsNext
  match s.trust.rootSecret with
  | none => (none, s)
  | some rs =>
    if !s.trust.lmsOk || decide (2 ^ 40 ≤ q) then (none, s)
    else
      let slot := lmsSlot rs (q + 1) (s.trust.lmsSeq + 1)
      let put (b bad : Bool) (s : State) : State :=
        if bad then progError b s else s.flashWrite b (0x2000 + 0x1000 * s.lmsOlder rs b) slot
      let s := put true badB (put false badA s)
      if badA || badB then (none, s)
      else (some q, { s with trust := { s.trust with lmsNext := q + 1, lmsSeq := s.trust.lmsSeq + 1 } })

/-! ## The boot chain (R456, R457) -/

/-- Set a measurement block (R461). -/
def measure (i : Nat) (v : List Byte) (s : State) : State :=
  { s with trust := { s.trust with measurements := tset [] s.trust.measurements i v } }

/-- A copy failed at a boot step: IS_ERR is set (R456). DEDUCED: log entry 118. -/
def copyFailed (failed : Bool) (s : State) : State := s.when failed (fun s => s.raise dieTD srcIsErr)

/-- The Driant stops in BOOT_HALT (R456). -/
def bootHalt (s : State) : State := { s with boot := { s.boot with phase := .bootHalt } }

/-- The helper data of die number n in a copy (R452). -/
def State.helperData (s : State) (n : Nat) (b : Bool) : List Byte := s.flashRead b (0x8000 + 256 * n) 256

/-- The number of bits in which two byte strings differ. -/
def bitsApart (a b : List Byte) : Nat := (bitsSet (leNat (xorBytes a b)) (8 * a.length)).length

/-- The 1,024 bits of a PUF response that helper data reconstruct from a readout, in which up to 140 bits may have
flipped (R457). DESIGN CHOICE: log entry 273. -/
def pufOf (helper readout : List Byte) : Option (List Byte) :=
  let r := (padTo 128 (Config.pufDecode readout helper)).take 128
  if readout.length = 128 ∧ bitsApart readout r ≤ 140 then some r else none

/-- The PUF response of die number n from a readout, with the helper data of copy A, else of copy B (R452, R457). -/
def State.pufResponse (s : State) (n : Nat) (readout : Option (List Byte)) : Option (List Byte) :=
  readout.bind (fun r => (pufOf (s.helperData n false) r).or (pufOf (s.helperData n true) r))

/-- R457: the root secret from the reconstructed PUF response. -/
def rootSecretOf (response : List Byte) (serial : Nat) : List Byte :=
  (sha384 (response ++ leBytes 8 serial)).take 32

/-- Verify and measure the firmware images in type order, A before B; none where a type has no copy
that verifies (R456). DEDUCED: log entry 127. -/
def bootImages (svr : List Byte) : List Nat → State → Option State
  | [], s => some s
  | t :: ts, s =>
    match firstCopy (s.firmwareOk svr t) with
    | none => none
    | some b =>
      let h := s.flashRead b (imageAt t) 128
      let s := measure (t + 1) (sha384 h) (copyFailed b s)
      let s := { s with boot := { s.boot with
                   imageB := s.boot.imageB || b
                   fwBuild := if t = 1 then BitVec.ofNat 32 (fieldOf h 8 4) else s.boot.fwBuild } }
      bootImages svr ts s

/-- IMAGES_VERIFIED (R456): the steps of the TD ROM after its PLLs lock. puf: the 1,024 bits that TD
reads from its PUF, or none where it answers nothing (R457); a copy whose helper data do not reconstruct the response has
failed; eraseA, eraseB: the largest erase counts that
IS0 and IS1 report (16 R479). DEDUCED: log entry 119. DESIGN CHOICE: log entry 125. -/
def imagesVerified (puf : Option (List Byte)) (eraseA eraseB : Nat) (s : State) : State :=
  if s.boot.row != .pllLocked || s.boot.phase != .rom then s
  else
    let s := { s with
      is0 := { s.is0 with ready := true, maxErase := BitVec.ofNat 32 eraseA }
      is1 := { s.is1 with ready := true, maxErase := BitVec.ofNat 32 eraseB } }
    let rs := (s.pufResponse 1 puf).map (fun r => rootSecretOf r s.recordSerial)
    let s := copyFailed ((puf.bind (pufOf (s.helperData 1 false))).isNone)
      { s with trust := { s.trust with identityOk := rs.isSome, rootSecret := rs } }
    let s := copyFailed (!s.bootHeaderOk false) s
    if s.bootHeader.isNone then bootHalt (copyFailed true s)
    else
      let s := measure 1 Config.romImageDigest s
      let s := copyFailed (!s.svrOk (s.svrOf false) || !s.svrOk (s.svrOf true)) s
      match s.svrChoice with
      | none => bootHalt s
      | some svr =>
        let s := { s with trust := { s.trust with svr := svr.take 128, opRec := s.opRecChoice } }
        let s := loadLms s
        let s := copyFailed (match s.trust.rootSecret with
          | none => true
          | some rs => (s.lmsSlots rs false).isEmpty || (s.lmsSlots rs true).isEmpty) s
        match bootImages svr firmwareTypes s with
        | none => bootHalt (copyFailed true s)
        | some s =>
          let op := s.trust.opRec
          let s := measure 7 (sha384 (svr.take 128)) s
          let s := measure 9 (if op.isEmpty then zeros 48 else sha384 op) s
          let s := measure 10 (zeros 4) s
          { s with boot := { s.boot with phase := .images, row := .imagesOk, fwRuns := true } }

/-- The order code of a record, as a variant (16 R476). -/
def variantOf (code : List Byte) : BitVec 2 :=
  let name : List Byte := [0x43, 0x47, 0x44, 0x35, 0x31, 0x32, 0x30, 0x2D]
  if code == name ++ [0x53] ++ zeros 7 then 1 else if code == name ++ [0x48] ++ zeros 7 then 2 else 0

/-- The outcome of record verification for die number n, which fills bits 1 to 5 of TR_DIE_STATUS
(01 R32). puf: the fresh PUF response of the die, where it has one, hashed with the serial number of the package record
(DESIGN CHOICE, log entry 258). -/
def verifyRecord (serial n : Nat) (puf : Option (List Byte)) (s : State) : State :=
  let a := s.recordOk n false
  let b := s.recordOk n true
  let r := (s.record n).getD []
  let hasPuf := (a || b) && bitOf (fieldOf r 3 1) 0
  let match_ := match puf with
    | some p => n != 0 && hasPuf &&
        (sha384 (p ++ leBytes 1 n ++ leBytes 8 serial)).take 32 == sliceOf r 32 32
    | none => false
  s.modDie n (fun d => { d with
    present := d.present || decide (n = 0), recOk := a || b, copyB := !a && b
    copiesDiffer := a && b && s.flashRead false (recordAt n) 4096 != s.flashRead true (recordAt n) 4096
    pufPresent := hasPuf, pufMatch := match_ })

/-- Bits [5:0] of TR_DIE_STATUS (01 R32). -/
def dieStatusLow (d : Die) : Nat :=
  b2n d.present + 2 * b2n d.recOk + 4 * b2n d.copyB + 8 * b2n d.copiesDiffer + 16 * b2n d.pufPresent +
    32 * b2n d.pufMatch

/-- DIE_RECORDS_VERIFIED, once every die clock has risen (02 R56, 01 R32, 15 R456, 16 R476): every record is verified, a copy that fails sets IS_ERR,
the PUF derivations are compared and PK_IDENT is loaded. pufs: die number and PUF readout of the dies that gave one. DEDUCED: log entry 185. -/
def dieRecordsVerified (pufs : List (Nat × List Byte)) (s : State) : State :=
  if s.boot.row != .diesOut || s.float.waiting.any (fun x => x.change == .dieClock) then s
  else
    let serial := s.recordSerial
    let s := s.forEach assignedDies (fun s n =>
      verifyRecord serial n (s.pufResponse n ((pufs.find? (fun p => p.1 == n)).map Prod.snd)) s)
    let s := copyFailed (assignedDies.any (fun n => !s.recordOk n false || !s.recordOk n true)) s
    let pr := s.record 0
    let code := match pr with
      | some r => sliceOf r 4 16
      | none => []
    let s := { s with pkg := { s.pkg with
                 orderCode := code, serial := BitVec.ofNat 64 serial, variant := variantOf code } }
    let s := measure 11 (padTo 16 code ++ leBytes 8 serial) s
    let s := measure 12 ((List.range 104).map (fun n => BitVec.ofNat 8 (dieStatusLow (s.die n)))) s
    { s with boot := { s.boot with row := .recordsOk } }

/-! ## Keys (R462 to R467) -/

/-- Opening debug clears every link, slice and management key, and every session; the selected phases
stay (R467). -/
def clearForDebug (s : State) : State :=
  { s with
    keys := tmap {} (fun _ k => { selTx := k.selTx }) s.keys
    trust := { s.trust with sessions := [], sliceKeys := [] }
    masters := tmap {} (fun _ m => { m with mgmtKey := none }) s.masters }

/-- Draw n 64-bit free values as one number. -/
def drawMany : Nat → State → Nat × State
  | 0, s => (0, s)
  | n + 1, s =>
    let (w, s) := s.draw
    let (v, s) := drawMany n s
    (w.toNat + 2 ^ 64 * v, s)

/-- TD generates the slice memory keys and the package memory key at phase MEMORY (R462). -/
def generateMemoryKeys (s : State) : State :=
  let (p, s) := drawMany 8 s
  let s := { s with trust := { s.trust with pkgKey := some (BitVec.ofNat 512 p) } }
  s.forEach (List.range 256) (fun s k =>
    let (v, s) := drawMany 8 s
    { s with trust := { s.trust with
        sliceKeys := tset none s.trust.sliceKeys k (some (BitVec.ofNat 512 v, false)) } })

/-- A slice owns a defined parity group or a running rebuild (R463). -/
def State.sliceHeld (s : State) (slice : Nat) : Bool :=
  (List.range 16).any (fun g =>
    let pg := tget ({} : PGroup) s.recov.groups g
    pg.slice.toNat == slice && (pg.defined ||
      (List.range 4).any (fun k =>
        let r := tget ({} : Rebuild) s.recov.rebuilds k
        r.active && r.pgroup == g)))

/-- A KEY_INSTALL whose blob holds this key is applied (R463, R464). DEDUCED: log entry 179. -/
def installKey (target sel unit salt : Nat) (key : List Byte) (s : State) : State :=
  let k := leNat key
  let phase := bitOf sel 1
  if target = 1 then
    s.modPortKeys unit (fun p =>
      let v : LinkKey := { key := some (BitVec.ofNat 256 k), salt := BitVec.ofNat 32 salt, ctr := [] }
      if bitOf sel 0 then
        { p.setRx phase v with oldRx := some (match p.oldRx with
            | some (t, ph, k) => if t = s.now ∧ ph = phase then (t, ph, k) else (s.now, phase, p.rx phase)
            | none => (s.now, phase, p.rx phase)) }
      else
        let p := p.setTx phase v
        let p := if bitOf sel 2 then { p with selTx := phase } else p
        if p.selTx == phase then { p with exhausted := [] } else p)
  else if target = 2 then
    { s with trust := { s.trust with
        sliceKeys := tset none s.trust.sliceKeys unit (some (BitVec.ofNat 512 k, true)) } }
  else
    s.modMaster (mRemote unit) (fun m =>
      { m with mgmtKey := some (BitVec.ofNat 256 k), mgmtRx := 0, mgmtTx := 0 })

/-- Change session id. -/
def modSession (id : Nat) (f : Session → Session) (s : State) : State :=
  { s with trust := { s.trust with sessions := s.trust.sessions.map (fun x => if x.id = id then f x else x) } }

/-- The checks of a KEY_INSTALL in the order of R463, and its effect: the status and detail. A blob that authenticates
takes the next record sequence number of its session, so that it authenticates once. -/
def keyInstallOf (d blob : List Byte) (s : State) : Nat × State :=
  let target := fieldOf d 8 1
  let sel := fieldOf d 9 1
  let unit := fieldOf d 10 2
  let klen := if target = 2 then 64 else 32
  let sess := s.trust.sessions.find? (fun x => x.id == fieldOf blob 0 4 && x.opened)
  if !s.trust.identityOk then (6, s)
  else if s.trust.debugOpen then (5, s)
  else match sess with
    | none => (1, s)
    | some se => match Config.unwrap se.key se.seqIn blob with
      | none => (1, s)
      | some app =>
        let s := modSession se.id (fun x => { x with seqIn := x.seqIn + 1 }) s
        let key := sliceOf app 8 klen
        let salt := fieldOf app 4 4
        if fieldOf d 24 2 ≠ Config.blobLen blob ∨ app.length ≠ 8 + klen ∨ fieldOf app 0 1 ≠ target ∨
            fieldOf app 1 1 ≠ sel ∨ fieldOf app 2 2 ≠ unit ∨ (target ≠ 1 ∧ salt ≠ 0) ∨
            (target = 2 ∧ key.take 32 = key.drop 32) then (1, s)
        else if (target = 1 ∧ !s.startsPort unit) ∨ (target = 2 ∧ 255 < unit) ∨ (target = 3 ∧ 3 < unit) ∨
            (bitOf sel 2 ∧ (target ≠ 1 ∨ bitOf sel 0)) then (2, s)
        else
          let pk := s.portKeys unit
          let phase := bitOf sel 1
          if target = 1 ∧ !bitOf sel 0 ∧ pk.selTx = phase ∧ (pk.tx phase).key.isSome then (3, s)
          else if target = 2 ∧ s.sliceHeld unit then (4, s)
          else (0, installKey target sel unit salt key s)

/-- KEY_INSTALL (R463): host is the blob where it stands in host memory. -/
def keyInstall (host : List Byte) (s : State) : State :=
  s.runBody dkKeyInstall 0 host (fun j s =>
    let blob := s.jobData j.src (fieldOf j.desc 16 8) (fieldOf j.desc 24 2) host
    let (detail, s) := keyInstallOf j.desc blob s
    (if detail = 0 then St.ok else St.keyRefused, detail, [], s))

/-! ## Attestation (R459, R460) -/

/-- Keep a digest that the Driant has signed with ECDSA: the last four of each connection (R460). -/
def keepDigest (m : Nat) (d : List Byte) (s : State) : State :=
  s.modMaster m (fun x => { x with digests := (d :: x.digests).take 4 })

/-! ### Requests (their codes and places are those of SPDM 1.3: PRESUMED, log entry 113) -/

/-- The requests that the Driant supports (R459), by their codes. -/
def spdmGetVersion : Nat := 0x84
def spdmGetCapabilities : Nat := 0xE1
def spdmNegotiate : Nat := 0xE3
def spdmGetDigests : Nat := 0x81
def spdmGetCertificate : Nat := 0x82
def spdmChallenge : Nat := 0x83
def spdmGetMeasurements : Nat := 0xE0
def spdmKeyExchange : Nat := 0xE4
def spdmFinish : Nat := 0xE5
def spdmHeartbeat : Nat := 0xE8
def spdmKeyUpdate : Nat := 0xE9
def spdmEndSession : Nat := 0xEC
def spdmVendor : Nat := 0xFE
def spdmRequests : List Nat :=
  [spdmGetVersion, spdmGetCapabilities, spdmNegotiate, spdmGetDigests, spdmGetCertificate, spdmChallenge,
   spdmGetMeasurements, spdmKeyExchange, spdmFinish, spdmHeartbeat, spdmKeyUpdate, spdmEndSession, spdmVendor]

/-- The requests that travel in a session alone. -/
def spdmInSession : List Nat := [spdmFinish, spdmHeartbeat, spdmKeyUpdate, spdmEndSession]

/-- ERROR codes: InvalidRequest, UnexpectedRequest, Unspecified, DecryptError, UnsupportedRequest, SessionLimitExceeded,
SessionRequired, VersionMismatch. -/
def errInvalid : Nat := 0x01
def errUnexpected : Nat := 0x04
def errUnspecified : Nat := 0x05
def errDecrypt : Nat := 0x06
def errUnsupported : Nat := 0x07
def errSessionLimit : Nat := 0x0A
def errSessionRequired : Nat := 0x0B
def errVersion : Nat := 0x41

/-- The response code of a request code. -/
def spdmResponseCode (code : Nat) : Nat := code % 128

/-- An ERROR response (R459). -/
def spdmErrorBytes (code data : Nat) : List Byte := [0x13, 0x7F, BitVec.ofNat 8 code, BitVec.ofNat 8 data]

/-- The certificate slot that a request names; 0 where it names none. -/
def spdmSlot (req : List Byte) : Nat :=
  let code := fieldOf req 1 1
  if code = spdmGetCertificate ∨ code = spdmChallenge then fieldOf req 2 1 % 16
  else if code = spdmKeyExchange then fieldOf req 3 1
  else if code = spdmGetMeasurements ∧ bitOf (fieldOf req 2 1) 0 then fieldOf req 36 1 % 16
  else 0

/-- The digest that a VENDOR_DEFINED_REQUEST names for GET_HSS_SIG: standard ID 0x0003, vendor ID
0x1EC7 and payload op 0x01 (R460; the places are those of SPDM 1.3: PRESUMED, log entry 248). -/
def vendorHss (req : List Byte) : Option (List Byte) :=
  if req.length = 60 ∧ fieldOf req 4 2 = 3 ∧ fieldOf req 6 1 = 2 ∧ fieldOf req 7 2 = 0x1EC7 ∧
      fieldOf req 9 2 = 49 ∧ fieldOf req 11 1 = 1 then some (req.drop 12)
  else none

/-- What a request asks, in the session it came in, if any (R459, R460): an unsupported request, another version, and a
certificate slot other than 0 get an ERROR. -/
def spdmKindOf (conn : List (List Byte)) (sess : Option Session) (req : List Byte) : SpdmKind :=
  let code := fieldOf req 1 1
  let op := fieldOf req 2 1
  if req.length < 4 then .error errInvalid 0
  else if !spdmRequests.contains code then .error errUnsupported code
  else if fieldOf req 0 1 ≠ (if code = spdmGetVersion then 0x10 else 0x13) then .error errVersion 0
  else if spdmSlot req ≠ 0 then .error errInvalid 0
  else match sess, Config.spdmError conn (sess.map Session.id) req with
    | _, some e => .error e.1 e.2
    | none, none =>
      if spdmInSession.contains code then .error errSessionRequired 0
      else if code = spdmChallenge ∨ (code = spdmGetMeasurements ∧ bitOf op 0) then .signs
      else if code = spdmKeyExchange then .keyExchange
      else if code = spdmVendor then (match vendorHss req with
        | some d => .hssSig d
        | none => .error errUnsupported code)
      else .plain
    | some se, none =>
      if code = spdmFinish then (if se.opened then .error errUnexpected 0 else .finish se.id)
      else if !se.opened then .error errUnexpected 0
      else if code = spdmHeartbeat then .heartbeat se.id
      else if code = spdmKeyUpdate then
        (if op = 1 ∨ op = 2 then .keyUpdate se.id true (decide (op = 2))
         else if op = 3 then .plain else .error errInvalid 0)
      else if code = spdmEndSession then .endSession se.id
      else if code = spdmChallenge ∨ code = spdmKeyExchange then .error errUnexpected 0
      else if code = spdmGetMeasurements ∧ bitOf op 0 then .signs
      else if code = spdmVendor then (match vendorHss req with
        | some d => .hssSig d
        | none => .error errUnsupported code)
      else .plain

/-! ### Responses -/

/-- CAPABILITIES flags: CERT, CHAL, MEAS with signature, ENCRYPT, MAC, KEY_EX, HBEAT, KEY_UPD (R459). -/
def spdmCapFlags : Nat := 2 + 4 + 16 + 64 + 128 + 512 + 8192 + 16384

/-- The algorithm selected of those a request offers in its algorithm structure of a type: DHE secp384r1, AEAD
AES-256-GCM, no requester signature, the SPDM key schedule (R459). -/
def spdmStruct (b : List Byte) : List Byte :=
  let ty := fieldOf b 0 1
  let ours := if ty = 2 then 0x10 else if ty = 3 then 0x02 else if ty = 5 then 0x01 else 0
  [byteAt b 0, 0x20] ++ leBytes 2 (fieldOf b 2 2 &&& ours)

/-- ALGORITHMS: ECDSA P-384, SHA-384, the DMTF measurement specification, and the structures of the request (R459). -/
def spdmAlgorithms (req : List Byte) : List Byte :=
  let n := fieldOf req 2 1
  let at_ := 32 + 4 * (fieldOf req 28 1 + fieldOf req 29 1)
  let meas := fieldOf req 6 1 &&& 1
  [0x13, 0x63, BitVec.ofNat 8 n, 0] ++ leBytes 2 (36 + 4 * n) ++ leBytes 1 meas ++ [0] ++ leBytes 4 (4 * meas) ++
    leBytes 4 (fieldOf req 8 4 &&& 0x80) ++ leBytes 4 (fieldOf req 12 4 &&& 2) ++ zeros 16 ++
    (List.range n).flatMap (fun i => spdmStruct (sliceOf req (at_ + 4 * i) 4))

/-- VENDOR_DEFINED_RESPONSE to GET_HSS_SIG with the signature it releases (R460; PRESUMED, log entry 248). -/
def hssAnswer (sig : List Byte) : List Byte :=
  [0x13, 0x7E, 0, 0] ++ leBytes 2 3 ++ [2] ++ leBytes 2 0x1EC7 ++ leBytes 2 (1 + sig.length) ++ [1] ++ sig

/-- The response to a request. ident: the package's ECDSA private key and identity record; sig: the HSS signature that
was released for it (R457, R459 to R461). -/
def spdmResponse (ident : Nat × List Byte) (conn : List (List Byte)) (req : List Byte) (w : BitVec 64)
    (meas : Tab (List Byte)) (sig : Option (List Byte)) (k : SpdmKind) : List Byte :=
  let code := fieldOf req 1 1
  let body := Config.spdmBody ident conn req w meas
  let ack : List Byte := [0x13, BitVec.ofNat 8 (spdmResponseCode code)]
  match k with
  | .error c d => spdmErrorBytes c d
  | .hssSig _ => match sig with
    | some x => hssAnswer x
    | none => spdmErrorBytes errUnspecified 0
  | .finish _ => ack ++ [0, 0]
  | .heartbeat _ => ack ++ [0, 0]
  | .endSession _ => ack ++ [0, 0]
  | .keyUpdate _ _ _ => ack ++ sliceOf req 2 2
  | .signs => ack ++ body
  | .keyExchange => ack ++ body
  | .plain =>
    if code = spdmGetVersion then [0x10, 0x04, 0, 0, 0, 1] ++ leBytes 2 0x1300
    else if code = spdmGetCapabilities then
      [0x13, 0x61, 0, 0] ++ padTo 4 (body.take 4) ++ leBytes 4 spdmCapFlags ++ padTo 8 ((body.drop 4).take 8)
    else if code = spdmNegotiate then spdmAlgorithms req
    else if code = spdmKeyUpdate then ack ++ sliceOf req 2 2
    else ack ++ body

/-- What a request does besides its answer (R459, R460). -/
def spdmEffect (m : Nat) (req : List Byte) (w : BitVec 64) (k : SpdmKind) (s : State) : State :=
  let conn := (s.master m).conn
  match k with
  | .error _ _ => s
  | .plain => s
  | .hssSig _ => s
  | .signs => keepDigest m (Config.spdmDigest conn req w) s
  | .keyExchange =>
    let (key, rsp, period) := Config.spdmSession conn req w
    let s := keepDigest m (Config.spdmDigest conn req w) s
    let se : Session := { id := s.trust.nextSession, master := m, key := key, rspKey := rsp, period := period, lastAt := s.now }
    { s with trust := { s.trust with
        sessions := s.trust.sessions ++ [se], nextSession := s.trust.nextSession + 1 } }
  | .finish id => modSession id (fun x =>
      { x with opened := true, key := Config.spdmNextKey x.key conn 0, rspKey := Config.spdmNextKey x.rspKey conn 0
               seqIn := 0, seqOut := 0, lastAt := s.now }) s
  | .heartbeat id => modSession id (fun x => { x with lastAt := s.now }) s
  | .keyUpdate id req rsp => modSession id (fun x =>
      let x := if req then { x with key := Config.spdmNextKey x.key [] 1, seqIn := 0 } else x
      if rsp then { x with rspKey := Config.spdmNextKey x.rspKey [] 1, seqOut := 0 } else x) s
  | .endSession id => { s with trust := { s.trust with sessions := s.trust.sessions.filter (fun x => x.id != id) } }

/-- The package identity record: the copy of IS0 where it is programmed, else that of IS1 (R452, R457). DEDUCED: log
entry 247. -/
def State.identityRecord (s : State) : List Byte := s.flashRead (!s.flashUsed false 0x6000 8192) 0x6000 8192

/-- The session of master m that a message names, and the request in it: what the message holds where it names none, none
where it does not authenticate; the session's record sequence number moves on (R459). DESIGN CHOICE: log entry 128. -/
def openRequest (m : Nat) (msg : List Byte) (s : State) : Option Session × Option (List Byte) × State :=
  match s.trust.sessions.find? (fun x => x.id == fieldOf msg 0 4 && x.master == m) with
  | none => (none, some msg, s)
  | some se => match Config.unwrap se.key se.seqIn msg with
    | none => (some se, none, s)
    | some req => (some se, some req, modSession se.id (fun x => { x with seqIn := x.seqIn + 1 }) s)

/-- The kind of a request to which the package still has a session to give (R459). -/
def State.spdmAsk (s : State) (m : Nat) (sess : Option Session) (req : List Byte) : SpdmKind :=
  match spdmKindOf (s.master m).conn sess req with
  | .keyExchange => if 8 ≤ s.trust.sessions.length then .error errSessionLimit 0 else .keyExchange
  | k => k

/-- The HSS signature that a request releases: over one of the digests kept (R458, R460). badA, badB: as in takeLeaf. -/
def hssRelease (m : Nat) (badA badB : Bool) (k : SpdmKind) (s : State) : Option (List Byte) × State :=
  match k with
  | .hssSig d =>
    if (s.master m).digests.contains d then
      let (q, s) := takeLeaf badA badB s
      (q.map (fun q => hssSign (s.trust.rootSecret.getD []) q d), s)
    else (none, s)
  | _ => (none, s)

/-- ATTEST (R459): one SPDM request of the descriptor's master. badA, badB: as in takeLeaf.
DESIGN CHOICE: log entry 128. -/
def attest (host : List Byte) (badA badB : Bool) (s : State) : State :=
  s.runBody dkAttest 0 host (fun j s =>
    if !s.trust.identityOk then (St.attestFail, 2, [], s)
    else
      let m := jobMaster j.src
      let msg := s.jobData j.src (fieldOf j.desc 8 8) (fieldOf j.desc 16 4) host
      let cap := fieldOf j.desc 32 4
      let (w, s) := s.draw
      let (sess, req, s) := openRequest m msg s
      let kind := match req with
        | some r => s.spdmAsk m sess r
        | none => .error errDecrypt 0
      let r := req.getD []
      let (sig, s) := hssRelease m badA badB kind s
      let plain := spdmResponse (identityKey (s.trust.rootSecret.getD []), s.identityRecord) (s.master m).conn r w
        s.trust.measurements sig kind
      let resp := match sess, req with
        | some se, some _ => Config.wrap se.id se.rspKey se.seqOut plain
        | _, _ => plain
      if cap < resp.length then (St.attestFail, 1, [], s)
      else
        let s := match sess, req with
          | some se, some _ => modSession se.id (fun x => { x with seqOut := x.seqOut + 1 }) s
          | _, _ => s
        let s := spdmEffect m r w kind s
        let s := s.modMaster m (fun x => { x with conn := x.conn ++ [r, plain] })
        (St.ok, 0, leBytes 4 resp.length, s.jobStore j.src (fieldOf j.desc 24 8) resp))

/-- SPDM_HEARTBEAT_EXPIRY of session id (R459). DEDUCED: log entry 129. -/
def heartbeatExpiry (id : Nat) (s : State) : State :=
  { s with trust := { s.trust with
      sessions := s.trust.sessions.filter (fun x =>
        !(x.id == id && x.period != 0 && s.past x.lastAt (x.period * 1000000000))) } }

/-! ## Updates (R469, R471) -/

/-- A write that the owner makes, or BMC in BOOT_HALT, where no owner exists (R456). DEDUCED: log entry 18. -/
def State.trustWrite (s : State) (m : Nat) (f : State → State) : State :=
  if s.boot.phase == .bootHalt then (if m = mBmc then f s else s.refuseWrite m) else s.ownerWrite m f

/-- Base and length of an updatable region (R452, R471). -/
def regionOf (r : Nat) : Option (Nat × Nat) :=
  if r ≤ 0x0F then some (imageAt r, 0x800000)
  else if r = 0x10 then some (0x1000, 4096)
  else if r = 0x11 then some (0x9000000, 0x1000000)
  else if r = 0x12 then some (0x4000, 4096)
  else none

/-- Both signatures of an operator key record verify under two keys (R451, R455). -/
def opSigned (ek hk r : List Byte) : Bool :=
  let (msg, sigE, sigH) := Config.opParts r
  dualOk ek hk msg sigE sigH.length sigH

/-- An operator key record may stand where the record in use is this one (R455). -/
def opRecOk (cur r : List Byte) : Bool :=
  cur.isEmpty || r == cur ||
  (opSigned (Config.opKey cur 0) (Config.opKey cur 1) r &&
    decide (Config.opSeq cur ≤ Config.opSeq r) && decide (Config.opMinSvn cur ≤ Config.opMinSvn r))

/-- The whole region of a copy verifies (R469). -/
def State.regionOk (s : State) (r : Nat) (b : Bool) : Bool :=
  if r = 0x10 then s.svrOk (s.svrOf b)
  else if r = 0x11 then s.configOk b
  else if r = 0x12 then s.flashUsed b 0x4000 4096 && opRecOk s.opRecNow (s.opRecAt b)
  else firmwareTypes.contains r && s.firmwareOk s.trust.svr r b

/-- A WRITE or ERASE of a copy needs the other copy to verify, but in BOOT_HALT, for a configuration
image under default_cfg (02 R57), and for the first operator key record (R455; DEDUCED, log entry 114). The last sealed
operator key record is not written over or erased (R455; DEDUCED, log entry 274). -/
def State.otherCopyOk (s : State) (r : Nat) (b : Bool) : Bool :=
  if r = 0x12 then
    s.opRecNow.isEmpty || (s.opSealed (!b) && s.regionOk r (!b)) || (s.boot.phase == .bootHalt && !s.opSealed b)
  else s.boot.phase == .bootHalt || (r == 0x11 && s.boot.defaultCfg) || s.regionOk r (!b)

/-- A security-version record is refused: 5 ROLLBACK, 7 WOULD_BRICK, 0 not refused (R469). -/
def State.svrRefused (s : State) (r : List Byte) : Nat :=
  let cur := s.trust.svr
  if !cur.isEmpty && (decide (svrSeq r < svrSeq cur) ||
      (List.range 16).any (fun t => decide (svrMin r t < svrMin cur t))) then 5
  else if firmwareTypes.any (fun t => !List.any [false, true] (fun b =>
      s.firmwareOk cur t b && decide (svrMin r t ≤ fieldOf (s.flashRead b (imageAt t) 128) 6 2))) then 7
  else 0

/-- The result of a WRITE request (R469, R471). DEDUCED: log entry 123. -/
def State.writeResult (s : State) (r : Nat) (b : Bool) (off len : Nat) (data : List Byte) : Nat :=
  match regionOf r with
  | none => 6
  | some (base, size) =>
    if off % 4096 ≠ 0 ∨ len < 1 ∨ 1048576 < len ∨ size < off + len then 6
    else if !s.otherCopyOk r b then 3
    else if r = 0x10 then
      let img := patch (s.flashRead b base size) off data
      if fieldOf img 0 4 = 0x52565344 then (match s.svrRefused img with
        | 0 => 1
        | n => n) else 1
    else 1

/-- The result of a SEAL request (R469). DEDUCED: log entry 126. -/
def State.sealResult (s : State) (r : Nat) (b : Bool) : Nat :=
  match regionOf r with
  | none => 6
  | some _ =>
    if !s.regionOk r b then 4
    else if r = 0x10 then (match s.svrRefused (s.svrOf b) with
      | 0 => 1
      | n => n)
    else 1

/-- The result of an ERASE request (R469). -/
def State.eraseResult (s : State) (r : Nat) (b : Bool) : Nat :=
  match regionOf r with
  | none => 6
  | some _ => if s.otherCopyOk r b then 1 else 3

/-- Mark an image store die busy or idle (16 R479). -/
def setBusy (b busy : Bool) (s : State) : State :=
  if b then { s with is1 := { s.is1 with busy := busy } } else { s with is0 := { s.is0 with busy := busy } }

/-- Erase a whole region of a copy. -/
def eraseRegion (r : Nat) (b : Bool) (s : State) : State :=
  match regionOf r with
  | some (base, size) => s.flashErase b base size
  | none => s

/-- Start the request that TR_IS_UPD holds: the image store changes, and IS_UPD_COMPLETE posts the
result (R469, R471). The die is busy where the request programs or erases (16 R479), and a copy's operator key record is
sealed by its SEAL alone. -/
def startUpd (s : State) : State :=
  let u := s.trust.upd
  let r := u.region.toNat
  let b := u.copyB
  let off := u.offset.toNat
  let len := u.length.toNat
  let (res, s) : Nat × State :=
    if u.op = 1 then
      let data := if len ≤ 1048576 then memRead 0 s.trust.staging 0 len else []
      let res := s.writeResult r b off len data
      (res, if res = 1 then (match regionOf r with
        | some (base, _) => s.flashWrite b (base + off) data
        | none => s) else s)
    else if u.op = 2 then
      let res := s.sealResult r b
      (res, if res = 1 ∨ res = 6 then s else eraseRegion r b s)
    else if u.op = 3 then
      let res := s.eraseResult r b
      (res, if res = 1 then eraseRegion r b s else s)
    else (6, s)
  let changes := (u.op != 2 && decide (res = 1)) || (u.op == 2 && decide (res ≠ 1 ∧ res ≠ 6))
  let s := if decide (r = 0x12) && (changes || u.op == 2) then setSealed b (!changes) s else s
  let s := { s with trust := { s.trust with upd := { u with go := true, pendingResult := BitVec.ofNat 4 res } } }
  s.when changes (setBusy b true)

/-- A write of TR_IS_UPD while go reads 1 is dropped, and the result reads BUSY (R471). -/
def State.updWrite (s : State) (f : State → State) : State :=
  if s.trust.upd.go then { s with trust := { s.trust with upd := { s.trust.upd with result := 2 } } }
  else f s

/-- A request of TR_IS_UPD by master m with its fields (R471). -/
def updRequest (m op : Nat) (b : Bool) (region off len : Nat) (s : State) : State :=
  s.trustWrite m (fun s => s.updWrite (fun s =>
    startUpd { s with trust := { s.trust with upd := { s.trust.upd with
      op := BitVec.ofNat 4 op, copyB := b, region := BitVec.ofNat 5 region
      offset := BitVec.ofNat 32 off, length := BitVec.ofNat 21 len } } }))

/-- IS_UPD_COMPLETE (R471): the operation finishes. good: what it programmed or erased read back; maxErase: the largest
erase count that the die reports (16 R479). DEDUCED: log entry 124. -/
def updComplete (good : Bool) (maxErase : Nat) (s : State) : State :=
  let u := s.trust.upd
  if !u.go then s
  else
    let b := u.copyB
    let bad := (if b then s.is1.busy else s.is0.busy) && !good
    let s := setBusy b false s
    let s := if b then { s with is1 := { s.is1 with maxErase := BitVec.ofNat 32 maxErase } }
      else { s with is0 := { s.is0 with maxErase := BitVec.ofNat 32 maxErase } }
    let res := if u.pendingResult = 1 ∧ bad then 4 else u.pendingResult
    let s := s.when bad (progError b)
    { s with trust := { s.trust with upd := { u with go := false, result := res } } }

/-! ## Debug (R470) -/

/-- The result of a token: 1 ACCEPTED, 2 AUTH_FAIL, 3 BAD_TOKEN (R470, R472). DEDUCED: log entry 176. -/
def State.tokenResult (s : State) (tok : List Byte) : Nat :=
  if !s.imageSigned tok then 2
  else if fieldOf tok 0 4 = 0x47424444 ∧ fieldOf tok 4 4 < 8 ∧ fieldOf tok 8 8 = s.recordSerial ∧
      fieldOf tok 16 16 = s.trust.nonce.toNat then 1
  else 3

/-- An operation on the image store that no request makes: programmed or erased, or counted where it does not read back
(16 R479). DESIGN CHOICE: log entry 275. -/
def storeOp (b bad : Bool) (f : State → State) (s : State) : State := if bad then progError b s else f s

/-- OPERATOR_RESET: the operator key record is erased in both copies, and measurement index 9 is 48 zero bytes (R455,
R461, R470). -/
def operatorReset (badA badB : Bool) (s : State) : State :=
  let wipe (b bad : Bool) (s : State) : State :=
    setSealed b false (storeOp b bad (fun s => s.flashErase b 0x4000 4096) s)
  let s := wipe true badB (wipe false badA s)
  measure 9 (zeros 48) { s with trust := { s.trust with opRec := [] } }

/-- DEBUG_APPLY (R470): the token at the start of the staging window is checked. badA, badB: an erasure of the operator
key record in copy A or B does not read back. -/
def debugApply (m : Nat) (badA badB : Bool) (s : State) : State :=
  s.trustWrite m (fun s =>
    let tok := memRead 0 s.trust.staging 0 3832
    let res := s.tokenResult tok
    let s := { s with trust := { s.trust with debugResult := BitVec.ofNat 4 res } }
    if res ≠ 1 then s
    else
      let scope := s.trust.scope ||| BitVec.ofNat 3 (fieldOf tok 4 4)
      let s := clearForDebug s
      let s := { s with trust := { s.trust with scope := scope, debugOpen := true } }
      let s := measure 10 (leBytes 4 scope.toNat) s
      s.when (bitOf (fieldOf tok 4 4) 2) (operatorReset badA badB))

/-! ## The safe log (13 R412, R416) -/

/-- seq of slot k of the safe log, none where the slot was never written. DEDUCED: log entry 148. -/
def State.logSeq (s : State) (k : Nat) : Option Nat :=
  let v := leNat (s.flashRead false (0x10000 + 0x40 * k) 4)
  if v = 0xFFFFFFFF then none else some v

/-- The slot with the largest seq: slot and seq. -/
def State.logLast (s : State) : Option (Nat × Nat) :=
  (List.range 256).foldl (fun best k => match s.logSeq k, best with
    | some v, some (_, w) => if w < v then some (k, v) else best
    | some v, none => some (k, v)
    | none, _ => best) none

/-- VT_SAFE_LOG_HEAD.next: the slot the next record takes (13 R415). -/
def State.logHead (s : State) : Nat :=
  match s.logLast with
  | some (k, _) => (k + 1) % 256
  | none => 0

/-- The safe record (13 R412). -/
def State.safeRecord (s : State) : List Byte :=
  let v := s.vent
  let seq := match s.logLast with
    | some (_, n) => n + 1
    | none => 1
  let owner := decide (v.cause = 5)
  let head := leBytes 4 seq ++ leBytes 1 v.cause.toNat ++
    leBytes 1 (if owner then 0 else v.die.toNat) ++ leBytes 1 (if owner then 0 else v.source.toNat) ++ [0] ++
    leBytes 8 v.safeFtc.toNat ++ leBytes 16 v.safeDies.toNat
  head ++ leBytes 4 (crc32c head).toNat ++ zeros 28

/-- Append the safe record to both copies of the log and erase the next slot (13 R412). badA, badB: what is written to
copy A or B does not read back (16 R479). -/
def writeSafeRecord (badA badB : Bool) (s : State) : State :=
  let k := s.logHead
  let r := s.safeRecord
  let put (b bad : Bool) (s : State) : State := storeOp b bad (fun s =>
    let s := (s.flashErase b (0x10000 + 0x40 * k) 64).flashWrite b (0x10000 + 0x40 * k) r
    s.flashErase b (0x10000 + 0x40 * ((k + 1) % 256)) 64) s
  let s := put true badB (put false badA s)
  { s with vent := { s.vent with recordWritten := true } }

/-! ## The commands -/

/-- IMAGES_VERIFIED (R456). -/
def execImagesVerified (t : Nat) (puf : Option (List Byte)) (eraseA eraseB : Nat) (s : State) : Out :=
  run (decide (eraseA < 2 ^ 32) && decide (eraseB < 2 ^ 32)) t (imagesVerified puf eraseA eraseB) s

/-- DIE_RECORDS_VERIFIED (01 R32). -/
def execDieRecordsVerified (t : Nat) (pufs : List (Nat × List Byte)) (s : State) : Out :=
  run (pufs.all (fun p => assignedDies.contains p.1)) t (dieRecordsVerified pufs) s

/-- KEY_INSTALL (R463). -/
def execKeyInstall (t : Nat) (host : List Byte) (s : State) : Out := run true t (keyInstall host) s

/-- ATTEST (R459). -/
def execAttest (t : Nat) (host : List Byte) (badA badB : Bool) (s : State) : Out :=
  run true t (attest host badA badB) s

/-- SPDM_HEARTBEAT_EXPIRY (R459). -/
def execSpdmHeartbeatExpiry (t id : Nat) (s : State) : Out := run true t (heartbeatExpiry id) s

/-- IS_UPD_WRITE (R469). -/
def execIsUpdWrite (t m : Nat) (b : Bool) (region off len : Nat) (s : State) : Out :=
  run (isMaster m && decide (region < 32 ∧ off < 2 ^ 32 ∧ len < 2 ^ 21)) t
    (onPath m (updRequest m 1 b region off len)) s

/-- SEAL (R469). -/
def execSeal (t m : Nat) (b : Bool) (region : Nat) (s : State) : Out :=
  run (isMaster m && decide (region < 32)) t (onPath m (fun s =>
    updRequest m 2 b region s.trust.upd.offset.toNat s.trust.upd.length.toNat s)) s

/-- ERASE (R469). -/
def execErase (t m : Nat) (b : Bool) (region : Nat) (s : State) : Out :=
  run (isMaster m && decide (region < 32)) t (onPath m (fun s =>
    updRequest m 3 b region s.trust.upd.offset.toNat s.trust.upd.length.toNat s)) s

/-- IS_UPD_COMPLETE (R471). -/
def execIsUpdComplete (t : Nat) (good : Bool) (maxErase : Nat) (s : State) : Out :=
  run (decide (maxErase < 2 ^ 32)) t (updComplete good maxErase) s

/-- DEBUG_APPLY (R470). -/
def execDebugApply (t m : Nat) (s : State) (badA badB : Bool := false) : Out :=
  run (isMaster m) t (onPath m (debugApply m badA badB)) s

end Sys2Proof.Machine
end

