-- ==== Sys2Proof/Machine/Vent.lean ====
section
/-! DEFINITION. Vent: sticky bits, enables and timers as commands, isolation, the safe state, the
collectors' heartbeats and calibration, and the skim pass (13 R399 to R412). -/

namespace Sys2Proof.Machine

/-! ## The safe state (R409, R410, 02 R45, R54) -/

/-- The cause codes of VT_SAFE_STATUS (R415). -/
def scIsolationFailed : BitVec 4 := 1
def scVtSelf : BitVec 4 := 2
def scThermTrip : BitVec 4 := 3
def scNoUnit : BitVec 4 := 4
def scOwner : BitVec 4 := 5

/-- A reset request in progress other than a port reset is abandoned with result BUSY, and what it held in
reset is released (02 R54, DEDUCED, log entry 120). -/
def abandonReset (s : State) : State :=
  if s.rstCtl.go && s.rstCtl.kind != 5 then
    let s := { s with
      rstCtl := { s.rstCtl with go := false, warm := false }
      rstStatus := { s.rstStatus with result := 2 }
      dies := tmap {} (fun _ d => { d with inReset := false }) s.dies }
    if s.rstCtl.kind == 2 && s.pins.hRstLow then
      { s with pins := { s.pins with hRstLow := false, hRstRoseAt := some s.now } }
    else s
  else s

/-- Engines stop, tiles step down to zero admission and memory controllers step down, all through the fall buckets,
and GDDR7 enters self-refresh where they have; the lanes keep running (02 R45, R409). -/
def haltWork (s : State) : State :=
  (askWorkFalls s).forEach (List.range 8) (fun s c => selfRefreshAt c s)

/-- Some valid reading is at least c sixteenths of a degree. -/
def State.someAt (s : State) (c : Int) : Bool :=
  (List.range 104).any (fun n => (s.die n).tempValid && decide (c ≤ (s.die n).tempVal))

/-- THERM_N follows the thresholds and H_THERM_N; it is released through bring-up (01 R26, R28).
DEDUCED: log entry 151. -/
def thermPin (s : State) : State :=
  let a : Int := s.therm.assertC.toNat * 16
  let runs := s.boot.row == .readyOk || s.vent.inSafe
  let low :=
    if !runs then false
    else if !s.pins.hThermN || s.someAt a then true
    else if (List.range 104).all (fun n => !(s.die n).tempValid || decide ((s.die n).tempVal ≤ a - 80)) then false
    else s.pins.thermLow
  { s with pins := { s.pins with thermLow := low } }

/-- Open invocations are abandoned and write no audit record, and Caldera stops intake (R409, R410). -/
def abandonInvs (s : State) : State :=
  { s with
    invs := []
    engines := tmap {} (fun _ e => { e with slots := [] }) s.engines
    calderas := tmap {} (fun _ c => { c with landing := [], magma := [] }) s.calderas
    counters := tmap {} (fun _ c => { c with waiters := [] }) s.counters
    rings := tmap {} (fun _ r => { r with audits := [] }) s.rings }

/-- Bit n for each die with a sticky bit (R402, R412, R415). -/
def State.stickyDies (s : State) : BitVec 128 :=
  (List.range 68).foldl (fun v n => setBit v n ((s.die n).sticky != 0)) 0

/-- The package enters the safe state (R409): cause, and the die and index of the source. Timers run on (R404).
DEDUCED: log entry 137. -/
def enterSafe (cause : BitVec 4) (d src : Nat) (s : State) : State :=
  if s.vent.inSafe then s
  else
    let s := abandonReset s
    let s := { s with
      vent := { s.vent with
        inSafe := true, cause := cause, die := BitVec.ofNat 8 d, source := BitVec.ofNat 6 src
        recordWritten := false, isolating := [], safeFtc := BitVec.ofNat 64 s.ftcNow, safeDies := s.stickyDies }
      pins := { s.pins with vtSafe := true, safeLow := true }
      boot := { s.boot with phase := .safe } }
    thermPin ((abandonRebuilds (abandonInvs (haltWork s))).packageVector 1)

/-! ## Isolation (R405, R406) -/

/-- What isolating a unit does at once (R406). DEDUCED: log entry 142. -/
def isolationAction (u : VUnit) (s : State) : State :=
  match u.kind with
  | .pool => s.modTile (u.die - 4) (fun t => t.modPool u.idx (fun p => { p with quarantined := true }))
  | .engine => engineLoss (8 * (u.die - 28) + u.idx) s
  | .caldera => calderaLoss (u.die - 28) s
  | .plane => planeRetire (u.die - 20) 2 s
  | .tile =>
    let t := u.die - 4
    let s := s.forEach ((s.tilePorts t).filter (fun p => (s.port p).state != .off))
      (fun s p => portDown p .disabled s)
    if s.activeTile == u.die then failoverTo 2 true s else s
  | .lane =>
    let n := u.die - 36
    let ports := ((List.range 16).map (fun i => 16 * n + i)).filter s.startsPort
    let s := s.forEach (ports.filter (fun p => (s.port p).state != .off)) (fun s p => portDown p .disabled s)
    s.forEach ((List.range 16).map (fun i => 16 * n + i)) (fun s l => laneOff l s)

/-- The unit acknowledges: it is isolated and stays so (R405, R406, R414). DEDUCED: log entry 141. -/
def isolationDone (i : Isolating) (s : State) : State :=
  let u := i.unit
  let s := { s with vent := { s.vent with isolating := s.vent.isolating.filter (fun j => j.unit != u) } }
  let s := s.modDie u.die (fun x =>
    match u.kind with
    | .pool => { x with poolIso := setBit x.poolIso u.idx true }
    | .engine => { x with engIso := setBit x.engIso u.idx true }
    | _ => { x with isolated := true })
  s.ventEvent i.srcDie i.src 3 (ventArg1 u)

/-- Start the isolation of a unit for a source; one that is isolated, or whose isolation or that of the
unit it lies inside is under way, joins it (R405, R408). DEDUCED: log entry 140. -/
def startIsolation (d src : Nat) (s : State) (u : VUnit) : State :=
  if s.unitIsolated u || s.unitIsolating u then s
  else
    let i : Isolating :=
      { unit := u, srcDie := d, src := src, startedAt := s.now, isoUs := s.vent.isoUs.toNat }
    let s := { s with vent := { s.vent with isolating := s.vent.isolating ++ [i] } }
    let s := isolationAction u (s.ventEvent d src 2 (ventArg1 u))
    if u.kind == .pool then isolationDone i s else s

/-- A calibrated timer of a die is accurate to 2 %, one on a held calibration to 30 % (R402): us
microseconds may have run out since a moment. DEDUCED: log entry 139. -/
def State.ventDue (s : State) (d since us : Nat) : Bool :=
  s.past since (us * (if (s.die d).calHeld then 700 else 980))

/-- The owner's clear of a source comes in the same cycle (R408), by whichever of its register writes. -/
def State.clearComes (s : State) (d src : Nat) : Bool :=
  !s.clkStopped dieTD && s.reachable d && (s.wordsComing oscCycle).any (fun w =>
    s.mayWrite w.1 && w.2.1 == d * windowSize + 0xE000 + src / 32 * 4 && bitOf w.2.2 (src % 32))

/-- The collector of die d holds VT_ALERT_N low, and the package enters the safe state (R402, R405, R407). -/
def requestSafe (cause : BitVec 4) (d src : Nat) (s : State) : State :=
  enterSafe cause d src (s.modDie d (fun x => { x with alertLow := true }))

/-- VENT_TIMER_EXPIRY: the timer of a source runs out, unless the owner's clear is taken in the same cycle (R405,
R408). In the safe state, which is where escalation ends, it runs out with no more effect. DESIGN CHOICE: log entry
259. -/
def timerRunsOut (d src : Nat) (s : State) : State :=
  match tget none (s.die d).timers src with
  | none => s
  | some tm =>
    if !s.ventDue d tm.startedAt tm.windowUs || s.clearComes d src then s
    else
      let s := s.modDie d (fun x => { x with timers := tset none x.timers src none })
      if s.vent.inSafe then s
      else match s.unitsOf d src with
      | none => requestSafe scNoUnit d src (s.ventEvent d src 4 0)
      | some us => s.forEach us (startIsolation d src)

/-- The isolation of the unit named by a die and an index that is under way. -/
def State.isolatingAt (s : State) (d idx : Nat) : Option Isolating :=
  s.vent.isolating.find? (fun i => i.unit.die == d && i.unit.idx == idx)

/-- A unit being isolated may acknowledge (R406): an engine that holds no landing place (and adds nothing, its
invocations having ended), a Caldera die or a tile with whose fabric port no plane has exchanged a cell for 1 µs, a
lane die whose lanes are off. A plane's credits are dropped at once. -/
def State.mayAck (s : State) (u : VUnit) : Bool :=
  match u.kind with
  | .engine => !((s.caldera (u.die - 28)).landing.any (fun l => l.user == u.idx))
  | .caldera => s.past (tget 0 s.fabric.deliveredAt (16 + (u.die - 28))) 1000
  | .tile => s.past (tget 0 s.fabric.takenAt (u.die - 4)) 1000
  | .lane => (List.range 16).all (fun i => !(s.lane (16 * (u.die - 36) + i)).enabled)
  | _ => true

/-- ISOLATION_ACK (R405, R406). -/
def isolationAck (d idx : Nat) (s : State) : State :=
  match s.isolatingAt d idx with
  | some i => s.when (s.mayAck i.unit) (isolationDone i)
  | none => s

/-- ISOLATION_TIMEOUT (R405). -/
def isolationTimeout (d idx : Nat) (s : State) : State :=
  match s.isolatingAt d idx with
  | some i =>
    if s.ventDue d i.startedAt i.isoUs then
      requestSafe scIsolationFailed i.srcDie i.src (s.ventEvent i.srcDie i.src 4 (ventArg1 i.unit))
    else s
  | none => s

/-! ## Raising at once, clearing, enabling and injecting (R403, R404, R407, R414) -/

/-- Raise a source; VT_SELF and THERM_TRIP enter the safe state at once (R402, R407, 01 R28). DEDUCED: log entry
138. -/
def raiseNow (d src : Nat) (s : State) : State :=
  let s := s.raise d src
  if src = srcVtSelf then requestSafe scVtSelf d src s
  else if d = dieTD ∧ src = srcThermTrip then requestSafe scThermTrip d src s
  else s

/-- The two copies of what the collector of die d holds differ in one bit more or one bit fewer, by a fault of one of
them. -/
def flipCopy (d bit : Nat) (s : State) : State :=
  s.modDie d (fun x => { x with copyDiff := setBit x.copyDiff bit (!x.copyDiff.getLsbD bit) })

/-- The comparison of the two copies that the collector of die d makes in every VT_OSC cycle (R407). -/
def compareCopies (d : Nat) (s : State) : State := s.when ((s.die d).copyDiff != 0) (raiseNow d srcVtSelf)

/-- STICKY_CLEAR by master m (R403). -/
def stickyClear (m d mask : Nat) (s : State) : State := s.ownerWrite m (fun s => s.clearSticky d mask)

/-- VENT_ENABLE_WRITE by master m of enable_lo or enable_hi (R404, R414). -/
def enableWrite (m d : Nat) (hi : Bool) (v : Nat) (s : State) : State :=
  s.ownerWrite m (fun s => s.writeEnables d (if hi then 32 else 0) v)

/-- VENT_INJECT by master m: bits set as if raised; bit 0 only once debug has opened it (R407, R414).
DEDUCED: log entry 145. -/
def injectWrite (m d mask : Nat) (s : State) : State :=
  s.ownerWrite m (fun s =>
    s.forEach ((List.range 64).filter (fun i =>
        bitOf mask i && sourceListed d i && (i != 0 || s.trust.scope.getLsbD 1)))
      (fun s i => raiseNow d i s))

/-- ENTER_SAFE by master m (R409). -/
def enterSafeWrite (m : Nat) (s : State) : State := s.ownerWrite m (enterSafe scOwner 0 0)

/-! ## Collectors (R402) -/

/-- VENT_HEARTBEAT of a die: a pulse of VT_ALERT_N, which is none while the collector holds the line low. -/
def ventHeartbeat (d : Nat) (s : State) : State :=
  s.when (s.collects d && !(s.die d).alertLow) (fun s => (s.modDie d (fun x => { x with heartbeatAt := s.now })).emit (.heartbeat d))

/-- AGG_LOST: TD has seen no heartbeat of a die for 100 µs. -/
def aggLost (d : Nat) (s : State) : State :=
  s.when (s.silent d) (fun s => s.raise dieTD srcAggLost d)

/-- VT_OSC_CALIBRATION of a die: count cycles against its MG_CSR clock, or none while it is absent. -/
def calibrate (d : Nat) (count : Option Nat) (s : State) : State :=
  s.when (s.collects d) (fun s => s.modDie d (fun x =>
    match count with
    | some n => { x with calHeld := false, calCount := n }
    | none => { x with calHeld := true }))

/-! ## The skim pass (R392, R399, R400) -/

/-- The skim pass runs: from phase MEMORY on, not in the safe state (R400). -/
def State.skims (s : State) (d : Nat) : Bool :=
  (s.boot.row == .memoryOk || s.boot.row == .readyOk) && !s.vent.inSafe && s.collects d

/-- The pass that reads a memory: GDDR7 has one of its own (R399). -/
def skimPass (d where_ : Nat) : Nat := if dieKind d == .caldera && where_ = 9 then 1 else 0

/-- The memories that a pass of a die reads, in the order of its pass, each with its rows (R399, 09 R262, R283). -/
def State.skimMems (s : State) (d pass : Nat) : List (Nat × Nat) :=
  match dieKind d with
  | .tile => [(0, 524288), (1, Config.tableRows)]
  | .caldera =>
    if pass = 1 then [(9, s.shareRows.foldl (· + ·) 0)] else (List.range 8).map (fun e => (e, 73728)) ++ [(8, 196608)]
  | .lane => [(0, Config.pcsRows)]
  | _ => []

/-- The row after row r of memory i of a pass, in ascending address, and whether the pass ends (R399). -/
def skimNext (mems : List (Nat × Nat)) (i r : Nat) : (Nat × Nat) × Bool :=
  if r + 1 < (mems.getD i (0, 0)).2 then ((i, r + 1), false)
  else if i + 1 < mems.length then ((i + 1, 0), false)
  else ((0, 0), true)

/-- Bank and row, in its bank, of row r of the working banks of engine where_ or of the landing and magma banks (09 R262,
R263). -/
def skimBank (where_ r : Nat) : Nat × Nat :=
  if where_ < 8 then (48 * where_ + r % 48, r / 48) else (384 + r / 1536, r % 1536)

/-- A row of GDDR7 of Caldera die c that the pass read: the parity block that ends with it is checked (R400, 09 R289). -/
def skimBlock (c r : Nat) (s : State) : State :=
  let (p, k) := partOfRow s.shareRows r
  match blockEnding k with
  | some i =>
    (match s.blockGroup c (p == 1) i with
    | some g => s.when (decide (p < 2)) (checkBlock c g (p == 1) i)
    | none => s)
  | none => s

/-- What a pass does with row r of a memory of a die (R392, R399, R400). flaw: what the symbol code finds; hit: traffic
writes the row in the cycle of its write-back, which is then dropped and the row not reported; edc: tries of a read of
GDDR7 that fail before (R391). -/
def skimRow (d where_ r : Nat) (flaw : Flaw) (hit : Bool) (edc : Nat) (s : State) : State :=
  let c := d - 28
  let flaw := if hit && flaw == .corrected then .none else flaw
  if dieKind d == .caldera && where_ = 9 then
    let dev := rowDevice (partOfRow s.shareRows r).2
    let (read, s) := gddrRead c dev (.edc edc) s
    if !read then s
    else
      let (good, s) := gddrRead c dev flaw s
      s.when good (skimBlock c r)
  else
    let (good, s) := sramRead d ((skimSource d where_).getD 0) flaw s
    if good || dieKind d != .caldera then s
    else
      let b := skimBank where_ r
      s.forEach (s.rowHolders c b.1 b.2) (fun s k => abortInv k St.calderaLost 0 none false s)

/-- SKIM_READ of a row of a memory of a die, where its pass stands at it (R399, R400). DEDUCED: log entry 150. -/
def skimRead (d where_ row : Nat) (flaw : Flaw) (hit : Bool) (edc : Nat) (s : State) : State :=
  let pass := skimPass d where_
  let mems := s.skimMems d pass
  let at_ := tget (0, 0) (s.die d).skimRow pass
  if !s.skims d || (mems[at_.1]?).map Prod.fst != some where_ || at_.2 != row then s
  else
    let next := skimNext mems at_.1 at_.2
    let s := s.modDie d (fun x =>
      { x with skimRow := tset (0, 0) x.skimRow pass next.1
               skimPasses := if next.2 then satInc x.skimPasses else x.skimPasses })
    skimRow d where_ row flaw hit edc s

/-! ## The commands -/

/-- STICKY_CLEAR (R403). -/
def execStickyClear (t m d mask : Nat) (s : State) : Out :=
  run (isMaster m && dieKind d != .none && decide (mask < 2 ^ 64)) t (accessDie m d (stickyClear m d mask)) s

/-- VENT_ENABLE_WRITE (R404). -/
def execVentEnableWrite (t m d : Nat) (hi : Bool) (v : Nat) (s : State) : Out :=
  run (isMaster m && dieKind d != .none && decide (v < 2 ^ 32)) t (accessDie m d (enableWrite m d hi v)) s

/-- VENT_INJECT (R414). -/
def execVentInject (t m d mask : Nat) (s : State) : Out :=
  run (isMaster m && dieKind d != .none && decide (mask < 2 ^ 64)) t (accessDie m d (injectWrite m d mask)) s

/-- VENT_TIMER_EXPIRY (R405). -/
def execVentTimerExpiry (t d src : Nat) (s : State) : Out :=
  run (dieKind d != .none && decide (src < 64)) t (timerRunsOut d src) s

/-- ISOLATION_ACK (R405). -/
def execIsolationAck (t d idx : Nat) (s : State) : Out :=
  run (decide (d < 104) && decide (idx < 256)) t (isolationAck d idx) s

/-- ISOLATION_TIMEOUT (R405). -/
def execIsolationTimeout (t d idx : Nat) (s : State) : Out :=
  run (decide (d < 104) && decide (idx < 256)) t (isolationTimeout d idx) s

/-- VT_SELF (R407), where the die's collector runs: a fault of a bit that it holds in two copies, and the comparison
that finds it. -/
def execVtSelf (t d : Nat) (s : State) (bit : Nat := 0) : Out :=
  run (dieKind d != .none && heldTwice d bit) t
    (fun s => s.when (s.collects d) (fun s => compareCopies d (flipCopy d bit s))) s

/-- AGG_LOST (R402). -/
def execAggLost (t d : Nat) (s : State) : Out := run (dieKind d != .none) t (aggLost d) s

/-- ENTER_SAFE (R409). -/
def execEnterSafe (t m : Nat) (s : State) : Out := run (isMaster m) t (onPath m (enterSafeWrite m)) s

/-- SKIM_READ (R399). -/
def execSkimRead (t d where_ row : Nat) (flaw : Flaw) (hit : Bool) (edc : Nat) (s : State) : Out :=
  run (skimSource d where_).isSome t (skimRead d where_ row flaw hit edc) s

/-- VENT_HEARTBEAT (R402). -/
def execVentHeartbeat (t d : Nat) (s : State) : Out := run (dieKind d != .none) t (ventHeartbeat d) s

/-- VT_OSC_CALIBRATION (R402). -/
def execVtOscCalibration (t d : Nat) (count : Option Nat) (s : State) : Out :=
  run (dieKind d != .none) t (calibrate d count) s

end Sys2Proof.Machine
end

