-- ==== Sys2Proof/Machine/Boot.lean ====
section
/-! DEFINITION. Package reset and bring-up: the rows of 02 R56 and the start-up configuration image that
CONFIG applies (02 R52, R56 to R58, R483, 01 R25, 04 R131, R134, 05 R155, 09 R260, R283, 10 R304, 14 R444). -/

namespace Sys2Proof.Machine

/-! ## Package reset (R10, R26, R52) -/

/-- PACKAGE_RESET: by PKG_RST_N (pin), which then is low and leaves Float the falls of what ran, or by power-on (R38,
R52, R58). -/
def packageResetBy (pin : Bool) (s : State) : State :=
  let r := packageReset (if pin then 2 else 1) { s with pins := { s.pins with pkgRstN := s.pins.pkgRstN && !pin } }
  if pin then { r with float := s.coolDown } else r

/-! ## PK_REC_CTL (14 R444), which the image and the owner write -/

/-- A word of PK_REC_CTL written: off is its offset within the register. -/
def recCtlWrite (off v : Nat) (s : State) : State :=
  let r := s.recov
  let r : Recovery :=
    if off = 0 then { r with parityEp := BitVec.ofNat 16 v, buddyEp := BitVec.ofNat 16 (bitsOf v 16 16) }
    else if off = 4 then
      { r with
        mirrorSrc := BitVec.ofNat 16 v, recSlice := BitVec.ofNat 8 (bitsOf v 16 8), autoRebuild := bitOf v 24
        ledgerAt := if BitVec.ofNat 16 v = r.mirrorSrc then r.ledgerAt else s.now }
    else if off = 8 then
      { r with failHoldMs := BitVec.ofNat 16 (clamp 1 60000 (bitsOf v 0 16))
               hbMs := BitVec.ofNat 16 (clamp 10 10000 (bitsOf v 16 16)) }
    else if off = 0xC then { r with lambdaH := BitVec.ofNat 14 (clamp 1 8760 (bitsOf v 0 14)) }
    else if off = 0x10 then { r with feedMs := BitVec.ofNat 16 (clamp 1 60000 (bitsOf v 0 16)) }
    else if off = 0x14 then
      { r with tauMin := BitVec.ofNat 32 v, tauMax := BitVec.ofNat 32 (max v r.tauMax.toNat) }
    else if off = 0x18 then { r with tauMax := BitVec.ofNat 32 (max v r.tauMin.toNat) }
    else r
  { s with recov := r }

/-! ## The start-up configuration image (R56, R483) -/

/-- The pools of a tile with the counts of the image, or the defaults where they do not fit (05 R155). -/
def poolsOf (counts : List Nat) : Tab Pool :=
  let n (k : Nat) : Nat := counts.getD k 0
  let total := (List.range 4).foldl (fun a k => a + n k * poolStride k) 0
  if counts.length ≠ 4 ∨ 33554432 < total then []
  else (List.range 4).foldl (fun t k =>
    tset (poolDefault k) t k
      { base := (List.range k).foldl (fun a i => a + n i * poolStride i) 0, count := n k }) []

/-- The calendars that the image loaded for tile t are in force, and its flow queues start with the tokens
that their reset_mode gives (06 R177, R182). -/
def startTile (t : Nat) (s : State) : State :=
  let ports := ((s.calSh.map (fun e => e.1 / 4096)).eraseDups).filter (fun p => tileOf p == t)
  let s := s.forEach ports (fun s p => s.modOutPort p (fun o => { o with cal := s.calOf p }))
  s.forEach ((s.fqCfg.map Prod.fst).filter (fun q => q / 4096 == t)) fqTokens

/-- The parts of the image that load registers and pools of tile t (R483, 05 R155). DEDUCED: log entry 155. -/
def loadTile (im : StartImage) (t : Nat) (s : State) : State :=
  let s := s.modTile t (fun x => { x with pools := match im.pools.find? (fun p => p.1 == t) with
    | some p => poolsOf p.2
    | none => [] })
  let ws := (im.words.filter (fun w => w.1 == t)).map Prod.snd
  let s := (s.forEach (ws.filter (fun w => s.isTileShadow t w.1)) (tileShadowWrite t)).modTile t (fun x =>
    { x with fm := { x.fm with shareRecords := s.pkg.partHist / 16 / 68 * 2 } })
  startTile t s

/-- The map of a lane die and its use; an invalid map is not loaded (03 R95, R96). -/
def loadLaneDie (s : State) (e : Nat × BitVec 16 × BitVec 16 × Bool) : State :=
  s.modLaneDie e.1 (fun d =>
    let good := mapValid e.2.1
    let m := if good then e.2.1 else d.startMap
    let en := if good then e.2.2.1 else d.enable
    { d with startMap := m, enable := en, pendStart := m, pendEnable := en, inUse := e.2.2.2 })

/-- Apply the body of a start-up configuration image at phase CONFIG. A wiring entry of the reserved mode 0b11 is
loaded as it stands (DESIGN CHOICE, log entry 210). -/
def applyImage (im : StartImage) (s : State) : State :=
  let s := (im.lanes.filter (fun e => decide (e.1 < 32))).foldl loadLaneDie s
  let s := s.forEach (im.wires.filter (fun w => decide (w.1 < 32 ∧ w.2.1 < 0x100))) (fun s w =>
    wireWrite w.1 s w.2)
  let s := s.forEach (im.credits.filter (fun c => decide (c.1 < 512 ∧ c.2.1 < 16))) (fun s c =>
    s.modPort c.1 (fun p => { p with initCredits := tset 0 p.initCredits c.2.1 (c.2.2 % 65536) }))
  let (a, b, r, h) := im.partitions
  let s := { s with
    pkg := { s.pkg with selfEp := im.selfEp, direct := im.direct, partA := a, partB := b, partRes := r, partHist := h }
    routing := { s.routing with
      slices := im.slices.foldl (fun (t : Tab SliceDesc) (e : Nat × List Byte) => tset {} t (e.1 % 256) (parseSlice e.2)) s.routing.slices
      sets := im.sets.foldl (fun (t : Tab RSet) (e : Nat × BitVec 8 × BitVec 512) =>
        tset {} t (e.1 % 4096) { members := e.2.2, slice := e.2.1, valid := true }) s.routing.sets
      routes := im.routes.foldl (fun (t : Tab W32) (e : Nat × W32) => tset 0 t (e.1 % 1048576) e.2) s.routing.routes } }
  let s := s.forEach (im.engines.filter (fun e => decide (e.1 < 64))) (fun s e =>
    remap e.1 (fun _ => { physX := e.2.1 ^^^ BitVec.ofNat 6 e.1, valid := e.2.2 }) s)
  let s := s.forEach (List.range 16) (fun s t => loadTile im t s)
  s.forEach im.recCtl (fun s w => recCtlWrite w.1 w.2.toNat s)

/-! ## Bring-up (R56) -/

/-- The bring-up has ended this row and no stop has come between. -/
def State.atRow (s : State) (r : Row) : Bool :=
  s.boot.row == r && !s.vent.inSafe && s.boot.phase != .bootHalt

/-- A row of the bring-up ends. -/
def rowDone (r : Row) (s : State) : State := { s with boot := { s.boot with row := r } }

/-- BRING_UP_START: time zero. TD and the image store dies behind it leave reset; TD runs on VT_OSC, its collector starts and it draws its nonce; a reset
that names no other cause was a power-on (R56, R58, 15 R472). DEDUCED: log entry 154. -/
def bringUpStart (s : State) : State :=
  if s.boot.row != .held || s.vent.inSafe then s
  else
    let (v, s) := drawMany 2 s
    let s := { s with
      pins := { s.pins with pwrOk := 0x1FF, pkgRstN := true }
      boot := { s.boot with cause := if s.boot.cause = 0 then 1 else s.boot.cause, zeroAt := s.now, phase := .rom }
      ftc := { s.ftc with count := 0, base := s.now }
      trust := { s.trust with nonce := BitVec.ofNat 128 v } }
    let s := s.forEach [2, 3] (fun s n => s.modDie n (fun d => { d with released := true }))
    rowDone .started (s.modDie dieTD (fun d => { d with released := true, present := true, heartbeatAt := s.now }))

/-- TD_PLL_LOCK: not while CREF0 has no valid clock (R56, R57). -/
def tdPllLock (s : State) : State :=
  if !s.atRow .started || (s.die dieTD).clockBad.contains clkCref0 then s
  else rowDone .pllLocked { s with boot := { s.boot with tdPll := true } }

/-- The clocks of a die that leaves reset rise by 64 steps (R39). DESIGN CHOICE: log entry 252. -/
def askClocks (d : Nat) (s : State) : State :=
  if (changeCharges .dieClock d).isEmpty then s
  else askFloat { change := .dieClock, up := true, die := d, unit := 9, raisedAt := s.now, steps := 64 } s

/-- DIES_RELEASED: the die resets are released, and the clocks of planes, tiles and Caldera dies rise through Float;
absent: the dies that do not answer on their management path (R56, 01 R32). The host site has none (01 R19). -/
def diesReleased (absent : List Nat) (s : State) : State :=
  if !s.atRow .imagesOk then s
  else
    let s := s.forEach (assignedDies.filter (fun n => decide (n ≠ 0 ∧ n ≠ dieTD))) (fun s n =>
      let there := !absent.contains n && n != 68
      s.modDie n (fun d =>
        { d with released := there && decide (n < 68), present := there, path := there && d.path, heartbeatAt := s.now }))
    let s := s.modDie 0 (fun d => { d with present := true })
    let s := s.forEach ((List.range 8).map diePlane ++ (List.range 16).map dieTile ++ (List.range 8).map dieCaldera)
      (fun s n => s.when (s.die n).released (askClocks n))
    rowDone .diesOut { s with boot := { s.boot with phase := .dies } }

/-- H_RST_N rises where it is low (R56, 01 R20). DESIGN CHOICE: log entry 156. -/
def hRstRise (s : State) : State :=
  if s.pins.hRstLow then { s with pins := { s.pins with hRstLow := false, hRstRoseAt := some s.now } } else s

/-- H_RST_N may rise: a warm package reset holds it low for at least 1 ms (R52). -/
def State.hRstMayRise (s : State) : Bool :=
  !s.pins.hRstLow || s.boot.cause != 3 || s.past s.boot.zeroAt 1000000

/-- CONFIG_APPLIED: copy A of the start-up configuration image where it verifies, else copy B, else the
defaults with every lane die unused (R56, R57, 15 R461). -/
def configApplied (s : State) : State :=
  if !s.atRow .recordsOk || !s.hRstMayRise then s
  else
    let copy := firstCopy s.configOk
    let s := copyFailed (copy != some false) s
    let s := match copy with
      | some b =>
        let len := fieldOf (s.flashRead b 0x9000000 4096) 12 4
        let body := s.flashRead b 0x9001000 len
        let s := { s with boot := { s.boot with config := body } }
        measure 8 (sha384 (s.flashRead b 0x9000000 128)) (applyImage (Config.startImage body) s)
      | none => measure 8 (zeros 48) { s with boot := { s.boot with defaultCfg := true } }
    rowDone .configOk (hRstRise { s with boot := { s.boot with phase := .config } })

/-- MEMORY_TRAINED: the GDDR7 devices are trained, but for the bad ones, and written to zero, or, under keep_mem,
re-entered from self-refresh without being written (R52); the memory keys are drawn, and each die's command rate rises through Float (R39, R56, 15
R462, 16 R480). -/
def memoryTrained (bad : List Nat) (s : State) : State :=
  if !s.atRow .configOk then s
  else
    let s := s.forEach (List.range 8) (fun s c => s.modCaldera c (fun x =>
      { x with parity := if s.boot.keepMem then x.parity else []
               accums := if s.boot.keepMem then x.accums else []
               mc := tupd {} x.mc (List.range 4) (fun d m =>
                 { m with trained := !bad.contains (4 * c + d), selfRefresh := false }) }))
    let s := generateMemoryKeys s
    let s := if s.boot.keepMem then s else { s with pkg := { s.pkg with history := [], zeroKey := s.trust.pkgKey } }
    let s := s.forEach (List.range 8) (fun s c =>
      askFloat { change := .pacing, up := true, die := dieCaldera c, unit := 0, raisedAt := s.now, steps := 16 } s)
    rowDone .memoryOk { s with boot := { s.boot with phase := .memory } }

/-- PHASE_READY: ownership claims are accepted, and THERM_N, released through bring-up, follows the thresholds (R56,
R58, 01 R26, R28). -/
def phaseReady (s : State) : State :=
  if !s.atRow .memoryOk then s
  else thermPin (rowDone .readyOk { s with boot := { s.boot with
    phase := .ready, bootMs := BitVec.ofNat 16 (min 65535 ((s.now - s.boot.zeroAt) / 1000000)) } })

/-! ## The commands -/

/-- PACKAGE_RESET (R52). -/
def execPackageReset (t : Nat) (pin : Bool) (s : State) : Out := runPin true t (packageResetBy pin) s

/-- BRING_UP_START (R56). -/
def execBringUpStart (t : Nat) (s : State) : Out := runPin true t bringUpStart s

/-- TD_PLL_LOCK (R56). -/
def execTdPllLock (t : Nat) (s : State) : Out := run true t tdPllLock s

/-- DIES_RELEASED (R56). -/
def execDiesReleased (t : Nat) (absent : List Nat) (s : State) : Out :=
  run (absent.all (fun n => assignedDies.contains n)) t (diesReleased absent) s

/-- CONFIG_APPLIED (R56). -/
def execConfigApplied (t : Nat) (s : State) : Out := run true t configApplied s

/-- MEMORY_TRAINED (R56). -/
def execMemoryTrained (t : Nat) (bad : List Nat) (s : State) : Out :=
  run (bad.all (fun m => decide (m < 32))) t (memoryTrained bad) s

/-- PHASE_READY (R56). -/
def execPhaseReady (t : Nat) (s : State) : Out := run true t phaseReady s

end Sys2Proof.Machine
end

