-- ==== Sys2Proof/Machine/Resets.lean ====
section
/-! DEFINITION. The owner's resets: TR_RESET_CTL, its checks, and what each kind of reset does when it starts
and when it completes (02 R50, R52 to R55, R483, 03 R96, 09 R280, R281). -/

namespace Sys2Proof.Machine

/-- Results of TR_RESET_STATUS (R55). -/
def rrDone : BitVec 4 := 1
def rrBusy : BitVec 4 := 2
def rrBadTarget : BitVec 4 := 3
def rrResidue : BitVec 4 := 4
def rrBadKind : BitVec 4 := 5

/-! ## The checks (R53, R54) -/

/-- The target fits its kind (R54, 03 R96). DEDUCED: log entry 58. -/
def State.resetFits (s : State) (kind die index : Nat) : Bool :=
  if kind = 3 then dieKind die == .tile || dieKind die == .plane || dieKind die == .caldera || dieKind die == .lane
  else if kind = 4 then dieKind die == .lane && mapValid (s.laneDie (die - 36)).pendStart
  else if kind = 5 then decide (index < 512) && die == 36 + laneDieOf index && s.startsPort index
  else if kind = 6 then dieKind die == .caldera && decide (index < 8)
  else true

/-- An open invocation has its record on Caldera die c or uses one of its engines. -/
def State.calderaActive (s : State) (c : Nat) : Bool :=
  s.invs.any (fun e => match e.2 with
    | some v => e.1 / 128 == c || v.engines.any (fun x => x / 8 == c)
    | none => false)

/-- The target of a die reset or an engine reset holds active work, and is neither isolated nor retired
(R53). DEDUCED: log entry 59. -/
def State.resetBusy (s : State) (kind die index : Nat) : Bool :=
  if kind = 3 then
    !(s.die die).isolated &&
    (match dieKind die with
     | .tile => ((List.range 32).map (fun j => 32 * (die - 4) + j)).any s.portEnabled
     | .plane => (s.plane (die - 20)).inService
     | .caldera => !(s.caldera (die - 28)).lost && s.calderaActive (die - 28)
     | .lane => ((List.range 16).map (fun j => 16 * (die - 36) + j)).any s.portEnabled
     | _ => false)
  else if kind = 6 then
    let e := 8 * (die - 28) + index
    (s.engine e).inService && !(s.die die).engIso.getLsbD index &&
      s.invs.any (fun i => match i.2 with
        | some v => v.engines.contains e
        | none => false)
  else false

/-- The first check that a request fails (R53), with R410 for the safe state and R456 for BOOT_HALT. -/
def State.resetRefused (s : State) (kind die index : Nat) : Option (BitVec 4) :=
  if kind = 0 ∨ 6 < kind then some rrBadKind
  else if !s.resetFits kind die index then some rrBadTarget
  else if s.boot.phase == .bootHalt || (s.vent.inSafe && kind != 1 && kind != 5) || s.resetBusy kind die index then
    some rrBusy
  else if kind = 6 ∧ s.ctrMap (8 * (die - 28) + index) ≠ 0 then some rrResidue
  else none

/-! ## Warm package reset and host-site reset (R52) -/

/-- What stays of IS0 or IS1, which a warm package reset does not reset: the die itself. What TD shows of it takes its
reset value (R52), and its sticky bits and isolations are cleared (13 R411). -/
def keepImageDie (x : Die) : Die :=
  { x with present := false, recOk := false, copyB := false, copiesDiffer := false, pufPresent := false
           pufMatch := false, tempValid := false, temp := 0, sensorBad := false
           sticky := 0, timers := [], isolated := false, engIso := 0, poolIso := 0, alertLow := false
           copyDiff := 0 }

/-- What keep_mem keeps of a Caldera die: the contents of its GDDR7 devices, in self-refresh (R52). -/
def keepMemory (c : Caldera) : Caldera :=
  { parity := c.parity, accums := c.accums
    mc := (List.range 4).foldl (fun t d => tset {} t d { selfRefresh := (tget ({} : MemCtl) c.mc d).trained }) [] }

/-- Warm package reset: every field of every die but IS0 and IS1 takes its reset value. GDDR7 is in
self-refresh with its contents under keep_mem; H_RST_N stays high under keep_host. TR_RESET_CTL shows its reset
value but for go, which reads 1 until the bring-up has ended (DEDUCED, log entry 132). DEDUCED: log entry 109.
DEDUCED: log entry 162. What drew current falls through Float (R38, R39). -/
def warmReset (keepMem keepHost : Bool) (s : State) : State :=
  let high := keepHost && !s.pins.hRstLow
  { State.reset with
    pending := s.pending, now := s.now, freeIx := s.freeIx, nextId := s.nextId, sent := s.sent
    pins := { pwrOk := s.pins.pwrOk, pkgRstN := s.pins.pkgRstN, hThermN := s.pins.hThermN
              tck := s.pins.tck, tms := s.pins.tms, tdi := s.pins.tdi, trstN := s.pins.trstN
              hRstLow := !high, hRstRoseAt := if high then s.pins.hRstRoseAt else none }
    boot := { cause := 3, zeroAt := s.now, keepMem := keepMem }
    rstCtl := { go := true, warm := true }
    rstStatus := s.rstStatus
    float := s.coolDown
    dies := [2, 3].foldl (fun t n => tset {} t n (keepImageDie (s.die n))) []
    calderas := if keepMem then (List.range 8).foldl (fun t c => tset {} t c (keepMemory (s.caldera c))) [] else []
    pkg := if keepMem then { history := s.pkg.history, zeroKey := s.pkg.zeroKey } else {}
    is0 := { s.is0 with busy := false }
    is1 := { s.is1 with busy := false } }

/-- Host-site reset: H_RST_N is low, and both host attach units, with the HA_ registers, are reset.
DEDUCED: log entry 161. -/
def hostSiteReset (s : State) : State :=
  { s with
    pins := { s.pins with hRstLow := true, hRstRoseAt := none }
    host := { failovers := s.host.failovers }, rings := [] }

/-! ## Dies (R52, R53, R483) -/

/-- Fabric port f is in reset: nothing of it is staged, in a latch or on the way, its credits are 2 (05 R141) and its
cells start with U(2f) again (05 R136; DESIGN CHOICE, log entry 227). What it has sent runs on at the other tiles
(05 R150). -/
def fabricPortReset (f : Nat) (s : State) : State :=
  let fb := s.fabric
  { s with fabric := { fb with
    slot := tset 0 fb.slot f 0
    credits := tdrop (f * 192) 192 fb.credits
    latches := fb.latches.filter (fun e => decide (e.1 / 24 % 24 ≠ f))
    returning := fb.returning.filter (fun e => decide (e.1 % 24 ≠ f))
    toPlane := tmap [] (fun _ l => l.filter (fun c => c.src != f)) fb.toPlane
    toPort := tset [] fb.toPort f []
    staged := tset [] fb.staged f []
    altUp := tdrop (f * 8) 8 fb.altUp } }

/-- Fabric port f comes out of reset: its own streams start at 0, the other tiles give up what is left of its earlier
packets, which counts as R150 has it, and it takes up the streams toward it where their sources stand
(DEDUCED, log entry 133). -/
def fabricPortStart (f : Nat) (s : State) : State :=
  let s := { s with fabric := { s.fabric with nextRel := tdrop (f * 192) 192 s.fabric.nextRel } }
  let s := s.forEach (List.range 16) (fun s o =>
    let left := (s.tile o).reasm.filter (fun r => r.src == f)
    let s := s.forEach left (fun s r =>
      (discardReasm o r s).modTile o (fun x => { x with reasmTimeout := satInc x.reasmTimeout }))
    s.modTile o (fun t =>
      { t with
        expect := tdrop (f * 8) 8 t.expect
        resolved := tdrop (f * 8) 8 t.resolved
        gaps := tdrop (f * 8) 8 t.gaps }))
  s.when (decide (f < 16)) (fun s => s.modTile f (fun t =>
    { t with expect := (List.range 192).foldl (fun e k =>
        tset 0 e k (if k / 8 = f then 0 else tget 0 s.fabric.nextRel ((k / 8 * 24 + f) * 8 + k % 8))) t.expect }))

/-- VT_LOCAL and the collector of a die start again (13 R414); what TR_DIE_STATUS shows is kept (R52).
DEDUCED: log entry 159. -/
def ventLocalReset (d : Nat) (s : State) : State :=
  let s := s.modDie d (fun x =>
    { released := x.released, inReset := x.inReset, path := x.path, present := x.present, recOk := x.recOk
      copyB := x.copyB, copiesDiffer := x.copiesDiffer, pufPresent := x.pufPresent, pufMatch := x.pufMatch
      tempValid := x.tempValid, temp := x.temp, sensorBad := x.sensorBad, heartbeatAt := s.now
      failedModules := x.failedModules })
  { s with vent := { s.vent with isolating := s.vent.isolating.filter (fun i => i.unit.die != d) } }

/-- The copies of the route state that other tiles hold: none in service clears it (R483). -/
def routeCopyFor (t : Nat) (s : State) : State :=
  let other := (List.range 16).any (fun u =>
    u != t && (s.die (dieTile u)).released && !(s.die (dieTile u)).inReset && !(s.die (dieTile u)).isolated)
  if other then s
  else { s with
    routing := {}
    copyPlans := []
    copyMap := (List.range 64).foldl (fun t k => tset ({} : EngMap) t k { physX := BitVec.ofNat 6 k, valid := false }) [] }

/-- What the reset of tile t takes away at its start: every register, queue, pool and table of the tile, the keys of its
ports, and the pending values with the commits that wait for them (R483, 15 R467, 16 R481). Failover comes first where it carries the active unit (12 R355). -/
def tileReset (t : Nat) (s : State) : State :=
  let s := if s.activeTile == dieTile t then failoverTo 2 true s else s
  let lo := 32 * t
  let s := { s with
    tiles := tset {} s.tiles t { planesOut := (List.range 8).foldl (fun v p => setBit v p (!(s.plane p).inService)) 0 }
    portCfg := tdrop lo 32 s.portCfg
    keys := tdrop lo 32 s.keys
    hodPort := tdrop lo 32 s.hodPort
    sched := tdrop lo 32 s.sched
    out := tdrop lo 32 s.out
    pktCnt := tdrop lo 32 s.pktCnt
    portCnt := tdrop lo 32 s.portCnt
    calSh := tdrop (lo * 4096) (32 * 4096) s.calSh
    fqCfg := tdrop (4096 * t) 4096 s.fqCfg
    fqRun := tdrop (4096 * t) 4096 s.fqRun
    inPkts := s.inPkts.filter (fun e => match e.2 with
      | some p => tileOf p.port != t
      | none => true)
    jobs := s.jobs.filter (fun j => match j.src with
      | .commit _ u _ => u != t
      | _ => true) }
  let s := s.forEach ((List.range 32).map (fun j => lo + j)) (fun s p =>
    s.modPort p (fun x => { x with pairs := tmap {} (fun _ c => { c with held := [], rxPkt := none }) x.pairs }))
  routeCopyFor t (fabricPortReset t s)

/-- What the reset of Caldera die c takes away at its start (09 R281). -/
def calderaReset (c : Nat) (s : State) : State :=
  let s := calderaLoss c s
  let s := fabricPortReset (16 + c) s
  { s with
    calderas := tset {} s.calderas c { lost := true, pacing := (s.caldera c).pacing }
    counters := tdrop (384 * c) 384 s.counters
    signals := s.signals.filter (fun k => decide (k / 384 ≠ c))
    engines := (List.range 8).foldl (fun t e =>
      tset {} t (8 * c + e) { inService := false, running := (s.engine (8 * c + e)).running }) s.engines }

/-- The requests of a die that charges clock steps are withdrawn; its admission, its engines and its memory pacing
come down through the fall buckets, and then its clocks fall and rise by 64 steps each (R38, R39). DESIGN CHOICE: log
entry 252. -/
def dieClocks (d : Nat) (s : State) : State :=
  if (changeCharges .dieClock d).isEmpty then s
  else
    let s := { s with float := { s.float with waiting := s.float.waiting.filter (fun x => x.past || x.die != d) } }
    let s := match dieKind d with
      | .tile => askAdmissionFall (d - 4) s
      | .caldera => askPacingFall (d - 28) (askStops ((List.range 8).map (fun e => 8 * (d - 28) + e)) s)
      | _ => s
    let x : FloatReq := { change := .dieClock, up := false, die := d, unit := 8, raisedAt := s.now, steps := 64 }
    askFloat { x with up := true, unit := 9 } (askFloat x s)

/-- A die reset starts (R53). -/
def startDieReset (d : Nat) (s : State) : State :=
  let s := match dieKind d with
    | .tile => tileReset (d - 4) s
    | .plane =>
      let p := d - 20
      { s.modPlane p (fun x => { x with rejoinRefused := false, rejoining := false, slot := 0 }) with
        fabric := { s.fabric with altDown := tdrop (p * 24) 24 s.fabric.altDown } }
    | .caldera => calderaReset (d - 28) s
    | .lane =>
      let n := d - 36
      (clearLaneDie n false s).modLaneDie n (fun x => { inUse := x.inUse, failed := x.failed })
    | _ => s
  dieClocks d ((ventLocalReset d s).modDie d (fun x => { x with inReset := true }))

/-- A die reset ends: the die leaves reset, a tile with its configuration loaded again, a Caldera die with
every engine a spare (R483, 05 R152, 09 R281). DEDUCED: log entry 157. -/
def endDieReset (d : Nat) (s : State) : State :=
  let s := s.modDie d (fun x => { x with inReset := false, heartbeatAt := s.now, ftcOffset := 0 })
  match dieKind d with
  | .tile =>
    let s := fabricPortStart (d - 4) s
    if s.boot.defaultCfg then s else loadTile (Config.startImage s.boot.config) (d - 4) s
  | .plane => s.modPlane (d - 20) (fun p => { p with resetSince := !p.inService })
  | .caldera =>
    let c := d - 28
    let s := fabricPortStart (16 + c) (s.modCaldera c (fun x => { x with lost := false }))
    { s with engines := tdrop (8 * c) 8 s.engines }
  | _ => s

/-! ## Engines (09 R280) -/

/-- An engine reset starts: the engine is lost. -/
def startEngineReset (e : Nat) (s : State) : State :=
  askStops [e] ((engineLoss e s).modEngine e (fun x => { x with inReset := true }))

/-- An engine reset ends: the engine is back, a spare, with its counts cleared (07 R225, 09 R293, R296); one of a lost
die stays out of service (09 R281). -/
def endEngineReset (e : Nat) (s : State) : State :=
  let s := s.modEngine e (fun x => { inService := !(s.caldera (e / 8)).lost, running := x.running })
  let s := s.modCaldera (e / 8) (fun c => { c with intake := tset {} c.intake (e % 8) {} })
  s.modDie (dieCaldera (e / 8)) (fun d => { d with engIso := setBit d.engIso (e % 8) false })

/-! ## Requests (R54) and their end (R55) -/

/-- The reset of a request that passed its checks starts. -/
def startReset (kind die index : Nat) (keepMem keepHost : Bool) (s : State) : State :=
  let s := { s with
    rstCtl := { s.rstCtl with go := true }
    rstStatus := { s.rstStatus with startedAt := s.now } }
  if kind = 1 then
    if s.vent.inSafe && !s.vent.recordWritten then { s with vent := { s.vent with warmWaits := true } }
    else warmReset keepMem keepHost s
  else if kind = 2 then hostSiteReset s
  else if kind = 3 then startDieReset die s
  else if kind = 4 then portGroupReset (die - 36) s
  else if kind = 5 then portReset index s
  else startEngineReset (8 * (die - 28) + index) s

/-- TR_RESET_CTL written with go by master m (R54): a request while one is in progress is dropped, and the
first check that fails gives the result. -/
def resetWrite (m kind : Nat) (keepMem keepHost : Bool) (die index : Nat) (s : State) : State :=
  s.ownerWrite m (fun s =>
    if s.rstCtl.go then ({ s with rstStatus := { s.rstStatus with dropped := true } }).hwSet wbReset
    else
      let s := { s with rstCtl :=
        { kind := BitVec.ofNat 4 kind, keepMem := keepMem, keepHost := keepHost, die := BitVec.ofNat 8 die
          index := BitVec.ofNat 9 index } }
      match s.resetRefused kind die index with
      | some r => { s with rstStatus := { s.rstStatus with result := r } }
      | none => startReset kind die index keepMem keepHost s)

/-- The reset in progress has done its work. DEDUCED: log entry 184. -/
def State.resetReady (s : State) : Bool :=
  let c := s.rstCtl
  c.go && !s.vent.warmWaits &&
  (if c.warm then s.boot.row == .readyOk
   else if c.kind = 2 then s.past s.rstStatus.startedAt 1000000
   else if c.kind = 4 then (s.laneDie (c.die.toNat - 36)).resetPorts.isNone
   else if c.kind = 3 then !s.float.waiting.any (fun x => x.die == c.die.toNat)
   else if c.kind = 6 then !s.float.waiting.any (fun x =>
     x.change == .engine && x.die == c.die.toNat && x.unit == c.index.toNat)
   else true)

/-- RESET_COMPLETE (R55). -/
def resetComplete (s : State) : State :=
  if !s.resetReady then s
  else
    let c := s.rstCtl
    let s :=
      if c.warm then s
      else if c.kind = 2 then hRstRise s
      else if c.kind = 3 then endDieReset c.die.toNat s
      else if c.kind = 6 then endEngineReset (8 * (c.die.toNat - 28) + c.index.toNat) s
      else s
    { s with
      rstCtl := { s.rstCtl with go := false, warm := false }
      rstStatus := { s.rstStatus with
        result := rrDone, elapsedUs := BitVec.ofNat 16 (min 65535 ((s.now - s.rstStatus.startedAt) / 1000)) } }

/-- PORT_CTL op WIDTH: the map into LN_PORT_MAP_PEND, then a port-group reset, which TR_RESET_STATUS does not
show (12 R366, DEDUCED, log entry 134). -/
def portCtlWidth (s : State) : State :=
  s.runJob dkPortCtl 4 (fun j s =>
    let p := fieldOf j.desc 8 2
    if !s.startsPort p then (St.badTarget, 0, [], s)
    else
      let n := laneDieOf p
      let map := fieldOf j.desc 12 4
      let s := s.modLaneDie n (fun d =>
        { d with pendStart := BitVec.ofNat 16 map, pendEnable := BitVec.ofNat 16 (map / 65536) })
      match s.resetRefused 4 (dieLane n) 0 with
      | some r => (if r = rrBadTarget then St.badTarget else St.busy, 0, [], s)
      | none => (St.ok, 0, [], portGroupReset n s))

/-! ## The commands -/

/-- WARM_PACKAGE_RESET (R52). -/
def execWarmPackageReset (t m : Nat) (keepMem keepHost : Bool) (s : State) : Out :=
  run (isMaster m) t (onPath m (resetWrite m 1 keepMem keepHost 0 0)) s

/-- HOST_SITE_RESET (R52). -/
def execHostSiteReset (t m : Nat) (s : State) : Out := run (isMaster m) t (onPath m (resetWrite m 2 false false 0 0)) s

/-- DIE_RESET (R53). -/
def execDieReset (t m die : Nat) (s : State) : Out :=
  run (isMaster m && decide (die < 256)) t (onPath m (resetWrite m 3 false false die 0)) s

/-- PORT_GROUP_RESET (03 R96). -/
def execPortGroupReset (t m die : Nat) (s : State) : Out :=
  run (isMaster m && decide (die < 256)) t (onPath m (resetWrite m 4 false false die 0)) s

/-- PORT_RESET (R52). -/
def execPortReset (t m die index : Nat) (s : State) : Out :=
  run (isMaster m && decide (die < 256) && decide (index < 512)) t (onPath m (resetWrite m 5 false false die index)) s

/-- ENGINE_RESET (R53). -/
def execEngineReset (t m die index : Nat) (s : State) : Out :=
  run (isMaster m && decide (die < 256) && decide (index < 512)) t (onPath m (resetWrite m 6 false false die index)) s

/-- RESET_COMPLETE (R55). -/
def execResetComplete (t : Nat) (s : State) : Out := run true t (onHub resetComplete) s

/-- PORT_CTL_WIDTH (12 R366). -/
def execPortCtlWidth (t : Nat) (s : State) : Out := run true t portCtlWidth s

end Sys2Proof.Machine
end

