-- ==== Sys2Proof/Machine/Sense.lean ====
section
/-! DEFINITION. What the package senses: power inputs, clocks, temperatures and H_THERM_N; and the safe record
(01 R26, R28, R33, 02 R37, R51, R57, 13 R401, R412). -/

namespace Sys2Proof.Machine

/-! ## Clocks (02 R51) -/

/-- The FTC of TD stands while CREF1 or its own clock is lost, and runs on when it is back (R51). -/
def ftcClock (bad : List Nat) (s : State) : State :=
  let lost := bad.contains clkCref1 || bad.contains 18
  if lost == s.ftc.stopped then s
  else
    let s := s.ftcRebase
    { s with ftc := { s.ftc with stopped := lost } }

/-- The ports of lane die n stay down without a valid reference (01 R25, 03 R99). -/
def referenceLost (n : Nat) (s : State) : State :=
  let ports := ((List.range 16).map (fun i => 16 * n + i)).filter s.startsPort
  s.forEach ports (fun s p => portOff p .noRefclk s)

/-- The clocks of a lane die that come from LREF: LN_TX, LN_RX, LN_PCS and LREF itself (02 R48). -/
def lrefClocks : List Nat := [10, 11, 12, clkRef]

/-- CLOCK_CHECK_WINDOW of a die: bad, the numbers of its clocks that are absent or more than 40 % off (R48,
with clkRef, clkCref0 and clkCref1 for the references). The collector of every die counts; an LREF that an unused
lane die may leave unconnected (01 R25) is no fault of it.
DESIGN CHOICE: log entry 152. DEDUCED: log entry 178. parity: a configuration register of the die fails its parity,
which is reported only (13 R391; DESIGN CHOICE: log entry 249). -/
def clockCheck (d : Nat) (bad : List Nat) (parity : Bool) (s : State) : State :=
  if !s.collects d then s
  else
    let unused := dieKind d == .lane && !(s.laneDie (d - 36)).inUse
    let bad := if unused then bad.filter (fun k => !lrefClocks.contains k) else bad
    let s := s.modDie d (fun x => { x with clockBad := bad })
    let s := if bad.isEmpty then s else s.raise d srcClkLoss
    let s := if parity then s.raise d srcCfgParity else s
    if d = dieTD then ftcClock bad s
    else if dieKind d == .lane && bad.contains clkRef then referenceLost (d - 36) s
    else s

/-! ## Temperatures (01 R28, R33) -/

/-- One reading taken: the temperature in sixteenths of a degree, or none where the sensor cannot be read. -/
def takeReading (s : State) (r : Nat × Option Int) : State :=
  s.modDie r.1 (fun d =>
    match r.2 with
    | some v => { d with temp := BitVec.ofInt 12 v, tempValid := true, sensorBad := false }
    | none => { d with tempValid := false, sensorBad := true })

/-- THERMAL_SAMPLE: TD reads the sensors named and applies the thresholds (R28). -/
def thermalSample (readings : List (Nat × Option Int)) (s : State) : State :=
  let r := s.boot.row
  if r == .held || r == .started || r == .pllLocked || r == .imagesOk then s
  else
    let s := readings.foldl takeReading s
    let s := if s.someAt (105 * 16) then s.raise dieTD srcThermHigh else s
    let s := if readings.any (fun r => r.2.isNone) then s.raise dieTD srcThermSensor else s
    let s := if s.someAt (115 * 16) then raiseNow dieTD srcThermTrip s else s
    thermPin s

/-- H_THERM_N_CHANGE (R18, R28). -/
def hThermChange (low : Bool) (s : State) : State :=
  thermPin { s with pins := { s.pins with hThermN := !low } }

/-! ## The safe record (13 R411, R412) -/

/-- SAFE_RECORD_WRITE: the record is appended, and a warm package reset that waits for it starts. badA, badB: copy A or B
does not read back. -/
def safeRecordWrite (badA badB : Bool) (s : State) : State :=
  if !s.vent.inSafe || s.vent.recordWritten then s
  else
    let s := writeSafeRecord badA badB s
    if s.vent.warmWaits then warmReset s.rstCtl.keepMem s.rstCtl.keepHost s else s

/-! ## The commands -/

/-- CLOCK_CHECK_WINDOW (R51). -/
def execClockCheckWindow (t d : Nat) (bad : List Nat) (s : State) (parity : Bool := false) : Out :=
  run (dieKind d != .none && bad.all (fun k => decide (1 ≤ k ∧ k ≤ 27))) t (clockCheck d bad parity) s

/-- THERMAL_SAMPLE (R28). -/
def execThermalSample (t : Nat) (readings : List (Nat × Option Int)) (s : State) : Out :=
  run (readings.all (fun r => hasSensor r.1 && (match r.2 with
    | some v => decide (-2048 ≤ v ∧ v < 2048)
    | none => true))) t (thermalSample readings) s

/-- H_THERM_N_CHANGE (R28). -/
def execHThermNChange (t : Nat) (low : Bool) (s : State) : Out := runPin true t (hThermChange low) s

/-- SAFE_RECORD_WRITE (R412). -/
def execSafeRecordWrite (t : Nat) (s : State) (badA badB : Bool := false) : Out :=
  run true t (safeRecordWrite badA badB) s

end Sys2Proof.Machine
end

