-- ==== Sys2Proof/Machine/RegRead.lean ====
section
/-! DEFINITION. What the words of the register map read as, window by window (16 R473 to R482), and a read by
a master with its own effects (06 R187, 11 R343, 16 R475). -/

namespace Sys2Proof.Machine

/-! ## Tools -/

/-- A field of width w at bit lo. -/
def fld (v lo w : Nat) : Nat := v % 2 ^ w * 2 ^ lo

/-- A one-bit field. -/
def fbit (b : Bool) (lo : Nat) : Nat := b2n b * 2 ^ lo

/-- Word i of a wide value. -/
def wordOf (v i : Nat) : Nat := bitsOf v (32 * i) 32

/-- Offset o lies in a table of n entries of a stride from base on: the entry and the offset inside it. -/
def inTable (base stride n o : Nat) : Option (Nat × Nat) :=
  if base ≤ o ∧ o < base + stride * n then some ((o - base) / stride, (o - base) % stride) else none

/-- The word of a byte string at an offset. -/
def byteWord (bs : List Byte) (o : Nat) : Nat := fieldOf bs o 4

/-! ## VT_LOCAL (13 R414) -/

/-- Word r of VT_LOCAL of die d. DEDUCED: log entry 144. -/
def State.readVt (s : State) (d r : Nat) : Nat :=
  let x := s.die d
  let enables (lo : Nat) : Nat := (List.range 32).foldl (fun v i => v + fbit (s.sourceEnabled d (lo + i)) i) 0
  let runs (lo : Nat) : Nat := (List.range 32).foldl (fun v i => v + fbit (tget none x.timers (lo + i)).isSome i) 0
  if r = 0 then wordOf x.sticky.toNat 0
  else if r = 4 then wordOf x.sticky.toNat 1
  else if r = 8 then enables 0
  else if r = 0xC then enables 32
  else if r = 0x10 then runs 0
  else if r = 0x14 then runs 32
  else if r = 0x18 then
    fbit x.isolated 0 + fbit (s.vent.isolating.any (fun i => i.unit.die == d)) 1 + fld x.engIso.toNat 8 8 +
      fld x.poolIso.toNat 16 4
  else if r = 0x30 then x.symCe.toNat
  else if r = 0x34 then x.symUe.toNat
  else if r = 0x38 then x.residueErr.toNat
  else if r = 0x3C then x.skimPasses.toNat
  else if r = 0x40 then x.aux0.toNat
  else if r = 0x44 then x.aux1.toNat
  else 0

/-! ## The package window -/

/-- PK_IDENT (16 R476). -/
def State.readIdent (s : State) (o : Nat) : Nat :=
  if s.pkg.orderCode.isEmpty then (if o = 0x18 then 0x100 else 0)
  else if o < 0x10 then byteWord s.pkg.orderCode o
  else if o = 0x10 then wordOf s.pkg.serial.toNat 0
  else if o = 0x14 then wordOf s.pkg.serial.toNat 1
  else if o = 0x18 then s.pkg.variant.toNat + 0x100
  else s.boot.fwBuild.toNat

/-- PK_FLOAT_STATUS (16 R478). DESIGN CHOICE: log entry 164. -/
def State.readFloat (s : State) (o : Nat) : Nat :=
  let f := s.float
  let waits (up : Bool) (k : Nat) : Bool :=
    f.waiting.any (fun x => x.up == up && (changeCharges x.change x.die).any (fun e => e.1 == k)) ||
      (up && k == rgCoreC && !f.starts.isEmpty)
  if o = 0 then
    (List.range 9).foldl (fun v k => v + fbit (waits true k) k + fbit (waits false k) (9 + k)) 0
  else if o = 4 then min 65535 (f.waiting.foldl (fun n x => n + x.steps) f.starts.length)
  else if o = 8 then f.maxWait.toNat
  else if o = 0xC then f.engineStarts.toNat
  else 0

/-- Milliseconds left of a limit that began at a moment, the last one begun counting whole (DEDUCED, log entry 136). -/
def State.msLeft (s : State) (since limit : Nat) : Nat := (since + limit - s.now + 999999) / 1000000

/-- Ownership registers of master m (12 R388, R389). -/
def State.readOwn (s : State) (m o : Nat) : Nat :=
  let x := s.master m
  if o = 0x1000 then wordOf x.nonce.toNat 0
  else if o = 0x1004 then wordOf x.nonce.toNat 1
  else if o = 0x1008 then x.priority.toNat + fld x.claimResult.toNat 8 3
  else if o = 0x100C then x.refused.toNat
  else if o = 0x1010 then
    s.own.owner % 256 + fld s.own.priority.toNat 8 8 + fbit s.own.windowAt.isSome 16
  else if o = 0x1020 then if s.own.owner = 0 then 0 else fld (s.msLeft s.own.leaseAt 1000000000) 0 11
  else if o = 0x1030 then
    match s.own.successor with
    | some (x, a) => x % 256 + fld (s.msLeft a 1000000000) 8 10
    | none => 0
  else 0

/-- PK_FTC_CTL (11 R344), by the offset in the register. -/
def State.readFtcCtl (s : State) (o : Nat) : Nat :=
  let f := s.ftc
  if o = 0 then
    fbit f.root 0 + fbit f.syncEn 1 + fbit f.loadPending 2 + fld f.hopMax.toNat 8 8 + fld f.holdoverMs.toNat 16 16
  else if o = 4 then f.stepNs.toNat + fld f.launchMax.toNat 20 12
  else if o = 8 then wordOf f.expectRoot.toNat 0
  else if o = 0xC then wordOf f.expectRoot.toNat 1
  else if o = 0x10 then wordOf f.loadValue.toNat 0
  else if o = 0x14 then wordOf f.loadValue.toNat 1
  else if o = 0x18 then f.syncPeriod.toNat
  else 0

def FtcState.code : FtcState → Nat
  | .free => 0 | .acquire => 1 | .locked => 2 | .holdover => 3 | .root => 4

/-- PK_FTC_STATUS (11 R345). DEDUCED: log entry 177. -/
def State.readFtcStatus (s : State) (o : Nat) : Nat :=
  let f := s.ftc
  if o = 0 then f.state.code + fbit s.rootConflict 3 + fld f.shownSource.toNat 8 9 + fld f.hops.toNat 24 8
  else if o = 4 then f.thetaPs.toNat
  else if o = 8 then fieldOfInt 32 (roundDiv (f.rate * 1000000000) (2 ^ 32))
  else if o = 0xC then wordOf f.rootId.toNat 0
  else if o = 0x10 then wordOf f.rootId.toNat 1
  else if o = 0x14 then f.steps.toNat
  else if o = 0x18 then f.syncBad.toNat
  else 0

/-- PK_REC_CTL (14 R444). -/
def State.readRecCtl (s : State) (o : Nat) : Nat :=
  let r := s.recov
  if o = 0 then r.parityEp.toNat + fld r.buddyEp.toNat 16 16
  else if o = 4 then r.mirrorSrc.toNat + fld r.recSlice.toNat 16 8 + fbit r.autoRebuild 24
  else if o = 8 then r.failHoldMs.toNat + fld r.hbMs.toNat 16 16
  else if o = 0xC then r.lambdaH.toNat
  else if o = 0x10 then r.feedMs.toNat
  else if o = 0x14 then r.tauMin.toNat
  else if o = 0x18 then r.tauMax.toNat
  else 0

/-- PK_REC_STATUS (14 R445). -/
def State.readRecStatus (s : State) (o : Nat) : Nat :=
  let r := s.recov
  if o = 0 then r.tauMs % 2 ^ 32
  else if o = 4 then r.foldMs % 2 ^ 32
  else if o = 8 then r.fails % 2 ^ 16 + fbit r.buddySilent 16
  else if o = 0xC then r.foldBad.toNat
  else if o = 0x10 then r.foldStale.toNat
  else if o = 0x14 then r.ledgerSeq.toNat
  else if o = 0x18 then r.mirrorSeq.toNat
  else if o = 0x1C then r.mirrorGaps.toNat
  else 0

/-- PK_PGROUP[g] (14 R446). -/
def State.readPgroup (s : State) (g o : Nat) : Nat :=
  let p := s.pgroup g
  if o = 0 then
    fbit p.defined 0 + fld p.epochA.state.code 1 2 + fld p.epochB.state.code 3 2 + fld p.epochA.seq.toNat 8 8 +
      fld p.epochB.seq.toNat 16 8 + fld p.slice.toNat 24 8
  else if o = 4 then fld p.members.length 0 7
  else if o = 8 then p.blocks % 2 ^ 32
  else if o = 0xC then p.epochA.live.toNat + fld p.epochB.live.toNat 8 8
  else if o = 0x10 then p.epochA.full % 2 ^ 32
  else if o = 0x14 then p.epochB.full % 2 ^ 32
  else if o = 0x18 then wordOf p.failed.toNat 0
  else if o = 0x1C then wordOf p.failed.toNat 1
  else 0

/-- PK_REBUILD[k] (14 R447). -/
def State.readRebuild (s : State) (k o : Nat) : Nat :=
  let r := s.rebuild k
  if o = 0 then
    fbit r.active 0 + fld r.pgroup 1 4 + fld r.member 5 6 + fbit r.epochB 11 + fld r.spareEp.toNat 16 16
  else if o = 4 then r.windowFirst % 2 ^ 32
  else if o = 8 then r.blocksSent.toNat
  else if o = 0xC then r.blocksBad.toNat
  else if o = 0x10 then r.status.toNat + fld r.detail.toNat 8 8 + fld r.restarts.toNat 16 16
  else 0

/-- One entry of PK_CTR_XLAT, 16 bits (10 R320). -/
def State.readXlat (s : State) (k : Nat) : Nat :=
  if s.pkg.direct then 0
  else
    let x := s.xl k
    x.index.toNat + fld x.engine.toNat 6 6 + fbit x.valid 15

/-- PK_STAGE: its master and the offset in it (12 R390). -/
def stageOf (o : Nat) : Option (Nat × Nat) :=
  if 0x200000 ≤ o ∧ o < 0x210000 then some (mBmc, o - 0x200000)
  else if 0x210000 ≤ o ∧ o < 0x250000 then some (mRemote ((o - 0x210000) / 0x10000), o % 0x10000)
  else none

/-- A word of the package window, read by master m. -/
def State.readPk (s : State) (m o : Nat) : Nat :=
  let x := s.master m
  if o < 0x20 then s.readIdent o
  else if o < 0x200 then (match inTable 0x100 0x10 1 o with
    | some (_, r) => s.readFloat r
    | none => 0)
  else if o = 0x200 then
    fbit x.unreachable 0 + fbit x.badAccess 1 + fld x.accDie.toNat 8 8 + fld x.accCount.toNat 16 16
  else if o < 0x1100 then s.readOwn m o
  else if o = 0x1100 then
    let h := s.host
    fbit h.attachFailed 0 + fbit h.unitB 1 + fbit h.aTrained 2 + fbit h.bTrained 3 + fbit h.halfRate 4 +
      fbit h.cacheOn 5 + fld h.failovers.toNat 16 16
  else if o < 0x1200 then 0
  else if o < 0x1240 then leNat (memRead 0 x.mboxDesc (o - 0x1200) 4)
  else if o < 0x1280 then leNat (memRead 0 x.mboxCmpl (o - 0x1240) 4)
  else if o = 0x1280 then fbit x.mboxBusy 1 + fbit x.mboxDropped 2
  else if o < 0x2000 then 0
  else if o < 0x2100 then
    let k := (o - 0x2000) / 4
    let e := s.emap k
    (e.physX ^^^ BitVec.ofNat 6 k).toNat + fbit e.valid 6 + fbit e.auto 7
  else if o = 0x2100 then fbit s.pkg.mapDropped 0
  else if o = 0x2200 then fbit s.pkg.direct 0
  else if o = 0x2204 then fbit s.pkg.xlatDropped 0
  else if o = 0x2800 then wordOf s.ftcNow 0
  else if o = 0x2804 then s.ftc.latched.toNat
  else if 0x2810 ≤ o ∧ o < 0x282C then s.readFtcCtl (o - 0x2810)
  else if 0x2840 ≤ o ∧ o < 0x285C then s.readFtcStatus (o - 0x2840)
  else if o = 0x2900 then fbit (s.ftc.detPending.getD s.ftc.detStrict) 0
  else if o = 0x29FC then fbit s.ftc.detPending.isSome 1
  else if o = 0x2A00 then s.ftc.launchLate.toNat
  else if o = 0x2A04 then s.ftc.launchMismatch.toNat
  else if o = 0x2A08 then s.ftc.launchFar.toNat
  else if 0x3000 ≤ o ∧ o < 0x3400 then (tget (0 : Cnt) s.ndetSlice ((o - 0x3000) / 4)).toNat
  else if 0x4000 ≤ o ∧ o < 0x401C then s.readRecCtl (o - 0x4000)
  else if 0x4100 ≤ o ∧ o < 0x4120 then s.readRecStatus (o - 0x4100)
  else if 0x4200 ≤ o ∧ o < 0x4400 then s.readPgroup ((o - 0x4200) / 0x20) (o % 0x20)
  else if 0x4400 ≤ o ∧ o < 0x4480 then s.readRebuild ((o - 0x4400) / 0x20) (o % 0x20)
  else if 0x4500 ≤ o ∧ o < 0x4520 then
    let p := s.spare ((o - 0x4500) / 4)
    p.ep.toNat + fbit p.valid 16 + fbit p.inUse 17 + fbit p.failed 18
  else if 0x30000 ≤ o ∧ o < 0x38000 then
    let sl := (o - 0x30000) / 0x80
    let v := o % 0x80 / 2
    if v < 48 then s.readXlat (48 * sl + v) + 65536 * s.readXlat (48 * sl + v + 1) else 0
  else if 0x40000 ≤ o ∧ o < 0x50000 then byteWord (tget [] s.recov.ledger ((o - 0x40000) / 0x40)) (o % 0x40)
  else if 0x50000 ≤ o ∧ o < 0x60000 then byteWord (tget [] s.recov.mirror ((o - 0x50000) / 0x40)) (o % 0x40)
  else match stageOf o with
    | some (k, a) => if k = m then leNat (memRead 0 x.stage a 4) else 0
    | none => 0

/-! ## TD and the image store -/

def Phase.code : Phase → Nat
  | .rom => 1 | .images => 2 | .dies => 3 | .config => 4 | .memory => 5 | .ready => 6 | .safe => 0xE | .bootHalt => 0xF

/-- A word of the TD window. DEDUCED: log entry 180. -/
def State.readTr (s : State) (o : Nat) : Nat :=
  let u := s.trust.upd
  let c := s.rstCtl
  let v := s.vent
  let left := 2 ^ 40 - s.trust.lmsNext
  if o = 0x7C00 then
    u.op.toNat + fbit u.copyB 4 + fld u.region.toNat 5 5 + fbit u.go 31
  else if o = 0x7C04 then u.offset.toNat
  else if o = 0x7C08 then u.length.toNat
  else if o = 0x7C0C then u.result.toNat
  else if 0x7D00 ≤ o ∧ o < 0x7D10 then wordOf s.trust.nonce.toNat ((o - 0x7D00) / 4)
  else if o = 0x7D10 then fld s.trust.scope.toNat 1 3 + fld s.trust.debugResult.toNat 4 4
  else if o = 0x7D40 then fbit s.trust.identityOk 0 + fbit s.trust.lmsOk 1 + fld (s.trust.sessions.filter (fun x => x.opened)).length 2 4
  else if o = 0x7D44 then if s.trust.lmsOk then wordOf left 0 else 0
  else if o = 0x7D48 then if s.trust.lmsOk then bitsOf left 32 8 else 0
  else if o = 0x7D4C then s.trust.mgmtAuthFail.toNat
  else if o = 0x7E00 then
    c.kind.toNat + fbit c.keepMem 4 + fbit c.keepHost 5 + fld c.die.toNat 8 8 + fld c.index.toNat 16 9 + fbit c.go 31
  else if o = 0x7E04 then
    s.rstStatus.result.toNat + fbit s.rstStatus.dropped 4 + fld s.rstStatus.elapsedUs.toNat 16 16
  else if o = 0x7E08 then
    s.boot.phase.code + fld s.boot.cause.toNat 4 4 + fbit s.boot.imageB 8 + fbit s.boot.defaultCfg 9 +
      fld s.boot.bootMs.toNat 16 16
  else if o = 0x7F00 then s.therm.assertC.toNat
  else if 0x8000 ≤ o ∧ o < 0x81A0 then
    let d := s.die ((o - 0x8000) / 4)
    fbit d.present 0 + fbit d.recOk 1 + fbit d.copyB 2 + fbit d.copiesDiffer 3 + fbit d.pufPresent 4 +
      fbit d.pufMatch 5 + fbit d.tempValid 6 + fld d.temp.toNat 16 12
  else if 0x9000 ≤ o ∧ o < 0x900C then wordOf s.stickyDies.toNat ((o - 0x9000) / 4)
  else if o = 0x9100 then v.windowUs.toNat
  else if o = 0x9104 then v.isoUs.toNat
  else if o = 0x9200 then
    fbit v.inSafe 0 + fld v.cause.toNat 4 4 + fld v.die.toNat 8 8 + fld v.source.toNat 16 6 + fbit v.recordWritten 22
  else if o = 0x9204 then s.logHead % 256
  else if 0xE000 ≤ o ∧ o < 0xE048 then s.readVt dieTD (o - 0xE000)
  else if 0x100000 ≤ o ∧ o < 0x168000 then
    let n := (o - 0x100000) / 0x1000
    let d := s.die n
    if d.recOk then leNat (s.flashRead d.copyB (recordAt n + o % 0x1000) 4) else 0
  else if 0x170000 ≤ o ∧ o < 0x174000 then leNat (s.flashRead false (0x10000 + (o - 0x170000)) 4)
  else if 0x200000 ≤ o ∧ o < 0x300000 then leNat (memRead 0 s.trust.staging (o - 0x200000) 4)
  else 0

/-- A word of the window of an image store die (16 R479). -/
def State.readIs (s : State) (d o : Nat) : Nat :=
  let x := if d = 2 then s.is0 else s.is1
  if o = 0 then fbit x.ready 0 + fbit x.busy 1
  else if o = 4 then x.progErrors.toNat
  else if o = 8 then x.maxErase.toNat
  else if 0xE000 ≤ o ∧ o < 0xE048 then s.readVt d (o - 0xE000)
  else 0

/-! ## Tiles -/

/-- The words of the tile's shadowed group in a state: the pending values in State.shadowTile (00 R8). -/
def State.readTileSh (s : State) (t o : Nat) : Nat :=
  let x := s.tile t
  if o = 0xF00 then x.seed.toNat
  else if o = 0xF04 then fbit x.adaptEn 0 + fld x.adaptMargin.toNat 1 4 + fld s.pkg.selfEp.toNat 16 16
  else if o = 0x9100 then x.headroomKib.toNat
  else if o = 0x9104 then x.alpha.toNat
  else if !s.isTileShadow t o then 0
  else if o < 0xC000 then (s.hodCfg (32 * t + (o - 0x9200) / 4)).reserveKib.toNat
  else if o < 0x10000 then
    let c := s.hodCfg (32 * t + (o - 0xC000) / 4)
    c.trackVcs.toNat + fld c.timeoutUs.toNat 8 20
  else if o < 0x18000 then
    let c := s.cfg (32 * t + (o - 0x10000) / 0x400)
    let r := o % 0x400
    if r = 0 then
      c.mode.toNat + fbit c.enc 2 + fld c.axis.toNat 3 2 + fbit c.dateline 5 + fld c.portHold.toNat 8 20
    else if r < 0x40 then wordOf c.slices.toNat ((r - 0x20) / 4)
    else (List.range 4).foldl (fun v i => v + fld (tget (1 : BitVec 8) c.weights (r - 0x100 + i)).toNat (8 * i) 8) 0
  else if o < 0x100000 then
    let c := s.schedOf (32 * t + (o - 0x18000) / 0x40)
    let r := o % 0x40
    if r = 0 then c.w1.toNat + fld c.w2.toNat 8 8 + fld c.w3.toNat 16 8 + fld c.w4.toNat 24 8
    else if r = 4 then c.w5.toNat + fld c.w6.toNat 8 8 + fld c.overhead.toNat 16 8
    else if r = 8 then c.cap0.toNat + fld c.burst0.toNat 16 10
    else c.cap7.toNat + fld c.burst7.toNat 16 10
  else if o < 0x200000 then
    let c := s.fq (4096 * t + (o - 0x100000) / 0x20)
    let r := o % 0x20
    if r = 0 then
      fbit c.valid 0 + fbit c.calendar 1 + fbit c.resetZero 2 + fld c.port.toNat 3 5 + fld c.vc.toNat 8 3 +
        fld c.sampleClass.toNat 12 2 + fld c.slice.toNat 16 8
    else if r = 4 then c.flowLabel.toNat
    else if r = 8 then c.rate.toNat
    else c.burst.toNat
  else
    let j := (o - 0x200000) / 0x2000
    let pos := o % 0x2000 / 2
    let entry (i : Nat) : Nat :=
      let e := tget (0, false) s.calSh ((32 * t + j) * 4096 + pos + i)
      e.1 + 0x8000 * b2n e.2
    entry 0 + 65536 * entry 1

/-- PT_PKT_CNT (04 R135), by the offset in the entry. -/
def PktCnt.read (c : PktCnt) (r : Nat) : Nat :=
  ([c.hdrCrc, c.malformed, c.lenErr, c.encMismatch, c.gcmFail, c.replay, c.sliceViolation, c.noRoute, c.hopLimit,
    c.portDown, c.egressSlice, c.gcrcFail, c.holdDrop, c.mcSkip, c.adaptiveDiff].getD (r / 4) 0).toNat

/-- PT_HOD_POOL[k] (05 R162). -/
def Tile.readPool (t : Tile) (k r : Nat) : Nat :=
  let p := t.pool k
  if r = 0 then p.base else if r = 4 then p.count
  else if r = 8 then p.free + fbit p.quarantined 28
  else p.head k

/-- FM_CTL, FM_STATUS and FM_HIST (06 R192, R193). -/
def Fumarole.read (m : Fumarole) (o : Nat) : Nat :=
  if o = 0 then m.period1.toNat + fld m.period2.toNat 16 16
  else if o = 4 then m.period3.toNat + fbit m.history 16 + fbit m.enable 17
  else if o = 8 then m.ring.toNat
  else if o = 0x10 then m.records.toNat
  else if o = 0x14 then m.skipped.toNat
  else if o = 0x18 then m.ringDrops.toNat
  else if o = 0x1C then m.histWraps.toNat
  else if o = 0x20 then m.nextRecord % 2 ^ 32
  else if o = 0x24 then m.shareRecords % 2 ^ 32
  else 0

/-- PT_FENCE_CNT (10 R325). -/
def Tile.readFence (t : Tile) (o : Nat) : Nat :=
  if o = 0 then fld t.fences.length 0 14 + fld t.heldSignals.length 16 11
  else if o = 4 then t.fReleased.toNat
  else if o = 8 then t.fBroken.toNat
  else if o = 0xC then t.fUntracked.toNat
  else if o = 0x10 then t.fEvicted.toNat
  else 0

/-- PT_SLICE[s] as 16 bytes (04 R113). -/
def SliceDesc.bytes (d : SliceDesc) : List Byte :=
  [BitVec.ofNat 8 (fbit d.valid 0 + fbit d.conf 1 + fbit d.priv 2), d.hopLimit] ++ leBytes 2 d.epLo.toNat ++
    leBytes 4 d.routeBase.toNat ++ leBytes 4 d.epCount.toNat ++ leBytes 2 d.mcCount.toNat ++ leBytes 2 d.version.toNat

/-- PT_FQ_STATE[q] (06 R190). -/
def State.readFqState (s : State) (q r : Nat) : Nat :=
  if r = 0 then s.fqDepthBytes q % 2 ^ 32
  else if r = 4 then
    s.fqDepthPkts q + fbit (s.fqr q).wheel.isSome 16 + fbit (decide (0 < (s.fqr q).fence)) 17
  else if r = 8 then (s.fqBalance q).toNat
  else 0

/-- HA_RING[r] (12 R385). -/
def Ring.read (g : Ring) (o : Nat) : Nat :=
  let base := g.base.toNat * 4096
  if o = 0 then wordOf base 0
  else if o = 4 then wordOf base 1
  else if o = 8 then g.sizeLog2 + fld g.kind.toNat 5 2 + fbit g.checkReq 7 + fld g.cmplRing.toNat 8 14
  else if o = 0xC then
    g.vector.toNat + fbit g.intEn 11 + fld g.coalCount.toNat 16 8 + fld g.coalUs.toNat 24 8
  else if o = 0x10 then fbit g.enable 0 + fbit g.err 1
  else if o = 0x14 then g.head.toNat
  else if o = 0x18 then g.tail.toNat
  else 0

/-- HA_CTL, HA_DB_BASE, HA_WB_BASE and HA_STATUS (12 R386). -/
def State.readHa (s : State) (o : Nat) : Nat :=
  let h := s.host
  if o = 0 then fbit h.evtEn 1 + fld h.evtRing.toNat 2 14 + fld h.dbPollUs.toNat 16 8
  else if o = 0x10 then wordOf (h.dbBase.toNat * 4096) 0
  else if o = 0x14 then wordOf (h.dbBase.toNat * 4096) 1
  else if o = 0x18 then wordOf (h.wbBase.toNat * 4096) 0
  else if o = 0x1C then wordOf (h.wbBase.toNat * 4096) 1
  else if o = 0x20 then h.lostRecords.toNat
  else if o = 0x24 then fld s.unconfirmedSlots 0 13 + fbit h.wwe 13
  else if o = 0x28 then h.readErrors.toNat
  else 0

/-- A word of the window of tile t, without the effect of a read. -/
def State.readTile (s : State) (t o : Nat) : Nat :=
  let x := s.tile t
  let p (base stride : Nat) : Nat := 32 * t + (o - base) / stride
  if o = 0xFFC then fbit (!x.pending.isEmpty) 1 + fbit x.refused 2 + fld x.detail.toNat 8 8
  else if 0x8000 ≤ o ∧ o < 0x8800 then (s.pktCntOf (p 0x8000 0x40)).read (o % 0x40)
  else if 0x9000 ≤ o ∧ o < 0x9040 then x.readPool ((o - 0x9000) / 0x10) (o % 0x10)
  else if o = 0x9300 then x.ctlPool.toNat + fbit x.rebuild 2 + fbit x.rebuildRefused 3
  else if o = 0x9400 then 0xFF - x.planesOut.toNat
  else if 0x9500 ≤ o ∧ o < 0x9514 then
    ([x.reasmTimeout, x.seqSkip, x.verdictDrop, x.fabCrc, x.mcStreams].getD ((o - 0x9500) / 4) 0).toNat
  else if 0xA000 ≤ o ∧ o < 0xA400 then
    let c := s.portCntOf (p 0xA000 0x20)
    ([c.hodDrop, c.headroomPkts, c.mcBuffers].getD (o % 0x20 / 4) 0).toNat
  else if 0xB000 ≤ o ∧ o < 0xB028 then x.fm.read (o - 0xB000)
  else if 0xC100 ≤ o ∧ o < 0xC114 then x.readFence (o - 0xC100)
  else if 0xC800 ≤ o ∧ o < 0xCA00 then
    let c := s.portCntOf (p 0xC800 0x10)
    if s.startsPort (p 0xC800 0x10) then ([c.ndetDrops, c.ndetLate].getD (o % 0x10 / 4) 0).toNat else 0
  else if 0xE000 ≤ o ∧ o < 0xE048 then s.readVt (dieTile t) (o - 0xE000)
  else if 0x19000 ≤ o ∧ o < 0x19080 then (s.outPort (p 0x19000 4)).cal.length
  else if 0x20000 ≤ o ∧ o < 0x21000 then byteWord (s.slice ((o - 0x20000) / 0x10)).bytes (o % 0x10)
  else if 0x40000 ≤ o ∧ o < 0x80000 then wordOf (s.rset ((o - 0x40000) / 0x40)).members.toNat (o % 0x40 / 4)
  else if 0x80000 ≤ o ∧ o < 0x84000 then
    let r := s.rset ((o - 0x80000) / 4)
    r.slice.toNat + fbit r.valid 8
  else if 0x120000 ≤ o ∧ o < 0x130000 then s.readFqState (4096 * t + (o - 0x120000) / 0x10) (o % 0x10)
  else if 0x300000 ≤ o ∧ o < 0x380000 then
    if t = 0 ∨ t = 8 then (s.ring ((o - 0x300000) / 0x20)).read (o % 0x20) else 0
  else if 0x380000 ≤ o ∧ o < 0x38002C then if t = 0 ∨ t = 8 then s.readHa (o - 0x380000) else 0
  else if 0x400000 ≤ o then (s.route ((o - 0x400000) / 4)).toNat
  else (s.shadowTile t).readTileSh t o

/-! ## Planes, Caldera dies and lane dies -/

/-- A word of the window of plane p (05 R168). -/
def State.readPlane (s : State) (p o : Nat) : Nat :=
  let x := s.plane p
  if o = 0 then fbit x.inService 0 + fbit x.rejoinRefused 1 + fld x.cause.toNat 4 4
  else if 0xE000 ≤ o ∧ o < 0xE048 then s.readVt (diePlane p) (o - 0xE000)
  else 0

/-- CA_ENG_STATUS of a physical engine (09 R293). -/
def State.readEngine (s : State) (e r : Nat) : Nat :=
  let x := s.engine e
  let c := s.caldera (e / 8)
  if r = 0 then
    fbit x.inService 0 + fbit (s.isSpare e) 1 + fld (72 - x.slotsUsed) 8 8 + fld (c.used (e % 8)) 16 16
  else if r = 4 then
    fld (s.invs.foldl (fun n k => match k.2 with
      | some v => n + (v.segs.filter (fun g => g.2.bound && !g.2.freed && v.engineOf g.1 == e)).length
      | none => n) 0) 0 12
  else 0

/-- CA_ARITH_CNT (07 R225). -/
def Arith.read (a : Arith) (r : Nat) : Nat :=
  ([a.convOvf, a.ovfConflict, a.underFlush, a.nanResults, a.mxNanBlocks, a.xpBad, a.promotions].getD (r / 4) 0).toNat

/-- CA_INTAKE_CNT (09 R296). -/
def IntakeCnt.read (c : IntakeCnt) (r : Nat) : Nat :=
  ([c.intakeDrop, c.reasmTimeout, c.fabCrc, c.verdictDrop, c.payCrc, c.misdirected, c.egressDrop,
    c.magmaAborts].getD (r / 4) 0).toNat

def InvState.code : InvState → Nat
  | .free => 0 | .armed => 1 | .count => 2 | .reduce => 3 | .drain => 4 | .done => 5 | .abort => 6

/-- CA_INVOC (09 R298) of the record with key k. -/
def State.readInvoc (s : State) (k r : Nat) : Nat :=
  match s.inv k with
  | none => 0
  | some v =>
    if r = 0 then v.group % 65536 + fld v.state.code 16 3
    else if r = 4 then wordOf v.step 0
    else if r = 8 then bitsOf v.step 32 16
    else if r = 0xC then fld v.front 0 20
    else if r = 0x10 then
      match s.runOf k with
      | some x => fld ((List.range x.p.kids).filter (fun i => !x.settledAll i)).length 0 17
      | none => 0
    else 0

/-- CA_GROUP_CNT (09 R299), on the die of the group's lead engine. -/
def State.readGroupCnt (s : State) (c g r : Nat) : Nat :=
  let x := s.group g
  if s.leadOf g / 8 = c then ([x.malformed, x.rejected, x.mismatches, x.invocLimit].getD (r / 4) 0).toNat else 0

/-- A word of the window of Caldera die c. -/
def State.readCaldera (s : State) (c o : Nat) : Nat :=
  let x := s.caldera c
  if o < 0x80 then s.readEngine (8 * c + o / 0x10) (o % 0x10)
  else if o = 0x100 then 65536 - x.magmaUsed
  else if o = 0x104 then
    fld x.usedAll 0 15 + fbit x.dieOver 15 +
      (List.range 9).foldl (fun v u => v + fbit (x.over u) (16 + u)) 0
  else if o = 0x108 then fld (128 - (s.invs.filter (fun e => e.1 / 128 == c)).length) 0 8
  else if o = 0x200 then x.magmaWait.toNat
  else if 0x300 ≤ o ∧ o < 0x420 then (tget ({} : IntakeCnt) x.intake ((o - 0x300) / 0x20)).read (o % 0x20)
  else if 0x500 ≤ o ∧ o < 0x510 then
    ([x.blocksFolded, x.foldDup, x.foldCrc, x.blocksRebuilt].getD ((o - 0x500) / 4) 0).toNat
  else if 0x4000 ≤ o ∧ o < 0x4200 then (s.engine (8 * c + (o - 0x4000) / 0x40)).arith.read (o % 0x40)
  else if 0x6000 ≤ o ∧ o < 0x6800 then
    let i := o % 0x100 / 4
    if i < 48 then
      let k := s.ctr (48 * (8 * c + (o - 0x6000) / 0x100) + i)
      k.value.toNat + fbit k.ovf 16 + fbit (!k.waiters.isEmpty) 17 +
        (if s.pkg.direct then fbit k.bound 18 + fld k.slice.toNat 24 8 else 0)
    else 0
  else if 0x6800 ≤ o ∧ o < 0x6880 then
    let e := 8 * c + (o - 0x6800) / 0x10
    if o % 0x10 = 8 then wordOf (s.ctrMap e) 0 else if o % 0x10 = 0xC then bitsOf (s.ctrMap e) 32 16 else 0
  else if 0x6A00 ≤ o ∧ o < 0x6A10 then
    ([x.sigApplied, x.sigDiscarded, x.sigOverflows, x.waitTimeouts].getD ((o - 0x6A00) / 4) 0).toNat
  else if 0x7000 ≤ o ∧ o < 0x7040 then
    let m := tget ({} : MemCtl) x.mc ((o - 0x7000) / 0x10)
    if o % 0x10 = 0 then fbit m.trained 0 + fbit m.selfRefresh 1 else if o % 0x10 = 4 then m.retrains.toNat else 0
  else if 0xE000 ≤ o ∧ o < 0xE048 then s.readVt (dieCaldera c) (o - 0xE000)
  else if 0x10000 ≤ o ∧ o < 0x11000 then s.readInvoc (128 * c + (o - 0x10000) / 0x20) (o % 0x20)
  else if 0x100000 ≤ o ∧ o < 0x140000 then s.readGroupCnt c ((o - 0x100000) / 0x10) (o % 0x10)
  else 0

/-- LN_PORT_STATUS of a port (03 R98). width_log2 shows the width that the start map gives, 16 lanes right after reset
(DEDUCED, log entry 211). -/
def State.readPortStatus (s : State) (p : Nat) : Nat :=
  let x := s.port p
  if !s.startsPort p then 0
  else
    x.state.code + fld x.reason.code 4 8 + fld (Nat.log2 (s.portWidth p)) 12 3 + fbit x.rxError 15 +
      fld x.flpMinor.toNat 16 4 + fld x.features.toNat 20 2 + fld (min 15 x.attempts) 24 4 + fbit x.timeOk 28

/-- A word of the window of lane die n. -/
def State.readLn (s : State) (n o : Nat) : Nat :=
  let d := s.laneDie n
  if o = 0 then d.startMap.toNat + fld d.enable.toNat 16 16
  else if o = 4 then d.pendStart.toNat + fld d.pendEnable.toNat 16 16
  else if 0x100 ≤ o ∧ o < 0x140 then s.readPortStatus (16 * n + (o - 0x100) / 4)
  else if 0x400 ≤ o ∧ o < 0x800 then
    if o % 0x40 < 36 then byteWord (s.port (16 * n + (o - 0x400) / 0x40)).partner (o % 0x40) else 0
  else if 0x1000 ≤ o ∧ o < 0x1100 then
    let x := (s.forEach d.pending (wireWrite n)).port (16 * n + (o - 0x1000) / 0x10)
    let r := o % 0x10
    if r = 0 then wordOf x.wireSerial.toNat 0
    else if r = 4 then wordOf x.wireSerial.toNat 1
    else if r = 8 then x.wirePort.toNat + fld x.wireMode.toNat 16 2
    else 0
  else if o = 0x1FFC then fbit (!d.pending.isEmpty) 1
  else if 0x2000 ≤ o ∧ o < 0x2100 then
    let l := s.lane (16 * n + (o - 0x2000) / 0x10)
    ([l.fecCorrected, l.fecUncorrectable, l.cellCrc, l.osCrc].getD (o % 0x10 / 4) 0).toNat
  else if 0x3000 ≤ o ∧ o < 0x3200 then
    let x := s.port (16 * n + (o - 0x3000) / 0x20)
    ([x.cResends, x.cTimeouts, x.cFraming, x.cQuarantine, x.cLost, x.cRetrains].getD (o % 0x20 / 4) 0).toNat
  else if 0xE000 ≤ o ∧ o < 0xE048 then s.readVt (dieLane n) (o - 0xE000)
  else 0

/-! ## A read by a master (16 R473 to R477) -/

/-- The word at a BAR0 offset inside the space, read by master m, where its die can be reached.
DESIGN CHOICE: log entry 10. -/
def State.regValue (s : State) (m off : Nat) : Nat :=
  let w := off / windowSize
  let o := off % windowSize
  if w = 0 then s.readPk m o
  else match dieKind w with
    | .td => s.readTr o
    | .is => s.readIs w o
    | .tile => s.readTile (w - 4) o
    | .plane => s.readPlane (w - 20) o
    | .caldera => s.readCaldera (w - 28) o
    | .lane => s.readLn (w - 36) o
    | .none => 0

/-- The high-water mark at an offset of a tile's window: which, and its index (06 R194). -/
def hwmAt (o : Nat) : Option (Nat × Nat) :=
  if 0xB100 ≤ o ∧ o < 0xB110 then some (0, (o - 0xB100) / 4)
  else if 0xB200 ≤ o ∧ o < 0xB280 then some (1, (o - 0xB200) / 4)
  else if 0xB400 ≤ o ∧ o < 0xB800 then some (2, (o - 0xB400) / 4)
  else none

/-- A 4-byte read of a BAR0 offset inside the space by master m: its value and what the read does. -/
def regRead (m off : Nat) (s : State) : Nat × State :=
  let w := off / windowSize
  let o := off % windowSize
  if 68 ≤ w then (0, s)
  else if !s.reachable w then (0xFFFFFFFF, accessRefused m (some w) s)
  else if w = 0 ∧ o = 0x2800 then (s.regValue m off, ftcLatch s)
  else match dieKind w, hwmAt o with
    | .tile, some (which, i) => hwmTake (w - 4) which i s
    | _, _ => (s.regValue m off, s)

end Sys2Proof.Machine
end

