-- ==== Sys2Proof/Machine/RegWrite.lean ====
section
/-! DEFINITION. A write of a 32-bit word of the register map by a master, window by window (16 R473 to
R482, 12 R358, R376, R383), and the commands that carry accesses: a register write of HOST or BMC, and
the management packets (12 R373, R374, 16 R474, R475). -/

namespace Sys2Proof.Machine

/-! ## What the map names (16 R482) -/

/-- The offset lies in VT_LOCAL (13 R414). -/
def vtNamed (o : Nat) : Bool := decide (0xE000 ≤ o ∧ o < 0xE048)

/-- The offset lies in a range of n bytes from base on. -/
def within (o base n : Nat) : Bool := decide (base ≤ o ∧ o < base + n)

/-- A register stands at offset o of the package window. -/
def pkNamed (o : Nat) : Bool :=
  within o 0 0x20 || within o 0x100 0x10 || o == 0x200 || within o 0x1000 0x10 || o == 0x1010 || o == 0x1020 ||
  o == 0x1030 || o == 0x1100 || within o 0x1200 0x84 || within o 0x2000 0x100 || o == 0x2100 || o == 0x2200 ||
  o == 0x2204 || within o 0x2800 8 || within o 0x2810 0x1C || within o 0x2840 0x1C || o == 0x2900 || o == 0x29FC ||
  within o 0x2A00 0xC || within o 0x3000 0x400 || within o 0x4000 0x1C || within o 0x4100 0x20 ||
  within o 0x4200 0x200 || within o 0x4400 0x80 || within o 0x4500 0x20 ||
  (within o 0x30000 0x8000 && decide (o % 0x80 < 96)) || within o 0x40000 0x20000 || within o 0x200000 0x50000

/-- A register or region stands at offset o of the TD window. -/
def trNamed (o : Nat) : Bool :=
  within o 0x7C00 0x10 || within o 0x7D00 0x14 || within o 0x7D40 0x10 || within o 0x7E00 0xC || o == 0x7F00 ||
  within o 0x8000 0x1A0 || within o 0x9000 0xC || within o 0x9100 8 || within o 0x9200 8 || vtNamed o ||
  within o 0x100000 0x68000 || within o 0x170000 0x4000 || within o 0x200000 0x100000

/-- A register stands at offset o of the window of tile t. -/
def tileNamed (t o : Nat) : Bool :=
  within o 0xF00 8 || o == 0xFFC || within o 0x8000 0x800 || within o 0x9000 0x40 || within o 0x9100 8 ||
  within o 0x9200 0x80 || o == 0x9300 || o == 0x9400 || within o 0x9500 0x14 || within o 0xA000 0x400 ||
  within o 0xB000 0x28 || within o 0xB100 0x10 || within o 0xB200 0x80 || within o 0xB400 0x400 ||
  within o 0xC000 0x80 || within o 0xC100 0x14 || within o 0xC800 0x200 || vtNamed o || within o 0x10000 0x8000 ||
  within o 0x18000 0x800 || within o 0x19000 0x80 || within o 0x20000 0x1000 || within o 0x40000 0x40000 ||
  within o 0x80000 0x4000 || within o 0x100000 0x20000 || within o 0x120000 0x10000 || within o 0x200000 0x40000 ||
  ((t == 0 || t == 8) && (within o 0x300000 0x80000 || o == 0x380000 || within o 0x380010 0x1C)) ||
  within o 0x400000 0x400000

/-- A register stands at offset o of the window of a Caldera die. -/
def calderaNamed (o : Nat) : Bool :=
  within o 0 0x80 || within o 0x100 0xC || o == 0x200 || within o 0x300 0x120 || within o 0x500 0x10 ||
  within o 0x4000 0x200 || (within o 0x6000 0x800 && decide (o % 0x100 < 192)) || within o 0x6800 0x80 ||
  within o 0x6A00 0x10 || within o 0x7000 0x40 || vtNamed o || within o 0x10000 0x1000 || within o 0x100000 0x40000

/-- A register stands at offset o of the window of a lane die. -/
def lnNamed (o : Nat) : Bool :=
  within o 0 8 || within o 0x100 0x40 || within o 0x400 0x400 || within o 0x1000 0x100 || o == 0x1FFC ||
  within o 0x2000 0x100 || within o 0x3000 0x200 || vtNamed o

/-- A table of the manual names offset o of window w. -/
def isNamed (w o : Nat) : Bool :=
  if w = 0 then pkNamed o
  else match dieKind w with
    | .td => trNamed o
    | .is => within o 0 0xC || vtNamed o
    | .tile => tileNamed (w - 4) o
    | .plane => within o 0 8 || vtNamed o
    | .caldera => calderaNamed o
    | .lane => lnNamed o
    | .none => false

/-! ## VT_LOCAL (13 R414) -/

/-- VT_LOCAL of die d: word r written by master m, who owns the Driant. -/
def writeVt (m d r v : Nat) (s : State) : State :=
  if r = 0 then stickyClear m d v s
  else if r = 4 then stickyClear m d (v * 2 ^ 32) s
  else if r = 8 then enableWrite m d false v s
  else if r = 0xC then enableWrite m d true v s
  else if r = 0x20 then injectWrite m d v s
  else if r = 0x24 then injectWrite m d (v * 2 ^ 32) s
  else s

/-! ## The package window -/

/-- Replace 32 bits of a wide value. -/
def putWord {w : Nat} (x : BitVec w) (i v : Nat) : BitVec w :=
  BitVec.ofNat w (x.toNat - bitsOf x.toNat (32 * i) 32 * 2 ^ (32 * i) + v % 2 ^ 32 * 2 ^ (32 * i))

/-- PK_FTC_CTL (11 R344), by the offset in the register. A new sync_en waits for its first edge (R329).
DESIGN CHOICE: log entry 106. -/
def writeFtcCtl (o v : Nat) (s : State) : State :=
  let f := s.ftc
  let f : Ftc :=
    if o = 0 then
      { f with root := bitOf v 0, syncEn := bitOf v 1, loadPending := f.loadPending || bitOf v 2
               hopMax := BitVec.ofNat 8 (max 1 (bitsOf v 8 8)), holdoverMs := BitVec.ofNat 16 (bitsOf v 16 16)
               edgeSeen := f.edgeSeen && (f.syncEn || !bitOf v 1) }
    else if o = 4 then
      { f with stepNs := BitVec.ofNat 20 (max 100 (bitsOf v 0 20)), launchMax := BitVec.ofNat 12 (max 1 (bitsOf v 20 12)) }
    else if o = 8 then { f with expectRoot := putWord f.expectRoot 0 v }
    else if o = 0xC then { f with expectRoot := putWord f.expectRoot 1 v }
    else if o = 0x10 then { f with loadValue := putWord f.loadValue 0 v }
    else if o = 0x14 then { f with loadValue := putWord f.loadValue 1 v }
    else if o = 0x18 then { f with syncPeriod := BitVec.ofNat 32 (max 1000 v) }
    else f
  freeRun { s with ftc := f }

/-- PK_REC_SPARE[k] (14 R448); in_use shows whether a rebuild fills the endpoint named. DEDUCED: log entry 107. -/
def writeSpare (k v : Nat) (s : State) : State :=
  let ep := BitVec.ofNat 16 v
  let used := (List.range 4).any (fun i => (s.rebuild i).active && (s.rebuild i).spareEp == ep)
  s.modSpare k (fun x =>
    { ep := ep, valid := bitOf v 16, inUse := used, failed := x.failed && !(bitOf v 18 && !s.justSet mgCycle (wbSpare k)) })

/-- PK_CTR_XLAT: the two entries of one word (10 R306, R320). -/
def writeXlat (m o v : Nat) (s : State) : State :=
  let sl := (o - 0x30000) / 0x80
  let i := o % 0x80 / 2
  xlatWrite m sl (i + 1) (v / 65536) (xlatWrite m sl i (v % 65536) s)

/-- The words of the package window that the owner writes. -/
def writePkOwned (m o v : Nat) (s : State) : State :=
  if o = 0x200 then
    let s := s.w1c (wbUnreachable m) (bitOf v 0) (fun s => s.modMaster m (fun x => { x with unreachable := false }))
    s.w1c (wbBadAccess m) (bitOf v 1) (fun s => s.modMaster m (fun x => { x with badAccess := false }))
  else if o = 0x1020 then if bitOf v 31 then leaseRenew m s else s
  else if o = 0x1030 then handoverWrite m (v % 256) s
  else if within o 0x2000 0x100 then engineMapWrite m ((o - 0x2000) / 4) v s
  else if o = 0x2100 then s.w1c wbMap (bitOf v 0) (fun s => { s with pkg := { s.pkg with mapDropped := false } })
  else if o = 0x2204 then s.w1c wbXlat (bitOf v 0) (fun s => { s with pkg := { s.pkg with xlatDropped := false } })
  else if within o 0x2810 0x1C then writeFtcCtl (o - 0x2810) v s
  else if o = 0x2900 then detWrite (bitOf v 0) s
  else if o = 0x29FC then if bitOf v 0 then detCommit m s else s
  else if within o 0x4000 0x1C then recCtlWrite (o - 0x4000) v s
  else if within o 0x4500 0x20 then writeSpare ((o - 0x4500) / 4) v s
  else if within o 0x30000 0x8000 then writeXlat m o v s
  else s

/-- A master's own PK_OWN_CLAIM (12 R388). -/
def writeClaim (m o v : Nat) (s : State) : State :=
  if o = 0x1000 then s.modMaster m (fun x => { x with nonce := putWord x.nonce 0 v })
  else if o = 0x1004 then s.modMaster m (fun x => { x with nonce := putWord x.nonce 1 v })
  else if o = 0x1008 then
    let s := s.modMaster m (fun x => { x with priority := BitVec.ofNat 8 (max 1 (bitsOf v 0 8)) })
    if bitOf v 31 then ownerClaim m s else s
  else s

/-- A master's own PK_MBOX (12 R375, R390). DEDUCED: log entry 16. -/
def writeMbox (m o v : Nat) (s : State) : State :=
  if o < 0x1240 then s.modMaster m (fun x => { x with mboxDesc := memWrite 0 x.mboxDesc (o - 0x1200) (leBytes 4 v) })
  else if o = 0x1280 then
    let s := s.w1c (wbMbox m) (bitOf v 2) (fun s => s.modMaster m (fun x => { x with mboxDropped := false }))
    if bitOf v 0 then mailboxGo m s else s
  else s

/-- A word of the package window written by master m (12 R376, R390). DEDUCED: log entry 13. -/
def writePk (m o v : Nat) (s : State) : State :=
  if within o 0x1000 0x10 then writeClaim m o v s
  else if within o 0x1200 0x84 then writeMbox m o v s
  else match stageOf o with
    | some (k, a) =>
      if k = m then s.modMaster m (fun x => { x with stage := memWrite 0 x.stage a (leBytes 4 v) })
      else s.ownerWrite m id
    | none => s.ownerWrite m (writePkOwned m o v)

/-! ## The TD window -/

/-- TR_RESET_CTL (02 R54). -/
def writeResetCtl (m v : Nat) (s : State) : State :=
  if bitOf v 31 then
    resetWrite m (bitsOf v 0 4) (bitOf v 4) (bitOf v 5) (bitsOf v 8 8) (bitsOf v 16 9) s
  else if s.rstCtl.go then ({ s with rstStatus := { s.rstStatus with dropped := true } }).hwSet wbReset
  else { s with rstCtl :=
    { kind := BitVec.ofNat 4 v, keepMem := bitOf v 4, keepHost := bitOf v 5, die := BitVec.ofNat 8 (bitsOf v 8 8)
      index := BitVec.ofNat 9 (bitsOf v 16 9) } }

/-- TR_IS_UPD (15 R471). -/
def writeUpd (o v : Nat) (s : State) : State :=
  s.updWrite (fun s =>
    let u := s.trust.upd
    if o = 0x7C00 then
      let s := { s with trust := { s.trust with upd := { u with
        op := BitVec.ofNat 4 v, copyB := bitOf v 4, region := BitVec.ofNat 5 (bitsOf v 5 5) } } }
      if bitOf v 31 then startUpd s else s
    else if o = 0x7C04 then { s with trust := { s.trust with upd := { u with offset := BitVec.ofNat 32 v } } }
    else if o = 0x7C08 then { s with trust := { s.trust with upd := { u with length := BitVec.ofNat 21 v } } }
    else s)

/-- The words of the TD window that the owner writes. -/
def writeTrOwned (m o v : Nat) (s : State) : State :=
  if o = 0x7E00 then writeResetCtl m v s
  else if o = 0x7E04 then
    s.w1c wbReset (bitOf v 4) (fun s => { s with rstStatus := { s.rstStatus with dropped := false } })
  else if o = 0x7F00 then thermPin { s with therm := { assertC := BitVec.ofNat 8 (clamp 60 100 (bitsOf v 0 8)) } }
  else if o = 0x9100 then
    { s with vent := { s.vent with windowUs := BitVec.ofNat 17 (clamp 10 100000 (bitsOf v 0 17)) } }
  else if o = 0x9104 then
    let s := { s with vent := { s.vent with isoUs := BitVec.ofNat 14 (clamp 10 10000 (bitsOf v 0 14)) } }
    if bitOf v 31 then enterSafeWrite m s else s
  else if vtNamed o then writeVt m dieTD (o - 0xE000) v s
  else s

/-- A word of the TD window written by master m (15 R456, R472). -/
def writeTr (m o v : Nat) (s : State) : State :=
  if within o 0x7C00 0x10 then s.trustWrite m (writeUpd o v)
  else if o = 0x7D10 then if bitOf v 0 then debugApply m false false s else s.trustWrite m id
  else if within o 0x200000 0x100000 then s.trustWrite m (fun s =>
    { s with trust := { s.trust with staging := memWrite 0 s.trust.staging (o - 0x200000) (leBytes 4 v) } })
  else s.ownerWrite m (writeTrOwned m o v)

/-! ## The host attach (12 R358, R383, R385, R386) -/

/-- A write refused because its unit is enabled: HA_STATUS.wwe and the event (12 R383). -/
def wweHost (m off v : Nat) (s : State) : State :=
  (({ s with host := { s.host with wwe := true } }).hwSet wbWwe).wweEvent m off v

/-- Word o of HA_RING[r] written by HOST; off is the whole BAR0 offset, x the doorbell word read at an enable.
DEDUCED: log entry 17. -/
def writeRing (r o off v x : Nat) (s : State) : State :=
  let g := s.ring r
  let guarded (g' : Ring) : State :=
    if g.enable then wweHost mHost off v s else s.modRing r (fun _ => g')
  let base (i w : Nat) : BitVec 52 := BitVec.ofNat 52 ((putWord (BitVec.ofNat 64 (g.base.toNat * 4096)) i w).toNat / 4096)
  if o = 0 then guarded { g with base := base 0 (v / 4096 * 4096) }
  else if o = 4 then guarded { g with base := base 1 v }
  else if o = 8 then
    guarded { g with sizeLog2 := clamp 6 16 (bitsOf v 0 5), kind := BitVec.ofNat 2 (bitsOf v 5 2)
                     checkReq := bitOf v 7, cmplRing := BitVec.ofNat 14 (bitsOf v 8 14) }
  else if o = 0xC then
    s.modRing r (fun g => { g with vector := BitVec.ofNat 11 v, intEn := bitOf v 11
                                   coalCount := BitVec.ofNat 8 (bitsOf v 16 8), coalUs := BitVec.ofNat 8 (bitsOf v 24 8) })
  else if o = 0x10 then
    let s := s.w1c (wbErr r) (bitOf v 1) (fun s => s.modRing r (fun g => { g with err := false }))
    if bitOf v 0 && !g.enable then ringEnable mHost r x s
    else if !bitOf v 0 && g.enable then ringDisable mHost r s
    else s
  else s

/-- HA_DB_BASE and HA_WB_BASE: refused while any ring is enabled (12 R358). -/
def writeAreaBase (o off v : Nat) (s : State) : State :=
  let set (b : BitVec 52) : BitVec 52 :=
    let i := if o % 8 = 0 then 0 else 1
    BitVec.ofNat 52 ((putWord (BitVec.ofNat 64 (b.toNat * 4096)) i (if i = 0 then v / 4096 * 4096 else v)).toNat / 4096)
  let h := s.host
  let h' : HostAttach := if o < 0x18 then { h with dbBase := set h.dbBase } else { h with wbBase := set h.wbBase }
  if s.rings.any (fun e => e.2.enable) then wweHost mHost off v s else { s with host := h' }

/-- HA_CTL written by master m (12 R358, R376): HOST's other fields apply whether or not it owns the Driant;
switch acts for the owner alone. DEDUCED: log entry 19. -/
def writeHaCtl (m v : Nat) (s : State) : State :=
  if m = mHost then
    let s := { s with host := { s.host with
      evtEn := bitOf v 1, evtRing := BitVec.ofNat 14 (bitsOf v 2 14), dbPollUs := BitVec.ofNat 8 (max 1 (bitsOf v 16 8)) } }
    if bitOf v 0 then switchWrite m s else s
  else if s.mayWrite m && bitOf v 0 then switchWrite m s
  else s.refuseWrite m

/-- A word of the HA_ registers written by master m. -/
def writeHa (m o off v x : Nat) (s : State) : State :=
  if o = 0x380000 then writeHaCtl m v s
  else if m ≠ mHost then s.refuseWrite m
  else if o < 0x380000 then writeRing ((o - 0x300000) / 0x20) (o % 0x20) off v x s
  else if within o 0x380010 0x10 then writeAreaBase (o - 0x380000) off v s
  else if o = 0x380024 then s.w1c wbWwe (bitOf v 13) (fun s => { s with host := { s.host with wwe := false } })
  else s

/-! ## Tiles, planes, Caldera dies, lane dies -/

/-- FM_CTL (06 R192). -/
def Fumarole.ctlWrite (o v : Nat) (f : Fumarole) : Fumarole :=
  let per (i : Nat) : BitVec 16 := BitVec.ofNat 16 (max 1 (bitsOf v i 16))
  if o = 0 then { f with period1 := per 0, period2 := per 16 }
  else if o = 4 then { f with period3 := per 0, history := bitOf v 16, enable := bitOf v 17 }
  else if o = 8 then { f with ring := BitVec.ofNat 14 v }
  else f

/-- PT_HOD_CTL (05 R165). -/
def writeHodCtl (m t v : Nat) (s : State) : State :=
  if bitOf v 2 then poolRebuild m t (bitsOf v 0 2) s
  else if (s.tile t).rebuild then s
  else s.modTile t (fun x => { x with ctlPool := BitVec.ofNat 2 v })

/-- The words of the window of tile t that the owner writes. -/
def writeTile (m t o v : Nat) (s : State) : State :=
  if s.isTileShadow t o then tilePend t (o, BitVec.ofNat 32 v) s
  else if o = 0xFFC then if bitOf v 0 then ptCommitWrite m t s else s
  else if o = 0x9300 then writeHodCtl m t v s
  else if within o 0xB000 0xC then modFm t (Fumarole.ctlWrite (o - 0xB000) v) s
  else if vtNamed o then writeVt m (dieTile t) (o - 0xE000) v s
  else s

/-- FP_CTL and VT_LOCAL of plane p (05 R168); retire wins over rejoin. DEDUCED: log entry 173. -/
def writePlane (m p o v : Nat) (s : State) : State :=
  if o = 4 then
    if bitOf v 0 then planeRetireWrite m p s else if bitOf v 1 then planeRejoin m p s else s
  else if vtNamed o then writeVt m (diePlane p) (o - 0xE000) v s
  else s

/-- The words of the window of Caldera die c that the owner writes. -/
def writeCaldera (m c o v : Nat) (s : State) : State :=
  if o = 0x200 then
    s.modCaldera c (fun x => { x with magmaWait := BitVec.ofNat 14 (clamp 1 10000 (bitsOf v 0 14)) })
  else if within o 0x6800 0x80 then
    let e := 8 * c + (o - 0x6800) / 0x10
    if o % 0x10 = 0 then counterClear m e v s
    else if o % 0x10 = 4 then counterClear m e (v % 65536 * 2 ^ 32) s
    else s
  else if vtNamed o then writeVt m (dieCaldera c) (o - 0xE000) v s
  else s

/-- The words of the window of lane die n that the owner writes (03 R97, R100). -/
def writeLn (m n o v : Nat) (s : State) : State :=
  if o = 4 then
    s.modLaneDie n (fun d => { d with pendStart := BitVec.ofNat 16 v, pendEnable := BitVec.ofNat 16 (v / 65536) })
  else if within o 0x1000 0x100 && o % 0x10 != 0xC then
    lanePend n (o - 0x1000, BitVec.ofNat 32 v) s
  else if o = 0x1FFC then if bitOf v 0 then lnCommitWrite m n s else s
  else if vtNamed o then writeVt m (dieLane n) (o - 0xE000) v s
  else s

/-! ## A write by a master -/

/-- One 4-byte write by master m of value v at a BAR0 offset inside the space (16 R473 to R475); x is the
doorbell word that an enable of a ring reads. -/
def regWrite (m off v x : Nat) (s : State) : State :=
  let w := off / windowSize
  let o := off % windowSize
  if 68 ≤ w || s.clkStopped dieTD then s
  else if !s.reachable w then accessRefused m (some w) s
  else if !isNamed w o then s
  else if w = 0 then writePk m o v s
  else match dieKind w with
    | .td => writeTr m o v s
    | .is => s.ownerWrite m (fun s => if vtNamed o then writeVt m w (o - 0xE000) v s else s)
    | .tile =>
      if within o 0x300000 0x8002C then writeHa m o off v x s else s.ownerWrite m (writeTile m (w - 4) o v)
    | .plane => s.ownerWrite m (writePlane m (w - 20) o v)
    | .caldera => s.ownerWrite m (writeCaldera m (w - 28) o v)
    | .lane => s.ownerWrite m (writeLn m (w - 36) o v)
    | .none => s

/-- The 1 GiB space (16 R473). -/
def spaceSize : Nat := 0x40000000

/-! ## BAR2/3 and configuration space (12 R352) -/

/-- A word of the MSI-X table written; an unmasked vector whose pending bit is set is sent (12 R370). -/
def msixWrite (o v : Nat) (s : State) : State :=
  let k := o / 16
  let e := tget ({} : MsixEntry) s.host.msix k
  let e := if o % 16 = 0 then { e with addr := putWord e.addr 0 (v / 4 * 4) }
    else if o % 16 = 4 then { e with addr := putWord e.addr 1 v }
    else if o % 16 = 8 then { e with data := BitVec.ofNat 32 v }
    else { e with masked := bitOf v 0 }
  let send := e.pending && !e.masked
  let s := { s with host := { s.host with
    msix := tset ({} : MsixEntry) s.host.msix k { e with pending := e.pending && e.masked } } }
  s.when send (fun s => s.msix k)

/-- Put one word of a BAR's address in place: its w writable bits are the upper ones of 64. -/
def barPut {w : Nat} (b : BitVec w) (i v : Nat) : BitVec w :=
  BitVec.ofNat w ((putWord (BitVec.ofNat 64 (b.toNat * 2 ^ (64 - w))) i v).toNat / 2 ^ (64 - w))

/-- A word written in configuration space, at its standard place (PRESUMED, log entry 237). -/
def cfgWrite (o v : Nat) (s : State) : State :=
  let c := s.host.cfg
  let c := if o = 0x10 then { c with bar0 := barPut c.bar0 0 v }
    else if o = 0x14 then { c with bar0 := barPut c.bar0 1 v }
    else if o = 0x18 then { c with bar2 := barPut c.bar2 0 v }
    else if o = 0x1C then { c with bar2 := barPut c.bar2 1 v }
    else if o = 0x48 then
      { c with maxPayload := BitVec.ofNat 2 (min 2 (bitsOf v 5 3)), maxRead := BitVec.ofNat 3 (min 5 (bitsOf v 12 3)) }
    else c
  { s with host := { s.host with cfg := c } }

/-- A word read in configuration space. The capability word of the device cache reports its size in units of 64 KiB
(R351). PRESUMED: log entry 272. -/
def State.cfgRead (s : State) (o : Nat) : Nat :=
  let c := s.host.cfg
  let any := (Config.cfgWord o).toNat
  if o = 0 then 0x51201EC7
  else if o = 8 then 0x02800000 + any % 256
  else if o = 0x10 then wordOf (c.bar0.toNat * 2 ^ 30) 0 + 4
  else if o = 0x14 then wordOf (c.bar0.toNat * 2 ^ 30) 1
  else if o = 0x18 then wordOf (c.bar2.toNat * 2 ^ 16) 0 + 4
  else if o = 0x1C then wordOf (c.bar2.toNat * 2 ^ 16) 1
  else if o = 0x20 ∨ o = 0x24 then 0
  else if o = 0x2C then any % 65536 + 65536 * s.pkg.variant.toNat
  else if o = 0x48 then
    any - fld (bitsOf any 5 3) 5 3 - fld (bitsOf any 12 3) 12 3 + fld c.maxPayload.toNat 5 3 + fld c.maxRead.toNat 12 3
  else if o = Config.cxlDvsec + 0x14 then
    bitsOf any 0 16 + 65536 * (1 + fld (bitsOf any 20 4) 4 4 + 256 * (cacheBytes / 65536))
  else any

/-- A word written by HOST at an offset of BAR2/3 or, from 0x1_0000 on, of configuration space. -/
def hostSpaceWrite (o v : Nat) (s : State) : State :=
  if o < 0x8000 then msixWrite o v s
  else if o < 0x10000 then s
  else cfgWrite (o - 0x10000) v s

/-- A word that HOST reads there. -/
def State.hostSpaceRead (s : State) (o : Nat) : Nat :=
  let e := tget ({} : MsixEntry) s.host.msix (o / 16)
  if o < 0x8000 then
    if o % 16 = 0 then wordOf e.addr.toNat 0 else if o % 16 = 4 then wordOf e.addr.toNat 1
    else if o % 16 = 8 then e.data.toNat else b2n e.masked
  else if o < 0x8100 then
    (List.range 32).foldl (fun n i =>
      n + 2 ^ i * b2n (tget ({} : MsixEntry) s.host.msix (8 * (o - 0x8000) + i)).pending) 0
  else if o < 0x10000 then (Config.cfgWord o).toNat
  else s.cfgRead (o - 0x10000)

/-! ## Accesses of HOST and BMC -/

/-- A 4-byte read by a master whose answer leaves the block. -/
def readOut (m off : Nat) (s : State) : State :=
  let (v, s) := regRead m off s
  s.emit (.value m off (BitVec.ofNat 32 v))

/-- An I3C private write of an offset word and n further bytes (12 R373): with bit 31 and 4 bytes a write, with
neither a read, and anything else, a bad alignment or an offset outside the space is answered with a NACK. -/
def i3cAccess (off : Nat) (bytes : List Byte) (x : Nat) (s : State) : State :=
  let o := off % 2 ^ 31
  let fits := decide (o % 4 = 0 ∧ o < spaceSize)
  if bitOf off 31 && bytes.length == 4 && fits then regWrite mBmc o (leNat bytes) x s
  else if !bitOf off 31 && bytes.isEmpty && fits then readOut mBmc o s
  else (accessRefused mBmc none s).emit .nack

/-- An access by HOST to the register space (R474): 4 bytes, or 8 naturally aligned as two accesses, with all byte
enables set; of any other a write is dropped and a read returns all ones. -/
def hostAccess (m off : Nat) (bytes : List Byte) (rd : Nat) (be : Bool) (x : Nat) (s : State) : State :=
  let n := if bytes.isEmpty then rd else bytes.length
  let good := be && decide ((n = 4 ∧ off % 4 = 0 ∨ n = 8 ∧ off % 8 = 0) ∧ off + n ≤ spaceSize)
  if !good then
    let s := accessRefused m none s
    if bytes.isEmpty then
      s.forEach (List.range ((n + 3) / 4)) (fun s i => s.emit (.value m (off + 4 * i) (BitVec.allOnes 32)))
    else s
  else if bytes.isEmpty then
    let s := readOut m off s
    if n = 8 then readOut m (off + 4) s else s
  else if n = 4 then regWrite m off (leNat bytes) x s
  else regWrite m (off + 4) (fieldOf bytes 4 4) x (regWrite m off (fieldOf bytes 0 4) x s).newCycle

/-- REGISTER_WRITE by HOST or BMC of some bytes at an offset, or a read where there are none: a size, an alignment or
a place that R474 does not accept is dropped, and I3C answers it with a NACK. DEDUCED: log entry 11. -/
def registerWrite (m off : Nat) (bytes : List Byte) (rd : Nat) (be : Bool) (x : Nat) (s : State) : State :=
  let o := off - spaceSize
  if m ≠ mBmc ∧ spaceSize ≤ off ∧ off < spaceSize + 0x11000 ∧ off % 4 = 0 ∧ be ∧
      (if bytes.isEmpty then rd else bytes.length) = 4 then
    s.when (s.boot.phase != .bootHalt) (fun s =>
      if bytes.isEmpty then s.emit (.value m off (BitVec.ofNat 32 (s.hostSpaceRead o))) else hostSpaceWrite o (leNat bytes) s)
  else onPath m (fun s =>
    if m = mBmc then i3cAccess off bytes x s else hostAccess m off bytes rd be x s) s

/-! ## Management packets (12 R374, 16 R474) -/

/-- The request of the given op at the head of the verified ones: master, source endpoint, slice, payload. -/
def State.mgmtHead (s : State) (op : Nat) : Option (Nat × Nat × Nat × List Byte) :=
  match s.mgmtIn with
  | [] => none
  | e :: _ => if fieldOf e.2.2.2 0 1 = op then some e else none

/-- The words field and the offset of a READ or WRITE keep the rules of R374 and R474. DEDUCED: log entry 171. -/
def mgmtRangeOk (p : List Byte) : Bool :=
  let n := fieldOf p 2 2
  let off := fieldOf p 8 4
  decide (1 ≤ n ∧ n ≤ 1024 ∧ off % 4 = 0 ∧ off + 4 * n ≤ spaceSize)

/-- Refuse a request that breaks them. -/
def mgmtRefuse (m src slice : Nat) (p : List Byte) (s : State) : State :=
  (accessRefused m none s).respond m (fieldOf p 4 4) src slice St.badDescriptor 2 []

/-- n successive reads from an offset on, and their bytes in order. -/
def readWords (m off : Nat) : Nat → State → List Byte × State
  | 0, s => ([], s)
  | n + 1, s =>
    let (v, s) := regRead m off s
    let (bs, s) := readWords m (off + 4) n s
    (leBytes 4 v ++ bs, s)

/-- MGMT_READ. -/
def mgmtRead (s : State) : State :=
  match s.mgmtHead 1 with
  | none => s
  | some (m, src, slice, p) =>
    let s := { s with mgmtIn := s.mgmtIn.tail }
    if !mgmtRangeOk p then mgmtRefuse m src slice p s
    else
      let (bs, s) := readWords m (fieldOf p 8 4) (fieldOf p 2 2) s
      s.respond m (fieldOf p 4 4) src slice St.ok 0 bs

/-- Successive writes of the words of a byte string. -/
def writeWords (m off : Nat) (bytes : List Byte) (s : State) : State :=
  s.forEach (List.range (bytes.length / 4)) (fun s i => (regWrite m (off + 4 * i) (fieldOf bytes (4 * i) 4) 0 s).newCycle)

/-- Whether some write in f by master m is dropped and counted (R376), and the state that f leaves. -/
def refuses (m : Nat) (f : State → State) (s : State) : Bool × State :=
  let n := (s.master m).refused
  let s := f (s.modMaster m (fun x => { x with refused := 0 }))
  let k := (s.master m).refused
  (k != 0, s.modMaster m (fun x => { x with refused := satAdd n k.toNat }))

/-- MGMT_WRITE; the data must be there in full, and the status is NOT_OWNER where a word is dropped and counted under
R376 (00 R5, DEDUCED, log entry 240). No REMOTE master enables a ring, so no doorbell word is read. -/
def mgmtWrite (s : State) : State :=
  match s.mgmtHead 2 with
  | none => s
  | some (m, src, slice, p) =>
    let s := { s with mgmtIn := s.mgmtIn.tail }
    let n := 4 * fieldOf p 2 2
    if !mgmtRangeOk p || decide (p.length < 16 + n) then mgmtRefuse m src slice p s
    else
      let (no, s) := refuses m (writeWords m (fieldOf p 8 4) (sliceOf p 16 n)) s
      s.respond m (fieldOf p 4 4) src slice (if no then St.notOwner else St.ok) 0 []

/-- MGMT_DESC: the descriptor goes to execution, and its completion answers the request (12 R374, R375). -/
def mgmtDesc (s : State) : State :=
  match s.mgmtHead 3 with
  | none => s
  | some (m, src, slice, p) =>
    let s := { s with mgmtIn := s.mgmtIn.tail }
    let req := fieldOf p 4 4
    if fieldOf p 2 2 = 16 ∧ 80 ≤ p.length then s.handOver (.mgmt m req src slice) (sliceOf p 16 64)
    else s.respond m req src slice St.badDescriptor 1 []

/-! ## The commands -/

/-- MGMT_READ (12 R374). -/
def execMgmtRead (t : Nat) (s : State) : Out := run true t (onHub mgmtRead) s

/-- MGMT_WRITE (12 R374). -/
def execMgmtWrite (t : Nat) (s : State) : Out := run true t (onHub mgmtWrite) s

/-- MGMT_DESC (12 R374). -/
def execMgmtDesc (t : Nat) (s : State) : Out := run true t (onHub mgmtDesc) s

/-- REGISTER_WRITE (16 R474). -/
def execRegisterWrite (t m off : Nat) (bytes : List Byte) (x : Nat) (s : State) (rd : Nat := 0) (be : Bool := true) : Out :=
  run ((m == mHost || m == mBmc) && decide (off < 2 ^ 32) && decide (rd ≤ 4096) && decide (x < 2 ^ 32)) t
    (registerWrite m off bytes rd be x) s

end Sys2Proof.Machine
end

