-- ==== Sys2Proof/Machine/Dispatch.lean ====
section
/-! DEFINITION. The effect of each command on everything but the queue. -/

namespace Sys2Proof.Machine

def exec (i : Instr) (s : State) : Host.Outcome State Fault Refusal :=
  match i with
  | .packageReset t pin => Sys2Proof.Machine.execPackageReset t pin s
  | .pwrOkFall t k => Sys2Proof.Machine.execPwrOkFall t k s
  | .pwrOk0Fall t => Sys2Proof.Machine.execPwrOk0Fall t s
  | .bringUpStart t => Sys2Proof.Machine.execBringUpStart t s
  | .tdPllLock t => Sys2Proof.Machine.execTdPllLock t s
  | .imagesVerified t puf eraseA eraseB => Sys2Proof.Machine.execImagesVerified t puf eraseA eraseB s
  | .diesReleased t absent => Sys2Proof.Machine.execDiesReleased t absent s
  | .dieRecordsVerified t pufs => Sys2Proof.Machine.execDieRecordsVerified t pufs s
  | .configApplied t => Sys2Proof.Machine.execConfigApplied t s
  | .memoryTrained t bad => Sys2Proof.Machine.execMemoryTrained t bad s
  | .phaseReady t => Sys2Proof.Machine.execPhaseReady t s
  | .hostModuleTrained t b half cache => Sys2Proof.Machine.execHostModuleTrained t b half cache s
  | .attachTimeout t => Sys2Proof.Machine.execAttachTimeout t s
  | .warmPackageReset t m keepMem keepHost => Sys2Proof.Machine.execWarmPackageReset t m keepMem keepHost s
  | .hostSiteReset t m => Sys2Proof.Machine.execHostSiteReset t m s
  | .dieReset t m die => Sys2Proof.Machine.execDieReset t m die s
  | .portGroupReset t m die => Sys2Proof.Machine.execPortGroupReset t m die s
  | .portReset t m die index => Sys2Proof.Machine.execPortReset t m die index s
  | .engineReset t m die index => Sys2Proof.Machine.execEngineReset t m die index s
  | .resetComplete t => Sys2Proof.Machine.execResetComplete t s
  | .floatGrant t => Sys2Proof.Machine.execFloatGrant t s
  | .engineStart t => Sys2Proof.Machine.execEngineStart t s
  | .engineStop t e => Sys2Proof.Machine.execEngineStop t e s
  | .admissionStep t tile up => Sys2Proof.Machine.execAdmissionStep t tile up s
  | .clockCheckWindow t d bad parity => Sys2Proof.Machine.execClockCheckWindow t d bad s parity
  | .thermalSample t readings => Sys2Proof.Machine.execThermalSample t readings s
  | .hThermNChange t low => Sys2Proof.Machine.execHThermNChange t low s
  | .portEnable t p => Sys2Proof.Machine.execPortEnable t p s
  | .signalDetect t l => Sys2Proof.Machine.execSignalDetect t l s
  | .noSignalTimeout t p => Sys2Proof.Machine.execNoSignalTimeout t p s
  | .coarseConverged t l => Sys2Proof.Machine.execCoarseConverged t l s
  | .frameReceived t l pos frac inverted slot corr unc => Sys2Proof.Machine.execFrameReceived t l pos frac inverted slot s corr unc
  | .lockLost t l => Sys2Proof.Machine.execLockLost t l s
  | .ts1Received t l slot sat want corr unc => Sys2Proof.Machine.execTs1Received t l slot sat want s corr unc
  | .ts2Received t l slot corr unc => Sys2Proof.Machine.execTs2Received t l slot s corr unc
  | .identReceived t p slot corr unc => Sys2Proof.Machine.execIdentReceived t p slot s corr unc
  | .trainingTimeout t p => Sys2Proof.Machine.execTrainingTimeout t p s
  | .holdoffExpiry t p => Sys2Proof.Machine.execHoldoffExpiry t p s
  | .quiesceReceived t p => Sys2Proof.Machine.execQuiesceReceived t p s
  | .quiesceEnd t p => Sys2Proof.Machine.execQuiesceEnd t p s
  | .linkDownReceived t l => Sys2Proof.Machine.execLinkDownReceived t l s
  | .partnerRestart t p => Sys2Proof.Machine.execPartnerRestart t p s
  | .cellReceived t l cell corr unc => Sys2Proof.Machine.execCellReceived t l cell corr unc s
  | .controlSlotReceived t l slot corr unc => Sys2Proof.Machine.execControlSlotReceived t l slot corr unc s
  | .retryTimeout t p => Sys2Proof.Machine.execRetryTimeout t p s
  | .moduleFailure t d u => Sys2Proof.Machine.execModuleFailure t d u s
  | .lnCommit t m n => Sys2Proof.Machine.execLnCommit t m n s
  | .ingressLookup t id flaw => Sys2Proof.Machine.execIngressLookup t id flaw s
  | .ingressFinalCheck t id => Sys2Proof.Machine.execIngressFinalCheck t id s
  | .portHoldExpiry t p => Sys2Proof.Machine.execPortHoldExpiry t p s
  | .writeEntries t host => Sys2Proof.Machine.execWriteEntries t host s
  | .writeSet t host => Sys2Proof.Machine.execWriteSet t host s
  | .copyRegion t => Sys2Proof.Machine.execCopyRegion t s
  | .commitSlice t host => Sys2Proof.Machine.execCommitSlice t host s
  | .clearSlice t => Sys2Proof.Machine.execClearSlice t s
  | .prevDescriptorExpiry t sl => Sys2Proof.Machine.execPrevDescriptorExpiry t sl s
  | .ptCommit t m tile => Sys2Proof.Machine.execPtCommit t m tile s
  | .fabricSlot t f => Sys2Proof.Machine.execFabricSlot t f s
  | .planeCellReceive t p => Sys2Proof.Machine.execPlaneCellReceive t p s
  | .planeSlot t p => Sys2Proof.Machine.execPlaneSlot t p s
  | .fabricCellArrival t tile corrupt flaw => Sys2Proof.Machine.execFabricCellArrival t tile corrupt flaw s
  | .packetRelease t tile src vc flaw => Sys2Proof.Machine.execPacketRelease t tile src vc flaw s
  | .reassemblyTimeout t tile src vc rel => Sys2Proof.Machine.execReassemblyTimeout t tile src vc rel s
  | .seqGapTimeout t tile src vc => Sys2Proof.Machine.execSeqGapTimeout t tile src vc s
  | .planeRetire t m p => Sys2Proof.Machine.execPlaneRetire t m p s
  | .planeRejoin t m p => Sys2Proof.Machine.execPlaneRejoin t m p s
  | .poolRebuild t m tile k => Sys2Proof.Machine.execPoolRebuild t m tile k s
  | .poolRebuildDone t tile => Sys2Proof.Machine.execPoolRebuildDone t tile s
  | .creditFree t p pair => Sys2Proof.Machine.execCreditFree t p pair s
  | .cellOpportunity t p flaw => Sys2Proof.Machine.execCellOpportunity t p flaw s
  | .wheelSlotDue t tile => Sys2Proof.Machine.execWheelSlotDue t tile s
  | .launchHoldEnd t p => Sys2Proof.Machine.execLaunchHoldEnd t p s
  | .fumarolePeriod t tile c => Sys2Proof.Machine.execFumarolePeriod t tile c s
  | .hwmRead t m tile which n => Sys2Proof.Machine.execHwmRead t m tile which n s
  | .calderaCellLanding t die corrupt => Sys2Proof.Machine.execCalderaCellLanding t die corrupt s
  | .intakeCheck t die id flaw => Sys2Proof.Machine.execIntakeCheck t die id flaw s
  | .landingTimeout t die id => Sys2Proof.Machine.execLandingTimeout t die id s
  | .contrib t die id => Sys2Proof.Machine.execContrib t die id s
  | .slotReservationDone t k => Sys2Proof.Machine.execSlotReservationDone t k s
  | .partialMsg t die id => Sys2Proof.Machine.execPartial t die id s
  | .count t die id => Sys2Proof.Machine.execCount t die id s
  | .countResult t die id => Sys2Proof.Machine.execCountResult t die id s
  | .credit t die id => Sys2Proof.Machine.execCredit t die id s
  | .status t die id => Sys2Proof.Machine.execStatus t die id s
  | .participation t die id => Sys2Proof.Machine.execParticipation t die id s
  | .invocationLaunch t k => Sys2Proof.Machine.execInvocationLaunch t k s
  | .segmentAdd t die id flaw => Sys2Proof.Machine.execSegmentAdd t die id flaw s
  | .magmaRecordGrant t die flaw => Sys2Proof.Machine.execMagmaRecordGrant t die s flaw
  | .magmaWaitExpiry t die id => Sys2Proof.Machine.execMagmaWaitExpiry t die id s
  | .segmentProduce t k j flaw => Sys2Proof.Machine.execSegmentProduce t k j s flaw
  | .slotFree t k j => Sys2Proof.Machine.execSlotFree t k j s
  | .creditSend t k j => Sys2Proof.Machine.execCreditSend t k j s
  | .memberTimerExpiry t k j => Sys2Proof.Machine.execMemberTimerExpiry t k j s
  | .freezeReply t k j => Sys2Proof.Machine.execFreezeReply t k j s
  | .auditWrite t k => Sys2Proof.Machine.execAuditWrite t k s
  | .engineLoss t e => Sys2Proof.Machine.execEngineLoss t e s
  | .calderaDieLoss t c => Sys2Proof.Machine.execCalderaDieLoss t c s
  | .engineMapWrite t m k w => Sys2Proof.Machine.execEngineMapWrite t m k w s
  | .groupInstall t host => Sys2Proof.Machine.execGroupInstall t host s
  | .planLoad t host => Sys2Proof.Machine.execPlanLoad t host s
  | .resync t => Sys2Proof.Machine.execResync t s
  | .signalStep t k => Sys2Proof.Machine.execSignalStep t k s
  | .waitStep t k => Sys2Proof.Machine.execWaitStep t k s
  | .signal t die id => Sys2Proof.Machine.execSignal t die id s
  | .signalApply t c => Sys2Proof.Machine.execSignalApply t c s
  | .waitTimerExpiry t k => Sys2Proof.Machine.execWaitTimerExpiry t k s
  | .counterClear t m e mask => Sys2Proof.Machine.execCounterClear t m e mask s
  | .ctrXlatWrite t m slice v w => Sys2Proof.Machine.execCtrXlatWrite t m slice v w s
  | .fenceSignalArrival t tile => Sys2Proof.Machine.execFenceSignalArrival t tile s
  | .fenceTimeout t p => Sys2Proof.Machine.execFenceTimeout t p s
  | .fenceEvict t p src vc => Sys2Proof.Machine.execFenceEvict t p src vc s
  | .ftcSyncEdge t => Sys2Proof.Machine.execFtcSyncEdge t s
  | .sourceReevaluation t => Sys2Proof.Machine.execSourceReevaluation t s
  | .holdoverExpiry t => Sys2Proof.Machine.execHoldoverExpiry t s
  | .ftcCopyCompare t d off => Sys2Proof.Machine.execFtcCopyCompare t d off s
  | .ftcNowRead t m => Sys2Proof.Machine.execFtcNowRead t m s
  | .pkDetCommit t m => Sys2Proof.Machine.execPkDetCommit t m s
  | .adaptiveReport t => Sys2Proof.Machine.execAdaptiveReport t s
  | .doorbellSnoop t k => Sys2Proof.Machine.execDoorbellSnoop t k s
  | .doorbellLineRead t line words => Sys2Proof.Machine.execDoorbellLineRead t line words s
  | .doorbellPoll t => Sys2Proof.Machine.execDoorbellPoll t s
  | .descriptorFetch t => Sys2Proof.Machine.execDescriptorFetch t s
  | .descriptorReadDone t r good bytes => Sys2Proof.Machine.execDescriptorReadDone t r good bytes s
  | .tailConfirm t r tail => Sys2Proof.Machine.execTailConfirm t r tail s
  | .msixCoalesceTimeout t r => Sys2Proof.Machine.execMsixCoalesceTimeout t r s
  | .portCtlReset t => Sys2Proof.Machine.execPortCtlReset t s
  | .portCtlWire t => Sys2Proof.Machine.execPortCtlWire t s
  | .portSet t host => Sys2Proof.Machine.execPortSet t host s
  | .portCtlWidth t => Sys2Proof.Machine.execPortCtlWidth t s
  | .shaperSet t host => Sys2Proof.Machine.execShaperSet t host s
  | .wiringAccept t => Sys2Proof.Machine.execWiringAccept t s
  | .keyInstall t host => Sys2Proof.Machine.execKeyInstall t host s
  | .telemSnap t flaw => Sys2Proof.Machine.execTelemSnap t s flaw
  | .attest t host badA badB => Sys2Proof.Machine.execAttest t host badA badB s
  | .spdmHeartbeatExpiry t id => Sys2Proof.Machine.execSpdmHeartbeatExpiry t id s
  | .ownerHandover t => Sys2Proof.Machine.execOwnerHandover t s
  | .nop t => Sys2Proof.Machine.execNop t s
  | .define t host => Sys2Proof.Machine.execDefine t host s
  | .openEpoch t => Sys2Proof.Machine.execOpenEpoch t s
  | .epochOpenDone t => Sys2Proof.Machine.execEpochOpenDone t s
  | .closeEpoch t => Sys2Proof.Machine.execCloseEpoch t s
  | .release t => Sys2Proof.Machine.execRelease t s
  | .rebuild t => Sys2Proof.Machine.execRebuild t s
  | .foldReceived t die id flaw => Sys2Proof.Machine.execFoldReceived t die id s flaw
  | .intervalBucketExpiry t => Sys2Proof.Machine.execIntervalBucketExpiry t s
  | .memberFailed t g m => Sys2Proof.Machine.execMemberFailed t g m s
  | .autoRebuildStart t => Sys2Proof.Machine.execAutoRebuildStart t s
  | .rebuildWindowStart t k flaws => Sys2Proof.Machine.execRebuildWindowStart t k s flaws
  | .feedReceived t die id flaw => Sys2Proof.Machine.execFeedReceived t die id s flaw
  | .feedTimeout t k => Sys2Proof.Machine.execFeedTimeout t k s
  | .ledgerHeartbeat t => Sys2Proof.Machine.execLedgerHeartbeat t s
  | .ledger t die id => Sys2Proof.Machine.execLedger t die id s
  | .buddySilent t => Sys2Proof.Machine.execBuddySilent t s
  | .ringEnable t m r word => Sys2Proof.Machine.execRingEnable t m r word s
  | .ringDisable t m r => Sys2Proof.Machine.execRingDisable t m r s
  | .functionLevelReset t => Sys2Proof.Machine.execFunctionLevelReset t s
  | .switch t m => Sys2Proof.Machine.execSwitch t m s
  | .failover t => Sys2Proof.Machine.execFailover t s
  | .failoverReplay t => Sys2Proof.Machine.execFailoverReplay t s
  | .ownerClaim t m => Sys2Proof.Machine.execOwnerClaim t m s
  | .electionWindowEnd t => Sys2Proof.Machine.execElectionWindowEnd t s
  | .leaseRenew t m => Sys2Proof.Machine.execLeaseRenew t m s
  | .leaseLapsed t => Sys2Proof.Machine.execLeaseLapsed t s
  | .handoverWrite t m x => Sys2Proof.Machine.execHandoverWrite t m x s
  | .handoverExpiry t => Sys2Proof.Machine.execHandoverExpiry t s
  | .mailboxGo t m => Sys2Proof.Machine.execMailboxGo t m s
  | .mgmtRead t => Sys2Proof.Machine.execMgmtRead t s
  | .mgmtWrite t => Sys2Proof.Machine.execMgmtWrite t s
  | .mgmtDesc t => Sys2Proof.Machine.execMgmtDesc t s
  | .registerWrite t m off bytes x rd be => Sys2Proof.Machine.execRegisterWrite t m off bytes x s rd be
  | .stickyClear t m d mask => Sys2Proof.Machine.execStickyClear t m d mask s
  | .ventEnableWrite t m d hi v => Sys2Proof.Machine.execVentEnableWrite t m d hi v s
  | .ventInject t m d mask => Sys2Proof.Machine.execVentInject t m d mask s
  | .ventTimerExpiry t d src => Sys2Proof.Machine.execVentTimerExpiry t d src s
  | .isolationAck t d idx => Sys2Proof.Machine.execIsolationAck t d idx s
  | .isolationTimeout t d idx => Sys2Proof.Machine.execIsolationTimeout t d idx s
  | .vtSelf t d bit => Sys2Proof.Machine.execVtSelf t d s bit
  | .aggLost t d => Sys2Proof.Machine.execAggLost t d s
  | .enterSafe t m => Sys2Proof.Machine.execEnterSafe t m s
  | .safeRecordWrite t badA badB => Sys2Proof.Machine.execSafeRecordWrite t s badA badB
  | .skimRead t d where_ row flaw hit edc => Sys2Proof.Machine.execSkimRead t d where_ row flaw hit edc s
  | .isUpdWrite t m b region off len => Sys2Proof.Machine.execIsUpdWrite t m b region off len s
  | .seal t m b region => Sys2Proof.Machine.execSeal t m b region s
  | .erase t m b region => Sys2Proof.Machine.execErase t m b region s
  | .isUpdComplete t good maxErase => Sys2Proof.Machine.execIsUpdComplete t good maxErase s
  | .debugApply t m badA badB => Sys2Proof.Machine.execDebugApply t m s badA badB
  | .controlSlotSend t l frac => Sys2Proof.Machine.execControlSlotSend t l frac s
  | .hostModuleDown t b => Sys2Proof.Machine.execHostModuleDown t b s
  | .ventHeartbeat t d => Sys2Proof.Machine.execVentHeartbeat t d s
  | .vtOscCalibration t d count => Sys2Proof.Machine.execVtOscCalibration t d count s

end Sys2Proof.Machine
end

