-- ==== Sys2Proof/Safety.lean ====
section
/-! DEFINITION. What counts as a safe run: what a command answers, and the properties of a state that every
command keeps. -/

namespace Sys2Proof.Machine

/-- The command answers a next state, not a fault and not a refusal, and that state has the property P. -/
def Answers (i : Instr) (s : State) (P : State → Prop) : Prop := ∃ s', exec i s = .next s' ∧ P s'

/-- Out of reset the command answers a next state, not a fault and not a refusal, and that state has the property P.
While the package is held in reset nothing but a pin or the supply changes it (01 R26). -/
def Runs (i : Instr) (s : State) (P : State → Prop) : Prop := s.boot.row ≠ .held → Answers i s P

/-- The master whose access a command is (12 R372). -/
def masterOf : Instr → Option Nat
  | .warmPackageReset _ m _ _ | .hostSiteReset _ m | .dieReset _ m _ | .portGroupReset _ m _ | .portReset _ m _ _
  | .engineReset _ m _ _ | .lnCommit _ m _ | .ptCommit _ m _ | .planeRetire _ m _ | .planeRejoin _ m _
  | .poolRebuild _ m _ _ | .hwmRead _ m _ _ _ | .engineMapWrite _ m _ _ | .counterClear _ m _ _ | .ctrXlatWrite _ m _ _ _
  | .ftcNowRead _ m | .pkDetCommit _ m | .ringEnable _ m _ _ | .ringDisable _ m _ | .switch _ m | .ownerClaim _ m
  | .leaseRenew _ m | .handoverWrite _ m _ | .mailboxGo _ m | .registerWrite _ m _ _ _ _ _ | .stickyClear _ m _ _
  | .ventEnableWrite _ m _ _ _ | .ventInject _ m _ _ | .enterSafe _ m | .isUpdWrite _ m _ _ _ _ | .seal _ m _ _
  | .erase _ m _ _ | .debugApply _ m _ _ => some m
  | _ => none

/-- The management hub serves the command: its clock runs (02 R51), and the master whose access it is has a path to it,
as HOST has not in BOOT_HALT (15 R456). -/
def State.serves (s : State) (i : Instr) : Bool :=
  match masterOf i with
  | some m => s.hasPath m
  | none => !s.clkStopped dieTD

/-- The management hub serves the access or carries the descriptor out: as Runs, where it serves the command. -/
def Served (i : Instr) (s : State) (P : State → Prop) : Prop := s.serves i = true → Runs i s P

/-- What n steps answer. -/
def State.runSteps (s : State) : Nat → Host.Outcome State Fault Refusal
  | 0 => .next s
  | n + 1 => match step s with
    | .next s' => s'.runSteps n
    | o => o

/-- Every command that waits has its operands in range. -/
def State.QueueOk (s : State) : Prop := ∀ i ∈ s.pending, i.wf = true

/-- No command that waits falls in the present MG_CSR cycle, so that no rule on two events of one cycle applies (00 R9,
10 R302, R310, 14 R428, R434). -/
def State.Alone (s : State) : Prop := ∀ i ∈ s.pending, mgCycle i.time ≠ mgCycle s.now

/-- The safe state shows alike wherever the package shows it: VT_SAFE_STATUS.in_safe, the VT_SAFE line, the
SAFE_N output and phase SAFE (01 R26, 13 R402, R409, R415). -/
def State.SafeShown (s : State) : Prop :=
  s.pins.safeLow = s.vent.inSafe ∧ s.pins.vtSafe = s.vent.inSafe ∧ (s.boot.phase = .safe ↔ s.vent.inSafe = true)

/-- The owner is no master or one of the masters of 12 R372, and a successor is a master and not the owner
(12 R372, R379). -/
def State.OwnerLegal (s : State) : Prop :=
  (s.own.owner = 0 ∨ isMaster s.own.owner = true) ∧
  ∀ x a, s.own.successor = some (x, a) → isMaster x = true ∧ x ≠ s.own.owner

/-- Descriptor j stands first among the descriptors in hand, js behind it, is of this kind and operation, has
not started, and may execute: TD's clock runs, the package is not in the safe state and its master is the owner
(02 R51, 12 R364, R365, R410). -/
def State.NextJob (s : State) (kind op : Nat) (j : Job) (js : List Job) : Prop :=
  s.clkStopped dieTD = false ∧ s.vent.inSafe = false ∧ s.jobs = j :: js ∧ jobIs kind op j = true ∧ j.started = false ∧
  s.isOwner (jobMaster j.src) = true

/-- A descriptor that came through a master's mailbox has its completion there, with status st, and the mailbox
is free (12 R367, R375). -/
def Job.Reports (j : Job) (st : Byte) (s : State) : Prop := ∀ m, j.src = .mbox m →
  (s.master m).mboxBusy = false ∧ tget 0 (s.master m).mboxCmpl 2 = st

/-- Packet id landed on a die is a checked message m of this kind, of child i of the open invocation k that runs
as x, and rows 1 to 7 of 08 R244 let it through: the group is not suspended, the child is not dropped and the
message agrees with the group and the invocation. -/
def State.Admitted (s : State) (die id msg : Nat) (m : LandMsg) (k i : Nat) (x : Run) : Prop :=
  s.checkedMsg die id msg = some m ∧ s.findInv m.coll.group m.coll.step = some k ∧ s.runOf k = some x ∧
  x.v.group = m.coll.group ∧ x.v.step = m.coll.step ∧ (s.group m.coll.group).suspended = none ∧
  x.p.childOf m.hdr.src.toNat m.coll = some i ∧ x.v.reserving = false ∧ x.v.launch = m.launch ∧
  (x.v.child i).dropped = none ∧ rows47 x.r x.p i m = none

/-- Packet id landed on a die is a checked message m of this kind of the tree, for the open invocation k that runs
as x, in a group that is not suspended. -/
def State.OfTree (s : State) (die id msg : Nat) (m : LandMsg) (k : Nat) (x : Run) : Prop :=
  s.checkedMsg die id msg = some m ∧ (s.group m.coll.group).suspended = none ∧
  s.findInv m.coll.group m.coll.step = some k ∧ s.runOf k = some x ∧ x.v.group = m.coll.group

end Sys2Proof.Machine
end

