-- ==== Sys2Proof/Certificates/Slice0/Obligations.lean ====
section
/-! DEFINITION. The statements about the machine that the provers are asked for. Each one names the rules of the spec
it rests on. A statement about an instruction has as its conclusion that the command answers a next state (Answers), and
says what that state holds. -/

open Sys2Proof Sys2Proof.Machine

/-- A step takes the command at the front of the queue and is what that command does with the queue's rest; on an empty
queue the block idles (log entry 1: the model's own choice). -/
def Obligations.StepRunsTheFrontCommand : Prop :=  (∀ (c : Instr) (s : State), step { s with pending := c :: s.pending } = exec c s) ∧
  (∀ s : State, s.pending = [] → step s = .next s)

/-- Every command with its operands in range answers a next state, at its own time or at the present where that is later,
with the queue as it found it; one with an operand out of range faults as ill-formed. No command is refused. All of it
is the model's choice: that such operands fault (log entry 7), the time of the answer (log entry 2) and the queue kept
(log entry 6). -/
def Obligations.EveryCommandAnswers : Prop := ∀ (i : Instr) (s : State),
  (i.wf = true → Answers i s (fun s' => s'.pending = s.pending ∧ s'.now = max s.now i.time)) ∧
  (i.wf = false → exec i s = .fault .illFormed)

/-- A queue of well-formed commands runs to its end: as many steps as commands wait leave the queue empty and the time at
the latest of theirs, with no fault and no refusal on the way; and what the step leaves is such a queue again. -/
def Obligations.QueuesRunToTheirEnd : Prop := ∀ s : State, s.QueueOk →
  (∃ s', s.runSteps s.pending.length = .next s' ∧ s'.pending = [] ∧ s'.now = (s.pending.map Instr.time).foldl max s.now) ∧
  (∃ s', step s = .next s' ∧ s'.QueueOk ∧ s'.pending = s.pending.tail)

/-- After reset no command waits, the safe state shows nowhere, there is no owner, no descriptor is in hand, and no
packet, invocation, ring or group exists; the bring-up has not begun (02 R37, R52, R56, 13 R402, 12 R377). -/
def Obligations.ResetHoldsTheInvariants : Prop :=  State.reset.QueueOk ∧ State.reset.SafeShown ∧ State.reset.OwnerLegal ∧ State.reset.pending = [] ∧
  State.reset.own.owner = 0 ∧ State.reset.jobs = [] ∧ State.reset.inPkts = [] ∧ State.reset.invs = [] ∧
  (∀ r, (State.reset.ring r).enable = false) ∧ (∀ g, (State.reset.group g).record = none) ∧
  State.reset.boot.row = .held ∧ State.reset.vent.inSafe = false

/-- Every step keeps the safe state shown alike in VT_SAFE_STATUS.in_safe, on the VT_SAFE line, on SAFE_N and in the
phase, from every state in which they agree (01 R26, 13 R402, R409, R415). -/
def Obligations.SafeShownKept : Prop := ∀ (s s' : State), s.SafeShown → step s = .next s' → s'.SafeShown

/-- Every step leaves the owner no master or a master, and a successor that is a master other than the owner, from every
state in which that holds (12 R372, R377, R379). -/
def Obligations.OwnerLegalKept : Prop := ∀ (s s' : State), s.OwnerLegal → step s = .next s' → s'.OwnerLegal

/-- Descriptors need their owner and the package running (12 R364, R365, 13 R410): the next descriptor of a master that is
not the owner completes with NOT_OWNER and has no effect, where it may start (a write into a region that a previous
slice descriptor names waits, 13 R394); and in the safe state none executes. -/
def Obligations.DescriptorsNeedTheOwner : Prop := ∀ (t m : Nat) (host : List Byte) (j : Job) (js : List Job) (s : State),
  s.jobs = j :: js → j.started = false →
  ∀ q ∈ [(Instr.groupInstall t host, 1, 0), (.planLoad t host, 2, 0), (.writeEntries t host, 3, 1), (.copyRegion t, 3, 3), (.writeSet t host, 3, 2), (.commitSlice t host, 3, 4),
    (.clearSlice t, 3, 5), (.shaperSet t host, 4, 0), (.portCtlReset t, 5, 1), (.portCtlWire t, 5, 2), (.portSet t host, 5, 3),
    (.portCtlWidth t, 5, 4), (.wiringAccept t, 6, 0), (.keyInstall t host, 7, 0), (.define t host, 8, 1), (.openEpoch t, 8, 2), (.closeEpoch t, 8, 3),
    (.release t, 8, 4), (.rebuild t, 9, 0), (.resync t, 10, 0), (.ownerHandover t, 13, 0), (.nop t, 14, 0)],
  jobIs q.2.1 q.2.2 j = true → (q.2.1 = 3 → s.routeReady q.2.2 j = true) →
  let rest : State := { s with jobs := js }
  (s.vent.inSafe = false → s.isOwner (jobMaster j.src) = false → j.src = .mbox m → (∀ k ∈ js, ∀ a b c, k.src ≠ .commit a b c) →
    Served q.1 s (fun s' =>
    s' = { (if q.1 = .openEpoch t then rest else rest.newCycle) with now := max s.now t, masters := s'.masters } ∧ j.Reports 0x71 s' ∧
    ∀ k, k ≠ m → s'.master k = s.master k)) ∧
  (s.vent.inSafe = true → (∀ a b c, j.src ≠ .commit a b c) → Runs q.1 s (fun s' => s' = { s with now := max s.now t }))

/-- What is held in reset or has no clock stands still (01 R26, 02 R50, R51): while the package is held in reset a command
other than a pin's, the supply's, the start of the bring-up or Float's grant of a fall that the reset left (log entry
251) changes the time alone; so does an access of a master while TD, through which it goes, has lost its clock, but
for HOST's own BAR2 and configuration space, and every access of HOST in BOOT_HALT (15 R456); and so does what happens
on a tile, a plane or a Caldera die that is in reset or whose clock is lost. -/
def Obligations.HeldOrStoppedStandsStill : Prop := ∀ (t : Nat) (s : State),
  let still (i : Instr) : Prop := i.wf = true → Answers i s (fun s' => s' = { s with now := max s.now i.time })
  (s.boot.row = .held → ∀ i : Instr, (∀ u b, i ≠ .packageReset u b) → (∀ u, i ≠ .bringUpStart u) → (∀ u k, i ≠ .pwrOkFall u k) →
    (∀ u, i ≠ .pwrOk0Fall u) → (∀ u b, i ≠ .hThermNChange u b) → (∀ u, i ≠ .floatGrant u) → still i) ∧
  (s.clkStopped dieTD = true → ∀ (i : Instr) (m : Nat), masterOf i = some m →
    (∀ u off bytes rd be x, i = .registerWrite u m off bytes x rd be → m = 2 ∨ off < 0x40000000) → still i) ∧
  (s.boot.phase = .bootHalt → ∀ i : Instr, masterOf i = some 1 → still i) ∧
  (∀ u, u < 16 → s.dieRuns (dieTile u) = false → ∀ p src vc rel c flaw up, p / 32 = u →
    ∀ i ∈ [Instr.fabricSlot t u, .packetRelease t u src vc flaw, .reassemblyTimeout t u src vc rel, .seqGapTimeout t u src vc,
      .admissionStep t u up, .wheelSlotDue t u, .fumarolePeriod t u c, .portHoldExpiry t p, .launchHoldEnd t p, .fenceSignalArrival t u,
      .fenceTimeout t p, .fenceEvict t p src vc], still i) ∧
  (∀ p, p < 8 → s.dieRuns (diePlane p) = false → still (.planeSlot t p)) ∧
  (∀ c, c < 8 → s.dieRuns (dieCaldera c) = false →
    (∀ id f flaw corrupt e, e / 48 / 8 = c →
      ∀ i ∈ [Instr.fabricSlot t (16 + c), .calderaCellLanding t c corrupt, .intakeCheck t c id f, .landingTimeout t c id,
        .segmentAdd t c id flaw, .magmaRecordGrant t c flaw, .magmaWaitExpiry t c id, .contrib t c id, .partialMsg t c id, .count t c id,
        .countResult t c id, .credit t c id, .status t c id, .participation t c id, .foldReceived t c id flaw, .feedReceived t c id flaw,
        .signal t c id, .ledger t c id,
        .signalApply t e], still i) ∧
    (∀ k j v, s.inv k = some v → v.leadDie = c →
      ∀ i ∈ [Instr.slotReservationDone t k, .invocationLaunch t k, .creditSend t k j, .memberTimerExpiry t k j, .freezeReply t k j,
        .auditWrite t k, .signalStep t k, .waitStep t k, .waitTimerExpiry t k], still i))

/-- Each row of bring-up, from the state that the row before leaves, ends with the phase and the marks that 02 R56 and R58
give it: TD out of reset in ROM at time zero; TD_CORE on its PLL; the dies released that answer, in DIES; the records
verified, once every die clock has risen; H_RST_N high, in CONFIG, and not before a warm package reset has held it low
for 1 ms (02 R52); the GDDR7 devices trained but for the bad ones, in MEMORY; and READY with the time it took.
IMAGES_VERIFIED (15 R456): in the ROM phase, with TD's PLL locked, both image store dies answer (that they are ready
at this moment is the model's choice, log entry 119), identity_ok shows whether the PUF readout reconstructs the
response with the helper data of die 1, with at most 140 bits flipped (15 R457), and the ROM either goes on to phase
IMAGES or stops in BOOT_HALT; it stops there where neither copy of the boot header verifies. -/
def Obligations.BringUpAdvancesOrHalts : Prop :=
  (∀ (t : Nat) (s : State), s.vent.inSafe = false →
    (s.boot.row = .held →
      Answers (.bringUpStart t) s (fun s' => s'.boot.row = .started ∧ s'.boot.phase = .rom ∧
        s'.boot.zeroAt = max s.now t ∧ (s'.die dieTD).released = true)) ∧
    (s.boot.row = .started → s.boot.phase ≠ .bootHalt → (s.die dieTD).clockBad.contains clkCref0 = false →
      Runs (.tdPllLock t) s (fun s' => s'.boot.row = .pllLocked ∧ s'.boot.tdPll = true ∧
        s'.boot.phase = s.boot.phase)) ∧
    (∀ absent : List Nat, absent.all (fun n => assignedDies.contains n) = true →
      s.boot.row = .imagesOk → s.boot.phase ≠ .bootHalt →
      Runs (.diesReleased t absent) s (fun s' => s'.boot.row = .diesOut ∧ s'.boot.phase = .dies ∧
        ∀ n, 4 ≤ n → n < 68 → (s'.die n).released = !absent.contains n ∧ (s'.die n).present = !absent.contains n)) ∧
    (∀ pufs : List (Nat × List Byte), pufs.all (fun p => assignedDies.contains p.1) = true →
      s.boot.row = .diesOut →
      (s.float.waiting.any (fun x => x.change == .dieClock) = false →
        Runs (.dieRecordsVerified t pufs) s (fun s' => s'.boot.row = .recordsOk ∧ s'.boot.phase = s.boot.phase ∧
          s'.pkg.serial = BitVec.ofNat 64 s.recordSerial)) ∧
      (s.float.waiting.any (fun x => x.change == .dieClock) = true →
        Runs (.dieRecordsVerified t pufs) s (fun s' => s' = { s with now := max s.now t }))) ∧
    (s.boot.row = .recordsOk → s.boot.phase ≠ .bootHalt → (s.tick t).hRstMayRise = true →
      Runs (.configApplied t) s (fun s' => s'.boot.row = .configOk ∧ s'.boot.phase = .config ∧
        s'.pins.hRstLow = false)) ∧
    ((s.tick t).hRstMayRise = false → Runs (.configApplied t) s (fun s' => s' = { s with now := max s.now t })) ∧
    (∀ bad : List Nat, bad.all (fun m => decide (m < 32)) = true → s.boot.row = .configOk → s.boot.phase ≠ .bootHalt →
      Runs (.memoryTrained t bad) s (fun s' => s'.boot.row = .memoryOk ∧ s'.boot.phase = .memory ∧
        ∀ c d, c < 8 → d < 4 → (tget ({} : MemCtl) (s'.caldera c).mc d).trained = !bad.contains (4 * c + d))) ∧
    (s.boot.row = .memoryOk → s.boot.phase ≠ .bootHalt →
      Runs (.phaseReady t) s (fun s' => s'.boot.row = .readyOk ∧ s'.boot.phase = .ready ∧
        s'.boot.bootMs = BitVec.ofNat 16 (min 65535 ((max s.now t - s.boot.zeroAt) / 1000000))))) ∧
  (∀ (t a b : Nat) (puf : Option (List Byte)) (s : State),
    a < 2 ^ 32 → b < 2 ^ 32 → s.boot.row = .pllLocked → s.boot.phase = .rom →
      Runs (.imagesVerified t puf a b) s (fun s' =>
        s'.is0.ready = true ∧ s'.is1.ready = true ∧ s'.trust.identityOk = (s.pufResponse 1 puf).isSome ∧
        (∀ r, s.pufResponse 1 puf = some r → ∃ x, puf = some x ∧ r.length = 128 ∧ bitsApart x r ≤ 140) ∧
        ((s'.boot.phase = .images ∧ s'.boot.row = .imagesOk ∧ s'.boot.fwRuns = true) ∨ s'.boot.phase = .bootHalt) ∧
        (s.bootHeaderOk false = false → s.bootHeaderOk true = false → s'.boot.phase = .bootHalt)))

/-- PKG_RST_N low or the fall of PWR_OK[0] puts every register back to its reset value, keeps the contents of the image
store, and leaves the inputs as they stand (01 R26, 02 R37, R52). The fall of another PWR_OK input does so at once
while the package is in reset; out of reset it starts the power-fault ramp where an engine runs or a lane is enabled:
Float stops, and its FLOAT_GRANTs end in package reset once no fall waits, and at the latest 5 µs after the ramp began
(the end at a grant is the model's choice, log entry 201, and so is what PWR_OK[0] and the others do while in reset or
ramping, log entry 153). -/
def Obligations.PackageResetRestores : Prop := ∀ (t k : Nat) (pin : Bool) (s : State),
  let isReset (s' : State) : Prop :=
    s'.vent = State.reset.vent ∧ s'.own = State.reset.own ∧ s'.dies = [] ∧ s'.tiles = [] ∧ s'.calderas = [] ∧
    s'.ports = [] ∧ s'.lanes = [] ∧ s'.groups = [] ∧ s'.invs = [] ∧ s'.counters = [] ∧ s'.rings = [] ∧
    s'.masters = [] ∧ s'.host = State.reset.host ∧ s'.ftc = State.reset.ftc ∧ s'.recov = State.reset.recov ∧
    s'.trust = State.reset.trust ∧ s'.pkg = State.reset.pkg ∧ s'.routing = State.reset.routing ∧
    s'.rstStatus = State.reset.rstStatus ∧ s'.is0.flash = s.is0.flash ∧ s'.is1.flash = s.is1.flash
  Answers (.packageReset t pin) s (fun s' => isReset s' ∧ s'.pins.pkgRstN = (s.pins.pkgRstN && !pin) ∧
    s'.pins.pwrOk = s.pins.pwrOk ∧ s'.pins.hThermN = s.pins.hThermN ∧ s'.boot.row = .held ∧
    s'.boot.cause = (if pin then 2 else 1)) ∧
  (1 ≤ k → k ≤ 8 → Answers (.pwrOkFall t k) s (fun s' => s'.pins.pwrOk.getLsbD k = false ∧
    (s.float.rampFrom = none → s.boot.row = .held → isReset s' ∧ s'.boot.cause = 1) ∧
    (s.float.rampFrom = none → s.boot.row ≠ .held →
      (∃ e, e < 64 ∧ (s.engine e).running = true) ∨ (∃ l, l < 512 ∧ (s.lane l).enabled = true) →
      s'.float.stopped = true ∧ s'.float.rampFrom = some (max s.now t) ∧ s'.float.starts = [] ∧
      s'.float.waiting ≠ [] ∧ s'.engines = s.engines ∧ s'.admitted = s.admitted) ∧
    (∀ u, s.float.rampFrom = some u → s'.float = s.float ∧ s'.boot = s.boot ∧ s'.sent = s.sent))) ∧
  (∀ u, s.float.rampFrom = some u → s.float.waiting = [] ∨ u + 5000 ≤ max s.now t →
    Runs (.floatGrant t) s (fun s' => isReset s' ∧ s'.boot.row = .held ∧ s'.boot.cause = 1)) ∧
  Answers (.pwrOk0Fall t) s (fun s' => isReset s' ∧ s'.pins.pwrOk.getLsbD 0 = false ∧ s'.sent = s.sent)

/-- TR_RESET_CTL (02 R53, R54): of the owner's six requests, one made while a reset is in progress sets dropped and
changes nothing else; one that fails a check gives its result and starts no reset; and a request by a master that is
not the owner is dropped and counted (12 R376). A die that is no tile, plane, Caldera or lane die is BAD_TARGET (3),
and so is a port group reset of a die that is no lane die. A reset that passes its checks starts (02 R52, R54, 03 R96,
09 R280, R281): a warm package reset puts every die but the image store at its reset values, keeps what
TR_RESET_STATUS shows, the image store and, under keep_mem, the contents of GDDR7, and shows the cause 3 (that
TR_RESET_CTL then shows go 1 and kind 0 is the model's choice, log entry 132); a host-site reset drives H_RST_N low
and resets the host attach, but for failovers, and its rings (the model's choice, log entry 161); a die reset holds
its die in reset; a port group reset brings the pending map of its lane die into force, after its ports that are up
have sent LINK_DOWN for a frame (03 R77; what then shows is the model's choice, log entry 265); an engine reset takes
its engine out of service; and a port reset makes a port that carries cells retrain with the reason PORT_RESET.
RESET_COMPLETE (02 R55): a reset that has done its work leaves go 0 and the result DONE (1) with its time in µs, at
most 65,535; a die leaves reset, an engine comes back as a spare where its die is in service, and after a host-site
reset H_RST_N is high. Where the reset in progress has not done its work, or there is none, nothing changes. When a
reset has done its work is the model's inference (log entry 184), and that the management hub does nothing while its
clock is lost is log entry 178. -/
def Obligations.ResetsRequestedAndDone : Prop :=
  (∀ (t m die index : Nat) (keepMem keepHost : Bool) (s : State), isMaster m = true → die < 256 → index < 512 →
    ∀ c ∈ [(Instr.warmPackageReset t m keepMem keepHost, 1, 0, 0), (Instr.hostSiteReset t m, 2, 0, 0),
        (Instr.dieReset t m die, 3, die, 0), (Instr.portGroupReset t m die, 4, die, 0),
        (Instr.portReset t m die index, 5, die, index), (Instr.engineReset t m die index, 6, die, index)],
      ((s.tick t).mayWrite m = false → Served c.1 s (fun s' => s' = { s.refuseWrite m with now := max s.now t })) ∧
      (s.isOwner m = true → s.rstCtl.go = true → Served c.1 s (fun s' =>
        s' = { s with now := max s.now t, rstStatus := { s.rstStatus with dropped := true }
                      setAt := tset 0 s.setAt wbReset (max s.now t + 1) })) ∧
      (s.isOwner m = true → s.rstCtl.go = false → ∀ r, s.resetRefused c.2.1 c.2.2.1 c.2.2.2 = some r →
        Served c.1 s (fun s' => s'.rstStatus = { s.rstStatus with result := r } ∧ s'.rstCtl.go = false ∧
          s'.dies = s.dies ∧ s'.ports = s.ports ∧ s'.lanes = s.lanes ∧ s'.engines = s.engines ∧
          s'.laneDies = s.laneDies ∧ s'.host = s.host ∧ s'.invs = s.invs ∧ s'.sent = s.sent ∧ s'.pins = s.pins)) ∧
      (s.isOwner m = true → s.rstCtl.go = false → c.2.1 = 3 ∨ c.2.1 = 4 →
        dieKind die = .td ∨ dieKind die = .is ∨ dieKind die = .none →
        Served c.1 s (fun s' => s'.rstStatus.result = 3))) ∧
  (∀ (t m die index : Nat) (keepMem keepHost : Bool) (s : State), isMaster m = true → s.isOwner m = true →
    die < 256 → index < 512 → s.rstCtl.go = false →
    (s.resetRefused 1 0 0 = none → s.vent.inSafe = false ∨ s.vent.recordWritten = true →
      Served (.warmPackageReset t m keepMem keepHost) s (fun s' =>
        s'.rstCtl.go = true ∧ s'.rstCtl.kind = 0 ∧ s'.boot.row = .held ∧ s'.boot.cause = 3 ∧ s'.vent = State.reset.vent ∧
        s'.own = State.reset.own ∧ (∀ n, n ≠ 2 → n ≠ 3 → s'.die n = {}) ∧ (s'.die 2).released = (s.die 2).released ∧ s'.tiles = [] ∧ s'.ports = [] ∧ s'.lanes = [] ∧ s'.groups = [] ∧
        s'.invs = [] ∧ s'.counters = [] ∧ s'.rings = [] ∧ s'.routing = {} ∧ s'.is0.flash = s.is0.flash ∧
        s'.is1.flash = s.is1.flash ∧ (s'.pins.hRstLow = false ↔ keepHost = true ∧ s.pins.hRstLow = false) ∧
        (keepMem = false → s'.calderas = [] ∧ s'.pkg.history = []) ∧
        (keepMem = true → s'.pkg.history = s.pkg.history ∧ ∀ c, c < 8 → (s'.caldera c).parity = (s.caldera c).parity ∧
          (s'.caldera c).accums = (s.caldera c).accums ∧ (s'.caldera c).lost = false))) ∧
    (s.resetRefused 2 0 0 = none → Served (.hostSiteReset t m) s (fun s' =>
      s'.rstCtl.go = true ∧ s'.rstCtl.kind = 2 ∧ s'.pins.hRstLow = true ∧ s'.host = { failovers := s.host.failovers } ∧ s'.rings = [] ∧
      s'.dies = s.dies ∧ s'.tiles = s.tiles ∧ s'.calderas = s.calderas ∧ s'.groups = s.groups ∧
      s'.invs = s.invs ∧ s'.own = s.own ∧ s'.masters = s.masters)) ∧
    (s.resetRefused 3 die 0 = none → Served (.dieReset t m die) s (fun s' => (s'.die die).inReset = true)) ∧
    (s.resetRefused 4 die 0 = none → (∀ p, p / 16 = die - 36 → (s.port p).state.up = false ∧ (s.port p).linkDown = false) →
      Served (.portGroupReset t m die) s (fun s' =>
        (s'.laneDie (die - 36)).startMap = (s.laneDie (die - 36)).pendStart ∧
        (s'.laneDie (die - 36)).enable = (s.laneDie (die - 36)).pendEnable ∧ (s'.laneDie (die - 36)).resetPorts = none)) ∧
    (s.resetRefused 4 die 0 = none → ∀ p, p / 16 = die - 36 → s.startsPort p = true → (s.port p).state.up = true →
      Served (.portGroupReset t m die) s (fun s' =>
        (s'.port p).linkDown = true ∧ (s'.port p).state = .detect ∧ (s'.port p).reason = .portReset ∧
        (s'.laneDie (die - 36)).startMap = (s.laneDie (die - 36)).startMap ∧
        (s'.laneDie (die - 36)).resetPorts.any (fun l => l.contains p) = true)) ∧
    (s.resetRefused 5 die index = none → Served (.portReset t m die index) s (fun s' =>
      s'.rstCtl.go = true ∧ s'.rstCtl.kind = 5 ∧ s'.rstCtl.index = BitVec.ofNat 9 index ∧
      (s.portIsolated index = false → (s.port index).state.up = true →
        (s'.port index).state = .detect ∧ (s'.port index).linkDown = true ∧ (s'.port index).reason = .portReset))) ∧
    (s.resetRefused 6 die index = none → Served (.engineReset t m die index) s (fun s' =>
      (s'.engine (8 * (die - 28) + index)).inReset = true ∧
      (s'.engine (8 * (die - 28) + index)).inService = false))) ∧
  (∀ (t : Nat) (s : State),
    ((s.tick t).resetReady = true → Served (.resetComplete t) s (fun s' =>
      s'.rstCtl.go = false ∧ s'.rstStatus.result = 1 ∧
      s'.rstStatus.elapsedUs = BitVec.ofNat 16 (min 65535 ((max s.now t - s.rstStatus.startedAt) / 1000)) ∧
      (s.rstCtl.warm = false → s.rstCtl.kind = 2 → s'.pins.hRstLow = false) ∧
      (s.rstCtl.warm = false → s.rstCtl.kind = 3 → (s'.die s.rstCtl.die.toNat).inReset = false) ∧
      (s.rstCtl.warm = false → s.rstCtl.kind = 6 → let e := 8 * (s.rstCtl.die.toNat - 28) + s.rstCtl.index.toNat
        s'.engine e = { inService := !(s.caldera (e / 8)).lost, running := (s.engine e).running }))) ∧
    ((s.tick t).resetReady = false → Served (.resetComplete t) s (fun s' => s' = { s with now := max s.now t })))

/-- Float grants (02 R38, R40): with one change waiting and its buckets full, FLOAT_GRANT takes the charge of one step
from every group it names and carries the step out; a lane request enables its lane, and the request leaves the list;
the fall of a lane that a reset of the package has disabled takes its charge all the same, in the reset too, and shows
nowhere else (the model's choice, log entry 251). Nothing is granted while a bucket does not hold the charge. Engine
starts (02 R42): the first start in the queue is granted where its engine is in service and stands, 8 ticks have
passed since the last grant, the rise bucket of VDD_CORE_C holds 2.4 A and no other change waits on that group; the
engine then runs, the queue moves up, the start is counted. Within the 8 ticks, or with too little charge, nothing
changes. Engine stops (02 R40, R42): an engine whose stop waits, first in line on VDD_CORE_C, and on which no launched
invocation adds any longer stops through the fall bucket of VDD_CORE_C, which then holds 2.4 A less; while an
invocation may still be adding on it, while its group's bucket holds too little, while another request on the group
stands before it, or where no stop of it waits, it runs on. Admission steps of a tile (02 R39, R44): with nothing
waiting and the buckets of VDD_CORE_T and VDD_CORE_P holding the charge, the tile admits one flow more or one fewer at
once and 600 mA and 200 mA leave the buckets; at 32, or at 0 downwards, the step changes nothing; and a step that
cannot be paid waits. -/
def Obligations.FloatGrantsAndAdmits : Prop :=
  (∀ (t : Nat) (x : FloatReq) (s : State),
    s.float.waiting = [x] → s.float.starts = [] → s.float.rampFrom = none → x.change = .lane → x.steps = 1 →
    ((s.tick t).bucketsHold x.up [(4, 1400), (5, 700)] = true →
      Answers (.floatGrant t) s (fun s' =>
        s'.float.waiting = [] ∧
        (s'.lane (16 * (x.die - 36) + x.unit)).enabled =
          (if x.past then (s.lane (16 * (x.die - 36) + x.unit)).enabled else x.up) ∧
        (∀ l, l ≠ 16 * (x.die - 36) + x.unit → s'.lane l = s.lane l) ∧
        (s'.bucket 4).holds x.up + 1400 = ((s.tick t).bucket 4).holds x.up ∧
        (s'.bucket 5).holds x.up + 700 = ((s.tick t).bucket 5).holds x.up ∧
        (s'.bucket 4).holds (!x.up) = ((s.tick t).bucket 4).holds (!x.up) ∧
        s'.engines = s.engines ∧ s'.admitted = s.admitted ∧ s'.calderas = s.calderas ∧ s'.sent = s.sent)) ∧
    ((s.tick t).bucketsHold x.up [(4, 1400), (5, 700)] = false →
      Answers (.floatGrant t) s (fun s' => s' = { s with now := max s.now t }))) ∧
  (∀ (t : Nat) (q : StartReq) (qs : List StartReq) (s : State),
    s.vent.inSafe = false → s.float.stopped = false → s.float.starts = q :: qs → s.float.waiting = [] →
    (s.engine q.engine).inService = true → (s.engine q.engine).running = false →
    ((∀ u, s.float.lastStart = some u → u + 8 ≤ max s.now t) →
      (s.tick t).bucketsHold true [(3, 2400)] = true →
      Runs (.engineStart t) s (fun s' => s'.float.starts = qs ∧ (s'.engine q.engine).running = true ∧
        (∀ e, e ≠ q.engine → s'.engine e = s.engine e) ∧ s'.float.lastStart = some (max s.now t) ∧
        s'.float.engineStarts = satInc s.float.engineStarts ∧ (s'.bucket 3).rise = 0 ∧ s'.invs = s.invs)) ∧
    ((∃ u, s.float.lastStart = some u ∧ max s.now t < u + 8) ∨ (s.tick t).bucketsHold true [(3, 2400)] = false →
      Runs (.engineStart t) s (fun s' => s' = { s with now := max s.now t }))) ∧
  (∀ (t e : Nat) (s : State), e < 64 →
    let stop (x : FloatReq) : Prop :=
      x.change = .engine ∧ x.up = false ∧ x.past = false ∧ x.die = 28 + e / 8 ∧ x.unit = e % 8 ∧ x.steps = 1
    let unchanged : Prop := Runs (.engineStop t e) s (fun s' => s' = { s with now := max s.now t })
    (s.float.starts = [] → ∀ (x : FloatReq) (xs : List FloatReq), s.float.waiting = x :: xs → stop x →
      (s.engineAdds e = false → (s.tick t).bucketsHold false [(3, 2400)] = true →
        Runs (.engineStop t e) s (fun s' => (s'.engine e).running = false ∧ (s'.bucket 3).fall = 0 ∧
          (∀ k, k ≠ e → s'.engine k = s.engine k) ∧ (s'.engine e).inService = (s.engine e).inService ∧
          s'.float.waiting = xs)) ∧
      (s.engineAdds e = true ∨ (s.tick t).bucketsHold false [(3, 2400)] = false → unchanged)) ∧
    (∀ x y : FloatReq, s.float.waiting = [y, x] → stop x → y ≠ x → y.change = .dieClock → y.die = x.die →
      unchanged) ∧
    (s.float.waiting = [] → unchanged)) ∧
  (∀ (t tile : Nat) (up : Bool) (s : State), tile < 16 →
    s.vent.inSafe = false → s.float.stopped = false → s.float.waiting = [] → s.dieRuns (4 + tile) = true →
    let n := tget 0 s.admitted tile
    let room := if up then n < 32 else 0 < n
    (room → (s.tick t).bucketsHold up [(1, 600), (2, 200)] = true →
      Runs (.admissionStep t tile up) s (fun s' =>
        tget 0 s'.admitted tile = (if up then n + 1 else n - 1) ∧ s'.float.waiting = [] ∧
        (∀ k, k ≠ tile → tget 0 s'.admitted k = tget 0 s.admitted k) ∧
        (s'.bucket 1).holds up + 600 = ((s.tick t).bucket 1).holds up ∧
        (s'.bucket 2).holds up + 200 = ((s.tick t).bucket 2).holds up ∧ s'.engines = s.engines)) ∧
    (room → (s.tick t).bucketsHold up [(1, 600), (2, 200)] = false →
      Runs (.admissionStep t tile up) s (fun s' => s'.admitted = s.admitted ∧
        s'.float.waiting = [{ change := .admission, up := up, die := 4 + tile, unit := 0, raisedAt := max s.now t }])) ∧
    (¬ room → Runs (.admissionStep t tile up) s (fun s' => s' = { s with now := max s.now t })))

/-- What the package senses (01 R28, R33, 02 R51): a clock check of a die whose collector runs records which of its clocks
are bad, raises CLK_LOSS where there is one and CFG_PARITY where a configuration register fails its parity (13 R391),
and TD's FTC stands exactly while CREF1 or its clock is bad; a thermal sample records each reading and drives THERM_N
low where one is at or above the assertion threshold; and H_THERM_N low drives THERM_N low once the package is ready.
Collectors (13 R402): a heartbeat leaves the block and is noted, unless the collector holds VT_ALERT_N low; a die from
which TD has heard none for 100 µs or more raises AGG_LOST (11) on TD; and a calibration keeps the count, or holds the
one before where the reference is absent. A die whose collector does not run does none of it (the model's inference,
log entry 149). The skim pass (13 R391, R392, R399, R400): a read of the row at which a pass of the die stands moves
the pass to the next row, and counts a pass at the last one; a read of another row changes nothing. A row without a
flaw is not reported; a corrected symbol is counted and raises SYM_CE (4), unless traffic writes the row in the same
cycle; an uncorrectable row is counted and raises the source of the memory; tries of a read of GDDR7 whose EDC or
command/address parity fails are counted, up to 3; and one that still fails after 3 retries raises MEM_LINK (28) and
trains its device again, the row then counting as uncorrectable (the model's inference, log entry 260). Rows of GDDR7
with which a parity block ends, and rows of Caldera SRAM that an invocation holds, are left out here. -/
def Obligations.SensorsAndCollectorsRecord : Prop :=
  (∀ (t : Nat) (s : State),
    (∀ d bad parity, dieKind d = .tile ∨ dieKind d = .plane ∨ dieKind d = .caldera ∨ dieKind d = .is → s.collects d = true →
      bad.all (fun k => decide (1 ≤ k ∧ k ≤ 27)) = true →
      Runs (.clockCheckWindow t d bad parity) s (fun s' => (s'.die d).clockBad = bad ∧
        (bad ≠ [] → s'.stickyBit d 1 = true) ∧ (parity = true → s'.stickyBit d 2 = true) ∧ (∀ k, k ≠ d → s'.die k = s.die k) ∧ s'.ftc = s.ftc)) ∧
    (∀ (bad : List Nat) (parity : Bool), s.collects 1 = true → bad.all (fun k => decide (1 ≤ k ∧ k ≤ 27)) = true →
      Runs (.clockCheckWindow t 1 bad parity) s (fun s' => (s'.die 1).clockBad = bad ∧
        s'.ftc.stopped = (bad.contains 27 || bad.contains 18))) ∧
    (∀ (d : Nat) (v : Int), hasSensor d = true → -2048 ≤ v → v < 105 * 16 → s.boot.row = .readyOk →
      (∀ k, k ≠ d → (s.die k).tempValid = false) → s.therm.assertC.toNat * 16 ≤ v →
      Runs (.thermalSample t [(d, some v)]) s (fun s' =>
        (s'.die d).temp = BitVec.ofInt 12 v ∧ (s'.die d).tempValid = true ∧ s'.pins.thermLow = true ∧
        (∀ k, k ≠ d → s'.die k = s.die k) ∧ s'.sent = s.sent)) ∧
    (s.boot.row = .readyOk → Answers (.hThermNChange t true) s (fun s' =>
      s'.pins = { s.pins with hThermN := false, thermLow := true } ∧ s'.dies = s.dies ∧ s'.vent = s.vent)) ∧
    (s.boot.row ≠ .readyOk → s.vent.inSafe = false → Answers (.hThermNChange t true) s (fun s' =>
      s'.pins = { s.pins with hThermN := false, thermLow := false }))) ∧
  (∀ (t d bit : Nat) (count : Nat) (s : State), dieKind d ≠ .none → heldTwice d bit = true →
    (s.collects d = true →
      ((s.die d).alertLow = true → Runs (.ventHeartbeat t d) s (fun s' => s' = { s with now := max s.now t })) ∧
      ((s.die d).alertLow = false → Runs (.ventHeartbeat t d) s (fun s' => s'.sent = .heartbeat d :: s.sent ∧
        (s'.die d).heartbeatAt = max s.now t ∧ (∀ k, k ≠ d → s'.die k = s.die k))) ∧
      Runs (.vtOscCalibration t d (some count)) s (fun s' => (s'.die d).calHeld = false ∧
        (s'.die d).calCount = count ∧ (∀ k, k ≠ d → s'.die k = s.die k) ∧ s'.sent = s.sent) ∧
      Runs (.vtOscCalibration t d none) s (fun s' => (s'.die d).calHeld = true ∧
        (s'.die d).calCount = (s.die d).calCount ∧ (∀ k, k ≠ d → s'.die k = s.die k) ∧ s'.sent = s.sent) ∧
      ((s.die d).heartbeatAt + 100000 ≤ max s.now t →
        Runs (.aggLost t d) s (fun s' => s'.stickyBit 1 11 = true ∧
          (s.stickyBit 1 11 = false → tget 0 (s'.die 1).unitIdx 11 = d))) ∧
      (max s.now t < (s.die d).heartbeatAt + 100000 →
        Runs (.aggLost t d) s (fun s' => s' = { s with now := max s.now t }))) ∧
    (s.collects d = false → ∀ i ∈ [Instr.ventHeartbeat t d, .vtOscCalibration t d (some count), .aggLost t d, .vtSelf t d bit],
      Runs i s (fun s' => s' = { s with now := max s.now t }))) ∧
  (∀ (t d w src n : Nat) (f : Flaw) (hit : Bool) (s : State),
    skimSource d w = some src → s.skims d = true →
    let gddr : Prop := dieKind d = .caldera ∧ w = 9
    let pass := if dieKind d = .caldera ∧ w = 9 then 1 else 0
    let at_ := tget (0, 0) (s.die d).skimRow pass
    let mems := s.skimMems d pass
    let moved (s' : State) : Prop :=
      (∀ i, tget (0, 0) (s'.die d).skimRow i = (if i = pass then (skimNext mems at_.1 at_.2).1
        else tget (0, 0) (s.die d).skimRow i)) ∧
      (s'.die d).skimPasses = (if (skimNext mems at_.1 at_.2).2 then satInc (s.die d).skimPasses else (s.die d).skimPasses) ∧
      (s'.die d).aux0 = (if dieKind d = .caldera ∧ w = 9 then satAdd (s.die d).aux0 (min n 3) else (s.die d).aux0) ∧
      (∀ k, k ≠ d → s'.die k = s.die k)
    (∀ r, (mems[at_.1]?).map Prod.fst ≠ some w ∨ r ≠ at_.2 →
      Runs (.skimRead t d w r f hit n) s (fun s' => s' = { s with now := max s.now t })) ∧
    ((mems[at_.1]?).map Prod.fst = some w →
      (¬ gddr ∨ n ≤ 3 ∧ blockEnding (partOfRow s.shareRows at_.2).2 = none →
        Runs (.skimRead t d w at_.2 .none hit n) s (fun s' => moved s' ∧ (s'.die d).sticky = (s.die d).sticky ∧ s'.sent = s.sent) ∧
        Runs (.skimRead t d w at_.2 .corrected hit n) s (fun s' => moved s' ∧
          (hit = false → (s'.die d).symCe = satInc (s.die d).symCe ∧ s'.stickyBit d 4 = true) ∧
          (hit = true → (s'.die d).symCe = (s.die d).symCe ∧ (s'.die d).sticky = (s.die d).sticky ∧ s'.sent = s.sent))) ∧
      (dieKind d ≠ .caldera ∨ w = 9 ∧ n ≤ 3 ∨ s.rowHolders (d - 28) (skimBank w at_.2).1 (skimBank w at_.2).2 = [] ∧ w ≠ 9 →
        Runs (.skimRead t d w at_.2 .uncorrectable hit n) s (fun s' => moved s' ∧
          (s'.die d).symUe = satInc (s.die d).symUe ∧ s'.stickyBit d src = true)) ∧
      (gddr → 3 < n → let dev := rowDevice (partOfRow s.shareRows at_.2).2
        Runs (.skimRead t d w at_.2 f hit n) s (fun s' => moved s' ∧
          s'.stickyBit d 28 = true ∧ s'.stickyBit d src = true ∧ (s'.die d).symUe = satInc (s.die d).symUe ∧
          (tget ({} : MemCtl) (s'.caldera (d - 28)).mc dev).retrains =
            satInc (tget ({} : MemCtl) (s.caldera (d - 28)).mc dev).retrains))))

/-- STICKY_CLEAR by the owner (13 R403, 00 R9): exactly the sticky bits named by the mask clear on the die, but for those
that hardware sets in the same VT_OSC cycle, and the timers of the cleared bits stop; the other bits and, where no bit
is set in the same cycle, the other timers of the die stay, and so does every other die. A source whose condition
persists sets its bit again, so the clause is for a die on which none does. VENT_ENABLE_WRITE by the owner (13 R404,
R414): each of the 32 sources named whose enable can be written takes the bit written for it; the enables of the other
sources of the die, the sticky bits and the other dies stay. VENT_INJECT by the owner on a die other than TD (13
R414), with injection of bit 0 not opened: exactly the bits of the mask that name a source of the die other than bit 0
are set, as well as those set before. The writes of Vent by a master that is not the owner are dropped and counted (12
R376), and an access to a die that cannot be reached shows in the master's PK_ACC_STATUS and does nothing else (16
R475, R477); that the second goes before the first is the model's inference (log entry 12). Isolation (13 R405, R406):
an acknowledged unit is isolated, and its isolation is under way no longer; an isolation that is not acknowledged in
time puts the package into the safe state with cause 1 and the source that asked for it; before that time nothing
changes, and an acknowledgement of a unit whose isolation is not under way, or before the unit may acknowledge (the
model's inference from what R406 asks of each kind of unit, log entry 141), changes nothing. -/
def Obligations.VentRegistersWritten : Prop :=
  (∀ (t m d mask : Nat) (s : State),
    isMaster m = true → s.isOwner m = true → dieKind d ≠ .none → mask < 2 ^ 64 → s.reachable d = true →
    (∀ i, i < 64 → (s.tick t).persisting d i = none) →
    let just (i : Nat) : Bool := (s.tick t).justSet oscCycle (wbSticky d i)
    Served (.stickyClear t m d mask) s (fun s' =>
      (∀ i, i < 64 → s'.stickyBit d i = (s.stickyBit d i && !(bitOf mask i && !just i))) ∧
      ((∀ i, i < 64 → just i = false) → ∀ i, i < 64 → tget none (s'.die d).timers i =
          if s.stickyBit d i && bitOf mask i then none else tget none (s.die d).timers i) ∧
      (∀ k, k ≠ d → s'.die k = s.die k) ∧ s'.vent = s.vent ∧ s'.sent = s.sent ∧ s'.tiles = s.tiles ∧
      s'.calderas = s.calderas ∧ s'.masters = s.masters)) ∧
  (∀ (t m d v : Nat) (hi : Bool) (s : State),
    isMaster m = true → s.isOwner m = true → dieKind d ≠ .none → v < 2 ^ 32 → s.reachable d = true →
    let lo := if hi then 32 else 0
    Served (.ventEnableWrite t m d hi v) s (fun s' =>
      (∀ i, i < 32 → s'.sourceEnabled d (lo + i) =
        if sourceWritable d (lo + i) then bitOf v i else s.sourceEnabled d (lo + i)) ∧
      (∀ j, j < lo ∨ lo + 32 ≤ j → s'.sourceEnabled d j = s.sourceEnabled d j) ∧
      (s'.die d).sticky = (s.die d).sticky ∧ (∀ k, k ≠ d → s'.die k = s.die k) ∧ s'.sent = s.sent ∧
      s'.vent = s.vent)) ∧
  (∀ (t m d mask : Nat) (s : State),
    isMaster m = true → s.isOwner m = true → dieKind d ≠ .none → d ≠ 1 → mask < 2 ^ 64 → s.reachable d = true →
    s.trust.scope.getLsbD 1 = false →
    Served (.ventInject t m d mask) s (fun s' =>
      (∀ i, i < 64 → s'.stickyBit d i =
        (s.stickyBit d i || (bitOf mask i && sourceListed d i && decide (i ≠ 0)))) ∧
      (∀ k, k ≠ d → s'.die k = s.die k) ∧ s'.vent = s.vent ∧ s'.pins = s.pins)) ∧
  (∀ (t m d mask v : Nat) (hi : Bool) (s : State),
    isMaster m = true → dieKind d ≠ .none → mask < 2 ^ 64 → v < 2 ^ 32 →
    ∀ i ∈ [Instr.stickyClear t m d mask, .ventEnableWrite t m d hi v, .ventInject t m d mask],
      (s.reachable d = true → (s.tick t).mayWrite m = false →
        Served i s (fun s' => s' = { s.refuseWrite m with now := max s.now t })) ∧
      (s.reachable d = false → Served i s (fun s' =>
        s' = accessRefused m (some d) (s.tick t) ∧
        (s'.master m).unreachable = true ∧ (s'.master m).accDie = BitVec.ofNat 8 d ∧
        (s'.master m).accCount = satInc (s.master m).accCount))) ∧
  (∀ (t d idx : Nat) (s : State), d < 104 → idx < 256 →
    (s.isolatingAt d idx = none → ∀ c ∈ [Instr.isolationAck t d idx, .isolationTimeout t d idx],
      Runs c s (fun s' => s' = { s with now := max s.now t })) ∧
    ∀ i : Isolating, s.isolatingAt d idx = some i →
    ((s.tick t).mayAck i.unit = false → Runs (.isolationAck t d idx) s (fun s' => s' = { s with now := max s.now t })) ∧
    ((s.tick t).mayAck i.unit = true → Runs (.isolationAck t d idx) s (fun s' =>
      ((i.unit.kind = .pool → i.unit.idx < 4) → (i.unit.kind = .engine → i.unit.idx < 8) → s'.unitIsolated i.unit = true) ∧
      (∀ j, j ∈ s'.vent.isolating ↔ j ∈ s.vent.isolating ∧ j.unit ≠ i.unit) ∧ s'.vent.inSafe = s.vent.inSafe ∧
      (∀ k, k ≠ i.unit.die → s'.die k = s.die k) ∧ s'.tiles = s.tiles ∧ s'.ports = s.ports ∧ s'.engines = s.engines)) ∧
    (s.vent.inSafe = false → (s.tick t).ventDue d i.startedAt i.isoUs = true → Runs (.isolationTimeout t d idx) s (fun s' =>
      s'.vent.inSafe = true ∧ s'.vent.cause = 1 ∧ s'.vent.die = BitVec.ofNat 8 i.srcDie ∧
      s'.vent.source = BitVec.ofNat 6 i.src)) ∧
    ((s.tick t).ventDue d i.startedAt i.isoUs = false → Runs (.isolationTimeout t d idx) s (fun s' =>
      s' = { s with now := max s.now t })))

/-- The safe state (13 R407, R409, R410, R415, 02 R45): VT_SELF of a die whose collector runs enters it with cause 2, and
the owner's ENTER_SAFE with cause 5; phase SAFE, the VT_SAFE line and SAFE_N show it; no engine is to start, every
engine that runs and every tile that admits flows is asked to come down through its fall bucket, and no engine,
admission or pacing rises any longer; no invocation is open, and the timers run on (R404). VT_SELF is found when a bit
of the state that the collector holds in true and complemented form differs in the two (R407). In it already,
ENTER_SAFE changes nothing, and a master that is not the owner cannot command it. The safe record (13 R412): in the
safe state, with none written yet, SAFE_RECORD_WRITE marks it written, whether or not the copies of the image store
read back (16 R479; that it starts and ends within one command is the model's choice, log entry 275); a warm package
reset that waits for it then starts; and once it is written, or outside the safe state, nothing changes. A timer of
Vent that has run out and that no clear of the owner takes in the same cycle (13 R405, R406, R408): every unit that
the source names is isolated or under isolation; a source that only records loses its timer and does nothing else; one
that names a switch plane starts the isolation of the plane, which leaves service for fault (cause 2); and a source
that names no unit, as VT_SELF, CLK_LOSS, CFG_PARITY and D2D_FAIL of TD or the image store, AGG_LOST of the image
store, THERM_TRIP, and THERM_HIGH where a die that has no unit of its own reads 105 °C, puts the package into the safe
state with cause 4, its collector holding VT_ALERT_N low. A timer that has not run out, or whose bit the owner clears
in the same cycle, changes nothing (which commands count as one of the cycle is log entry 231); in the safe state one
that runs out is gone, and nothing more (the model's choice, log entry 259). -/
def Obligations.SafeStateEnteredAndRecorded : Prop :=
  (∀ (t m d bit : Nat) (s : State), isMaster m = true →
    let safeNow (cause : BitVec 4) (s' : State) : Prop :=
      s'.vent.inSafe = true ∧ s'.vent.cause = cause ∧ s'.boot.phase = .safe ∧ s'.pins.vtSafe = true ∧
      s'.pins.safeLow = true ∧ s'.invs = [] ∧ s'.float.starts = [] ∧ s'.vent.isolating = [] ∧
      (∀ k, k ≠ d ∨ cause = 5 → (s'.die k).timers = (s.die k).timers) ∧
      (∀ e, e < 64 → (s.engine e).running = true → ∃ x ∈ s'.float.waiting,
        x.past = false ∧ x.change = .engine ∧ x.up = false ∧ x.die = 28 + e / 8 ∧ x.unit = e % 8) ∧
      (∀ k, k < 16 → tget 0 s.admitted k ≠ 0 → ∃ x ∈ s'.float.waiting,
        x.past = false ∧ x.change = .admission ∧ x.up = false ∧ x.die = 4 + k ∧ x.steps = tget 0 s.admitted k) ∧
      (∀ x ∈ s'.float.waiting, x.past = false → x.change = .engine ∨ x.change = .admission ∨ x.change = .pacing → x.up = false)
    (s.vent.inSafe = false → s.isOwner m = true → Served (.enterSafe t m) s (safeNow 5)) ∧
    (s.vent.inSafe = false → dieKind d ≠ .none → s.collects d = true → heldTwice d bit = true →
      (s.die d).copyDiff.getLsbD bit = false →
      Runs (.vtSelf t d bit) s (fun s' => safeNow 2 s' ∧ s'.stickyBit d 0 = true ∧ (s'.die d).alertLow = true ∧ s'.vent.die = BitVec.ofNat 8 d)) ∧
    (s.vent.inSafe = true → s.isOwner m = true →
      Served (.enterSafe t m) s (fun s' => s' = { s with now := max s.now t })) ∧
    ((s.tick t).mayWrite m = false → Served (.enterSafe t m) s (fun s' => s' = { s.refuseWrite m with now := max s.now t }))) ∧
  (∀ (t : Nat) (badA badB : Bool) (s : State),
    (s.vent.inSafe = true → s.vent.recordWritten = false → s.vent.warmWaits = false →
      Runs (.safeRecordWrite t badA badB) s (fun s' => s'.vent = { s.vent with recordWritten := true } ∧ s'.dies = s.dies ∧
        s'.tiles = s.tiles ∧ s'.sent = s.sent ∧ s'.own = s.own)) ∧
    (s.vent.inSafe = true → s.vent.recordWritten = false → s.vent.warmWaits = true →
      Runs (.safeRecordWrite t badA badB) s (fun s' => s'.vent = State.reset.vent ∧ s'.boot.cause = 3 ∧
        s'.rstCtl.go = true ∧ s'.boot.row = .held ∧ s'.own = State.reset.own ∧ s'.tiles = [] ∧ s'.ports = [])) ∧
    (s.vent.inSafe = false ∨ s.vent.recordWritten = true →
      Runs (.safeRecordWrite t badA badB) s (fun s' => s' = { s with now := max s.now t }))) ∧
  (∀ (t d src : Nat) (tm : VTimer) (s : State),
    dieKind d ≠ .none → src < 64 → tget none (s.die d).timers src = some tm →
    let comes : Bool := (s.tick t).clearComes d src
    (s.vent.inSafe = true → (s.tick t).ventDue d tm.startedAt tm.windowUs = true → comes = false →
      Runs (.ventTimerExpiry t d src) s (fun s' =>
        s' = { s.modDie d (fun x => { x with timers := tset none x.timers src none }) with now := max s.now t })) ∧
    (s.vent.inSafe = false →
    ((s.tick t).ventDue d tm.startedAt tm.windowUs = true → comes = false → ∀ us, s.unitsOf d src = some us →
      Runs (.ventTimerExpiry t d src) s (fun s' => s'.vent.inSafe = false ∧
        (∀ u ∈ us, (u.kind = .pool → u.idx < 4) → s'.unitIsolated u = true ∨ s'.unitIsolating u = true) ∧
        (us = [] → s' = { s.modDie d (fun x => { x with timers := tset none x.timers src none }) with
                          now := max s.now t }))) ∧
    ((s.tick t).ventDue d tm.startedAt tm.windowUs = true → comes = false → dieKind d = .plane → src = 8 →
      s.unitIsolated { kind := .plane, die := d, idx := 0xFF } = false →
      s.unitIsolating { kind := .plane, die := d, idx := 0xFF } = false →
      (s.plane (d - 20)).inService = true →
      Runs (.ventTimerExpiry t d src) s (fun s' => tget none (s'.die d).timers src = none ∧
        (s'.plane (d - 20)).inService = false ∧ (s'.plane (d - 20)).cause = 2 ∧
        s'.vent.isolating = s.vent.isolating ++ [{ unit := { kind := .plane, die := d, idx := 0xFF }, srcDie := d
                                                   src := 8, startedAt := max s.now t, isoUs := s.vent.isoUs.toNat }] ∧
        s'.vent.inSafe = false)) ∧
    ((s.tick t).ventDue d tm.startedAt tm.windowUs = true → comes = false → s.unitsOf d src = none →
      Runs (.ventTimerExpiry t d src) s (fun s' => tget none (s'.die d).timers src = none ∧
        s'.vent.inSafe = true ∧ s'.vent.cause = 4 ∧ s'.vent.die = BitVec.ofNat 8 d ∧
        s'.vent.source = BitVec.ofNat 6 src ∧ (s'.die d).alertLow = true))) ∧
    ((s.tick t).ventDue d tm.startedAt tm.windowUs = false ∨ comes = true →
      Runs (.ventTimerExpiry t d src) s (fun s' => s' = { s with now := max s.now t })))

/-- Training starts (03 R74, 01 R16, R25, 02 R39, R56): an enabled port in OFF, out of isolation, from phase CONFIG on,
with its reference good and no module of its lanes failed, goes to DETECT with its lanes asked for through Float; a
lane in DETECT that is enabled and sees a signal goes to COARSE, and one that converged in COARSE to ALIGN; and 100 ms
in DETECT without a signal shows the reason NO_SIGNAL and does nothing else. Lock (03 R72, R77, R101): a frame whose
marker verifies one frame after the last gives a lane lock and notes the raw bit position and the polarity; the third
marker missed in a row on a locked lane loses it, and a slot that does not verify is counted; LOCK_LOST loses it at
once; and a lane that loses lock has no ordered sets in a row any longer and takes a port that carries cells into
retraining with the reason LOCK_LOST. The codewords of every slot are counted. Equalization (03 R74, R75, R101): a
good TS1 in ALIGN is counted and the eighth in a row takes the lane to EQUALIZE; one that does not verify clears the
count and is counted in the lane's ignored slots; and in EQUALIZE a satisfied receiver stops asking and a receiver
that is not asks for what it wants. A coefficient request moves a tap by one step within its range; one of c0 alone
moves no tap and reports "at limit" (the model's reading, log entry 208), and a request that the TS1 before also
carried steps again (the model's choice, log entry 266). The codewords of every slot are counted. Timers of training
(03 R74, R76, R81, R99): IDENTIFY for 10 ms fails the attempt with TRAIN_TIMEOUT, and every third failed attempt in a
row waits in HOLDOFF where the others start again in DETECT; CONFIG for 10 ms fails it with LANE_MAP where the TS2 do
not meet R76, and with TRAIN_TIMEOUT otherwise; one second of HOLDOFF, or 1 ms without lock on a port held DOWN for
VERSION_REFUSED, starts again in DETECT. -/
def Obligations.TrainingStartsAndLocks : Prop :=
  (∀ (t p l : Nat) (s : State), p < 512 → l < 512 →
    (s.portEnabled p = true → (s.port p).state = .off → s.portIsolated p = false →
      s.boot.row = .configOk ∨ s.boot.row = .memoryOk ∨ s.boot.row = .readyOk →
      s.dieUp (36 + laneDieOf p) = true → (s.die (36 + laneDieOf p)).clockBad = [] → (s.laneDie (laneDieOf p)).failed = 0 →
      Runs (.portEnable t p) s (fun s' => (s'.port p).state = .detect ∧ (s'.port p).since = max s.now t ∧
        (∀ k ∈ s.portLanes p, (s'.lane k).state = .detect ∧ (s'.lane k).locked = false ∧
          (s'.lane k).since = max s.now t) ∧ s'.laneDies = s.laneDies ∧ s'.tiles = s.tiles)) ∧
    (s.laneMode l = .detect → (s.lane l).enabled = true → (s.port (s.portOfLane l)).linkDown = false →
      Runs (.signalDetect t l) s (fun s' => (s'.lane l).state = .coarse ∧ (s'.lane l).since = max s.now t ∧
        (∀ k, k ≠ l → s'.lane k = s.lane k) ∧ s'.sent = s.sent)) ∧
    (s.laneMode l = .coarse → Runs (.coarseConverged t l) s (fun s' =>
      (s'.lane l).state = .align ∧ (s'.lane l).locked = false ∧ (s'.lane l).since = max s.now t ∧
      (∀ k, k ≠ l → s'.lane k = s.lane k) ∧ s'.sent = s.sent)) ∧
    ((s.port p).state = .detect → (s.port p).linkDown = false →
      (s.portLanes p).any (fun k => (s.lane k).state == .detect && decide ((s.lane k).since + 100000000 ≤ max s.now t)) = true →
      Runs (.noSignalTimeout t p) s (fun s' =>
        s' = { s.modPort p (fun x => { x with reason := .noSignal }) with now := max s.now t }))) ∧
  (∀ (t l pos frac corr unc : Nat) (inverted : Bool) (slot : List Byte) (s : State),
    l < 512 → frac < 65536 → slot.length = 264 →
    let p := s.portOfLane l
    let counted (s' : State) : Prop := (s'.lane l).fecCorrected = satAdd (s.lane l).fecCorrected corr ∧
      (s'.lane l).fecUncorrectable = satAdd (s.lane l).fecUncorrectable unc
    let lost (s' : State) : Prop := (s'.lane l).locked = false ∧ (s'.lane l).lostAt = some (max s.now t) ∧
      (s'.lane l).goodTs = 0 ∧ (s'.lane l).partnerDone = 0 ∧
      ((s.port p).state.up = true → (s'.port p).state = .detect ∧ (s'.port p).reason = .lockLost ∧
        (s'.port p).linkDown = true)
    (s.framed l = true → (s.port p).state.up = false → sliceOf slot 36 16 = frameMarker → osCrcOk slot = true →
      byteAt slot 0 = 1 → (s.lane l).markerAt = some (pos - 2872320) → 2872320 ≤ pos →
      Runs (.frameReceived t l pos frac inverted slot corr unc) s (fun s' => counted s' ∧ (s'.lane l).locked = true ∧
        (s'.lane l).markerAt = some pos ∧ (s'.lane l).missed = 0 ∧ (s'.lane l).inverted = inverted ∧
        (s'.lane l).rxFrame.map Prod.fst = some (fieldOf slot 52 4) ∧ (∀ k, k ≠ l → s'.lane k = s.lane k))) ∧
    (s.framed l = true → (s.lane l).locked = true → sliceOf slot 36 16 ≠ frameMarker →
      (2 ≤ (s.lane l).missed → Runs (.frameReceived t l pos frac inverted slot corr unc) s (fun s' => counted s' ∧ lost s')) ∧
      ((s.lane l).missed < 2 → Runs (.frameReceived t l pos frac inverted slot corr unc) s (fun s' => counted s' ∧
        (s'.lane l).locked = true ∧ (s'.lane l).missed = (s.lane l).missed + 1 ∧ s'.ports = s.ports ∧
        (s'.lane l).osCrc = (if osCrcOk slot = true ∧ 1 ≤ (byteAt slot 0).toNat ∧ (byteAt slot 0).toNat ≤ 7
          then (s.lane l).osCrc else satInc (s.lane l).osCrc)))) ∧
    ((s.lane l).locked = true → Runs (.lockLost t l) s lost)) ∧
  (∀ (t l corr unc : Nat) (slot : List Byte) (sat : Bool) (want : Byte) (s : State),
    l < 512 → slot.length = 264 → (s.lane l).locked = true →
    let counted (s' : State) : Prop := (s'.lane l).fecCorrected = satAdd (s.lane l).fecCorrected corr ∧
      (s'.lane l).fecUncorrectable = satAdd (s.lane l).fecUncorrectable unc
    (osCrcOk slot = true → byteAt slot 0 = 3 → byteAt slot 38 = 0x04 → s.laneMode l = .align → (s.lane l).goodTs < 7 →
      -19 ≤ (s.lane l).cm1 → (s.lane l).cm1 < 0 →
      Runs (.ts1Received t l slot sat want corr unc) s (fun s' => counted s' ∧ (s'.lane l).goodTs = (s.lane l).goodTs + 1 ∧
        (s'.lane l).state = (s.lane l).state ∧ (s'.lane l).cm1 = (s.lane l).cm1 + 1 ∧
        (s'.lane l).coeffStatus = 0x04 ∧ (s'.lane l).cm2 = (s.lane l).cm2 ∧ (s'.lane l).cp1 = (s.lane l).cp1 ∧
        (∀ k, k ≠ l → s'.lane k = s.lane k))) ∧
    (osCrcOk slot = true → byteAt slot 0 = 3 → byteAt slot 38 = 0x10 → s.laneMode l = .align → (s.lane l).goodTs < 7 →
      Runs (.ts1Received t l slot sat want corr unc) s (fun s' => counted s' ∧ (s'.lane l).coeffStatus = 0x20 ∧
        (s'.lane l).cm2 = (s.lane l).cm2 ∧ (s'.lane l).cm1 = (s.lane l).cm1 ∧ (s'.lane l).cp1 = (s.lane l).cp1)) ∧
    (osCrcOk slot = true → byteAt slot 0 = 3 → s.laneMode l = .align → (s.lane l).goodTs = 7 →
      Runs (.ts1Received t l slot sat want corr unc) s (fun s' => counted s' ∧ (s'.lane l).state = .equalize ∧
        (s'.lane l).goodTs = 0 ∧ (∀ k, k ≠ l → s'.lane k = s.lane k))) ∧
    (osCrcOk slot = true → byteAt slot 0 = 3 → s.laneMode l = .equalize → (s.lane l).ownDone < 8 →
      Runs (.ts1Received t l slot sat want corr unc) s (fun s' => counted s' ∧ (s'.lane l).eqDone = ((s.lane l).eqDone || sat) ∧
        (s'.lane l).coeffReq = (if (s.lane l).eqDone || sat then 0 else want) ∧
        (s'.lane l).state = (s.lane l).state)) ∧
    (osCrcOk slot = false → s.laneMode l = .align ∨ s.laneMode l = .equalize →
      Runs (.ts1Received t l slot sat want corr unc) s (fun s' => counted s' ∧ (s'.lane l).osCrc = satInc (s.lane l).osCrc ∧
        (s'.lane l).goodTs = 0 ∧ (s'.lane l).partnerDone = 0 ∧ (s'.lane l).cm1 = (s.lane l).cm1 ∧
        s'.ports = s.ports))) ∧
  (∀ (t p : Nat) (s : State), p < 512 →
    ((s.port p).linkDown = false → (s.port p).state = .identify → (s.port p).since + 10000000 ≤ max s.now t →
      Runs (.trainingTimeout t p) s (fun s' => (s'.port p).reason = .trainTimeout ∧
        (s'.port p).attempts = (s.port p).attempts + 1 ∧
        (s'.port p).state = (if ((s.port p).attempts + 1) % 3 = 0 then .holdoff else .detect) ∧
        (∀ k ∈ s.portLanes p, (s'.lane k).state = .detect))) ∧
    ((s.port p).linkDown = false → (s.port p).state = .config →
      (∃ k ∈ s.portLanes p, (s.lane k).state = .config ∧ (s.lane k).since + 10000000 ≤ max s.now t) →
      Runs (.trainingTimeout t p) s (fun s' =>
        (s'.port p).reason = (if s.laneMapOk p then .trainTimeout else .laneMap) ∧
        (s'.port p).attempts = (s.port p).attempts + 1)) ∧
    ((s.port p).state = .holdoff → (s.port p).since + 1000000000 ≤ max s.now t →
      Runs (.holdoffExpiry t p) s (fun s' => (s'.port p).state = .detect ∧ (s'.port p).since = max s.now t ∧
        (s'.port p).attempts = (s.port p).attempts)) ∧
    ((s.port p).state = .holdoff → max s.now t < (s.port p).since + 1000000000 →
      Runs (.holdoffExpiry t p) s (fun s' => s' = { s with now := max s.now t })) ∧
    ((s.port p).state = .down → (s.port p).reason = .versionRefused →
      (∃ k ∈ s.portLanes p, ∃ a, (s.lane k).lostAt = some a ∧ a + 1000000 ≤ max s.now t) →
      Runs (.partnerRestart t p) s (fun s' => (s'.port p).state = .detect)))

/-- QUIESCE and LINK_DOWN (03 R73, R77, R79): QUIESCE takes an ACTIVE port to QUIESCED and marks where it came from; when
it ends, a port whose wiring entry did not change goes back, ACTIVE or QUARANTINE; and LINK_DOWN takes a port that
carries cells into retraining for PARTNER_DOWN with one retraining counted. RETRY_TIMEOUT (03 R91): where cells are
unacknowledged and no acknowledgement has advanced for 10 µs, all of them are sent again from the oldest, the timeout
is counted and a run of resends from that seq is counted up; the resend after eight in a row from one seq makes the
port retrain with RETRY_EXHAUSTED instead (R91 says eight resends in a row; that eight are made and the ninth retrains
is the model's reading, log entry 36). While the port sends no data cells, QUIESCED, in the safe state or in the
power-fault ramp, its retry state stands (R73). CONFIG and IDENTIFY (03 R76, R78, R81, R83, R101): a good TS2 of
partner lane index 0 sets the credits that the partner grants and is counted; an IDENT of another major version puts
the port into DOWN for VERSION_REFUSED; one of this version gives the port its minor version, the features that both
sides have, and the state that the comparison with its wiring entry gives; one that does not verify is ignored and
counted on the lane that receives the partner's lane index 0, the first lane of the port where none is known to; and
outside IDENTIFY an IDENT changes no port. The codewords of every slot are counted. An entry with the reserved mode
0b11 acts as OPEN (the model's choice, log entry 210). -/
def Obligations.LinksQuiesceFallAndResend : Prop :=
  (∀ (t p l : Nat) (s : State), p < 512 → l < 512 →
    ((s.port p).state = .active → Runs (.quiesceReceived t p) s (fun s' =>
      (s'.port p).state = .quiesced ∧ (s'.port p).quiescedFrom = .active ∧ (s'.port p).wireChanged = false ∧
      (s'.port p).replay = (s.port p).replay ∧ s'.lanes = s.lanes)) ∧
    ((s.port p).state = .quiesced → (s.port p).wireChanged = false →
      Runs (.quiesceEnd t p) s (fun s' =>
        (s'.port p).state = (if (s.port p).quiescedFrom = .quarantine then .quarantine else .active) ∧
        (s'.port p).replay = (s.port p).replay ∧ s'.lanes = s.lanes)) ∧
    ((s.port (s.portOfLane l)).state.up = true → Runs (.linkDownReceived t l) s (fun s' =>
      (s'.port (s.portOfLane l)).state = .detect ∧ (s'.port (s.portOfLane l)).reason = .partnerDown ∧
      (s'.port (s.portOfLane l)).linkDown = true ∧ (s'.port (s.portOfLane l)).replay = [] ∧
      (s'.port (s.portOfLane l)).cRetrains = satInc (s.port (s.portOfLane l)).cRetrains)) ∧
    ((s.port (s.portOfLane l)).state.up = false →
      Runs (.linkDownReceived t l) s (fun s' => s' = { s with now := max s.now t }))) ∧
  (∀ (t p : Nat) (c : SentCell) (cs : List SentCell) (s : State), p < 512 →
    (s.port p).replay = c :: cs →
    ((s.port p).state = .quiesced ∨ s.halted = true →
      Runs (.retryTimeout t p) s (fun s' => s' = { s with now := max s.now t })) ∧
    (max s.now t < (s.port p).ackAt + 10000 →
      Runs (.retryTimeout t p) s (fun s' => s' = { s with now := max s.now t })) ∧
    ((s.port p).state = .active ∨ (s.port p).state = .quarantine → s.halted = false →
      (s.port p).ackAt + 10000 ≤ max s.now t →
      (∀ n, (s.port p).resendRun = some (c.seq, n) → n < 8 → Runs (.retryTimeout t p) s (fun s' =>
        (s'.port p).resend = c :: cs ∧ (s'.port p).replay = c :: cs ∧ (s'.port p).resendRun = some (c.seq, n + 1) ∧
        (s'.port p).cTimeouts = satInc (s.port p).cTimeouts ∧ (s'.port p).state = (s.port p).state)) ∧
      ((s.port p).resendRun = some (c.seq, 8) → Runs (.retryTimeout t p) s (fun s' =>
        (s'.port p).state = .detect ∧ (s'.port p).reason = .retryExhausted ∧ (s'.port p).replay = [] ∧
        (s'.port p).cTimeouts = (s.port p).cTimeouts)))) ∧
  (∀ (t p l corr unc : Nat) (slot : List Byte) (s : State),
    p < 512 → l < 512 → slot.length = 264 → osCrcOk slot = true →
    let first := ((s.portLanes p).find? s.isIndex0).getD p
    let counted (l : Nat) (s' : State) : Prop := (s'.lane l).fecCorrected = satAdd (s.lane l).fecCorrected corr ∧
      (s'.lane l).fecUncorrectable = satAdd (s.lane l).fecUncorrectable unc
    (s.laneMode l = .config → (s.port (s.portOfLane l)).linkDown = false → byteAt slot 0 = 4 → byteAt slot 47 = 0 →
      (s.lane l).ts2 = none → (s.lane l).goodTs < 7 →
      Runs (.ts2Received t l slot corr unc) s (fun s' => counted l s' ∧ (s'.lane l).goodTs = (s.lane l).goodTs + 1 ∧
        (s'.lane l).ts2 = some (fieldOf slot 36 8, fieldOf slot 44 2, (byteAt slot 46).toNat, 0) ∧
        (∀ k, k < 16 → ((s'.port (s.portOfLane l)).pair k).granted = fieldOf slot (48 + 2 * k) 2) ∧
        (∀ k, k ≠ l → s'.lane k = s.lane k))) ∧
    ((s.port p).state = .identify → byteAt slot 0 = 5 → byteAt slot 64 ≠ 3 →
      Runs (.identReceived t p slot corr unc) s (fun s' => (s'.port p).state = .down ∧
        (s'.port p).reason = .versionRefused ∧ (s'.port p).partner = sliceOf slot 36 36)) ∧
    ((s.port p).state = .identify → byteAt slot 0 = 5 → byteAt slot 64 = 3 →
      let minor := min 2 (byteAt slot 65).toNat
      let named : Bool := fieldOf slot 36 8 == (s.port p).wireSerial.toNat && fieldOf slot 44 2 == (s.port p).wirePort.toNat
      Runs (.identReceived t p slot corr unc) s (fun s' => (s'.port p).partner = sliceOf slot 36 36 ∧
        (s'.port p).flpMinor = BitVec.ofNat 4 minor ∧
        (s'.port p).features = BitVec.ofNat 2 (if minor = 2 then fieldOf slot 66 2 % 4 else 0) ∧
        (s'.port p).state = (if (s.port p).wireMode = 2 then .down
          else if (s.port p).wireMode = 1 ∧ named = false then .quarantine else .active))) ∧
    (∀ bad : List Byte, bad.length = 264 → osCrcOk bad = false → (s.port p).state = .identify →
      Runs (.identReceived t p bad corr unc) s (fun s' => s'.ports = s.ports ∧ s'.tiles = s.tiles ∧
        counted first s' ∧ (s'.lane first).osCrc = satInc (s.lane first).osCrc ∧
        ∀ j, j ≠ first → s'.lane j = s.lane j)) ∧
    ((s.port p).state ≠ .identify → Runs (.identReceived t p slot corr unc) s (fun s' => s'.ports = s.ports ∧
      counted first s' ∧ s'.tiles = s.tiles ∧ s'.sent = s.sent)))

/-- Cells received (03 R66 to R69, R80, R85, R86, R89, R90, R101). On a port of one lane that carries cells, on a tile
that runs, the package not halted, out of retry error state, a data cell on a lane that is not partner lane index 0:
in order, and complete in itself, it becomes a whole ingress packet and the expected seq moves on by one; with a CRC
that does not verify, or over an uncorrectable codeword, the port enters retry error state with the next nak
identifier; and a seq already taken changes nothing. Over several lanes a cell waits until every lane has passed its
slot, but a credit report on partner lane index 0 is applied at once: it sets the credits returned on its pair to the
next value with these low 8 bits, or retrains the port for CREDIT_ERR where that exceeds the cells sent. Codewords are
counted, and so is a CRC that does not verify. Control slots received (03 R70, R71, R73, R77, R89, R101): on a framed
lane the codewords are counted, and a slot that does not verify, or whose type is reserved, is ignored and counted;
LINK_DOWN on a lane of a port that carries cells makes it retrain for PARTNER_DOWN, QUIESCE on partner lane index 0
takes an ACTIVE port to QUIESCED, and another ordered set changes no port; an acknowledgement in the header, on
partner lane index 0 with ack_valid and no nak, frees the cells up to it. A lane without frames takes no slot. Control
slots sent (03 R62, R70 to R74, R328): a framed lane sends one 264-byte slot: a FRAME (1) in slot 0 of its frame;
elsewhere QUIESCE (6) on a port that carries cells in the safe state, and otherwise what the state of its lane sends:
TS1 (3), TS2 (4), IDENT (5) on lane index 0 of a port in IDENTIFY, LINK_DOWN (7) in DOWN, and IDLE_OS (2) in the
others (in the safe state too: the model's inference, log entry 264). Its bytes enter the FEC as they leave the
scrambler, a codeword that they fill leaves as PAM4 levels, and the lane moves on; in a cell slot, or without frames,
it sends no control slot. -/
def Obligations.LinkWordsReceivedAndSent : Prop :=
  (∀ (t l corr unc : Nat) (b : List Byte) (failed : Bool) (s : State),
    l < 512 → b.length = 264 → (unc = 0 ∨ failed = true) → s.framed l = true →
    let p := s.portOfLane l
    let good := crc32c (sliceOf b 0 4 ++ sliceOf b 8 256) = BitVec.ofNat 32 (fieldOf b 4 4)
    let d := (BitVec.ofNat 12 (fieldOf b 1 2) - (s.port p).expected).toNat
    let counted (s' : State) : Prop := (s'.lane l).fecCorrected = satAdd (s.lane l).fecCorrected corr ∧
      (s'.lane l).fecUncorrectable = satAdd (s.lane l).fecUncorrectable unc
    ((s.port p).state = .active → s.halted = false → (s.port p).rxError = false → s.isIndex0 l = false →
      s.dieRuns (4 + tileOf p) = true → s.portLanes p = [l] → (s.lane l).rxCells = [] → (s.lane l).rxSlot < frameSlots →
      (good → failed = false → d = 0 → bitsOf (byteAt b 0).toNat 0 4 = 4 → tget {} (s.port p).pairs (2 * bitsOf (byteAt b 0).toNat 4 3 + bitsOf (byteAt b 0).toNat 7 1) = {} →
        Runs (.cellReceived t l b corr ⟨unc, failed⟩) s (fun s' => counted s' ∧ (s'.port p).expected = (s.port p).expected + 1 ∧
          s'.inPkt s.nextId = some { port := p, pair := 2 * bitsOf (byteAt b 0).toNat 4 3 + bitsOf (byteAt b 0).toNat 7 1
                                     bytes := sliceOf b 8 256, cells := 1, whole := true, verdict := .pending
                                     streams := [], final := 0 } ∧ s'.nextId = s.nextId + 1)) ∧
      ((good → failed = true) → Runs (.cellReceived t l b corr ⟨unc, failed⟩) s (fun s' => counted s' ∧
        (good → (s'.lane l).cellCrc = (s.lane l).cellCrc) ∧ (¬ good → (s'.lane l).cellCrc = satInc (s.lane l).cellCrc) ∧
        (s'.port p).rxError = true ∧
        (s'.port p).nakId = (s.port p).nakId + 1 ∧ (s'.port p).expected = (s.port p).expected ∧ s'.inPkts = s.inPkts)) ∧
      (good → failed = false → bitsOf (byteAt b 0).toNat 0 4 ≠ 0 → 2048 ≤ d →
        Runs (.cellReceived t l b corr ⟨unc, failed⟩) s (fun s' =>
          counted s' ∧ s'.ports = s.ports ∧ s'.inPkts = s.inPkts ∧ s'.sent = s.sent))) ∧
    ((s.port p).state.up = true → (∀ k ∈ s.portLanes p, (s.lane k).rxCells = []) →
      (∃ k ∈ s.portLanes p, k ≠ l ∧ (s.lane k).rxSlot = (s.lane l).rxSlot) → (s.lane l).rxSlot < frameSlots →
      let k := bitsOf (fieldOf b 1 2) 12 4
      let r := ((s.port p).pair k).returned
      let r' := r + ((byteAt b 3).toNat + 256 - r % 256) % 256
      let reports : Prop := s.isIndex0 l = true ∧ good ∧ failed = false
      (reports → ((s.port p).pair k).sentCells < r' → Runs (.cellReceived t l b corr ⟨unc, failed⟩) s (fun s' => counted s' ∧
        (s'.port p).state = .detect ∧ (s'.port p).reason = .creditErr ∧ (s'.port p).linkDown = true)) ∧
      (¬ reports ∨ r' ≤ ((s.port p).pair k).sentCells →
        Runs (.cellReceived t l b corr ⟨unc, failed⟩) s (fun s' => counted s' ∧ s'.inPkts = s.inPkts ∧
        (¬ reports → s'.ports = s.ports) ∧ (reports → ((s'.port p).pair k).returned = r' ∧
          (s'.port p).expected = (s.port p).expected ∧ (s'.port p).state = (s.port p).state) ∧
        (s'.lane l).rxCells.map (fun c => (c.1, c.2.1)) = [((s.lane l).rxSlot, b)] ∧
        (s'.lane l).rxSlot = nextSlot (s.lane l).rxSlot ∧ (∀ k, k ≠ l → s'.lane k = s.lane k))))) ∧
  (∀ (t l corr unc : Nat) (b : List Byte) (s : State),
    l < 512 → b.length = 264 →
    let p := s.portOfLane l
    let counted (s' : State) : Prop := (s'.lane l).fecCorrected = satAdd (s.lane l).fecCorrected corr ∧
      (s'.lane l).fecUncorrectable = satAdd (s.lane l).fecUncorrectable unc
    (s.framed l = false → Runs (.controlSlotReceived t l b corr unc) s (fun s' => s' = { s with now := max s.now t })) ∧
    (s.framed l = true →
      (osCrcOk b = false → Runs (.controlSlotReceived t l b corr unc) s (fun s' => counted s' ∧
        (s'.lane l).osCrc = satInc (s.lane l).osCrc ∧ s'.ports = s.ports ∧ s'.inPkts = s.inPkts)) ∧
      (osCrcOk b = true → byteAt b 0 = 0 ∨ 7 < (byteAt b 0).toNat →
        Runs (.controlSlotReceived t l b corr unc) s (fun s' => counted s' ∧
          (s'.lane l).osCrc = satInc (s.lane l).osCrc ∧ s'.ports = s.ports ∧ s'.inPkts = s.inPkts)) ∧
      (osCrcOk b = true → bitOf (byteAt b 1).toNat 5 = false →
        (byteAt b 0 = 7 → (s.port p).state.up = true → Runs (.controlSlotReceived t l b corr unc) s (fun s' => counted s' ∧
          (s'.port p).state = .detect ∧ (s'.port p).reason = .partnerDown ∧ (s'.port p).linkDown = true)) ∧
        (byteAt b 0 = 6 → s.isIndex0 l = true → (s.port p).state = .active →
          Runs (.controlSlotReceived t l b corr unc) s (fun s' => counted s' ∧ (s'.port p).state = .quiesced ∧
            (s'.port p).quiescedFrom = .active)) ∧
        (1 ≤ (byteAt b 0).toNat → (byteAt b 0).toNat ≤ 5 →
          Runs (.controlSlotReceived t l b corr unc) s (fun s' => counted s' ∧ s'.ports = s.ports ∧
            s'.inPkts = s.inPkts ∧ (s'.lane l).osCrc = (s.lane l).osCrc))) ∧
      (∀ (c : SentCell) (cs : List SentCell), osCrcOk b = true → byteAt b 0 = 2 → s.isIndex0 l = true →
        (s.port p).state.up = true → bitOf (byteAt b 1).toNat 5 = true → bitOf (byteAt b 1).toNat 4 = false →
        (s.port p).replay = c :: cs → c.seq = BitVec.ofNat 12 (fieldOf b 2 2) →
        (∀ k, k < 16 → fieldOf b (4 + 2 * k) 2 = ((s.port p).pair k).returned % 65536 ∧
          ((s.port p).pair k).returned ≤ ((s.port p).pair k).sentCells) →
        Runs (.controlSlotReceived t l b corr unc) s (fun s' => counted s' ∧ (s'.port p).replay = cs ∧
          (s'.port p).ackAt = max s.now t ∧ (s'.port p).state = (s.port p).state)))) ∧
  (∀ (t l frac : Nat) (s : State), l < 512 → frac < 65536 →
    let slot := (s.lane l).txSlot
    let p := s.portOfLane l
    let sends (ty : Nat) (s' : State) : Prop := (s'.lane l).txSlot = nextSlot slot ∧
      ∃ b : List Byte, b.length = 264 ∧ (byteAt b 0).toNat = ty ∧ osCrcOk b = true ∧
        let line := (slotLine slot (s.lane l).scr b).1
        let bits := (s.lane l).txBits ++ bitsLsb line
        (bits.length < 5140 → s'.sent = .slot l slot b line :: s.sent ∧ (s'.lane l).txBits = bits) ∧
        (5140 ≤ bits.length → s'.sent =
            .codeword l (codewordLevels (bits.take 5140)) :: .slot l slot b line :: s.sent ∧
          (s'.lane l).txBits = bits.drop 5140)
    let trains : Nat := match s.laneMode l with
      | .align | .equalize => 3
      | .config => 4
      | .identify => if l = p then 5 else 2
      | .down => 7
      | _ => 2
    (s.framed l = true → slot = 0 → Runs (.controlSlotSend t l frac) s (fun s' =>
      sends 1 s' ∧ (s'.lane l).txFrame = (s.lane l).txFrame + 1 ∧ s'.ports = s.ports)) ∧
    (s.framed l = true → slot ≠ 0 → controlSlot slot = true → (s.port p).linkDown = false →
      (s.vent.inSafe = true → (s.port p).state.up = true → Runs (.controlSlotSend t l frac) s (fun s' =>
        sends 6 s' ∧ s'.ports = s.ports)) ∧
      (s.vent.inSafe = false ∨ (s.port p).state.up = false → Runs (.controlSlotSend t l frac) s (fun s' =>
        sends trains s' ∧ (trains ≠ 3 → s'.ports = s.ports)))) ∧
    (s.framed l = false ∨ controlSlot slot = false →
      Runs (.controlSlotSend t l frac) s (fun s' => s' = { s with now := max s.now t })))

/-- MODULE_FAILURE (01 R16, 13 R401): a failed module of a lane die marks it failed, and every port that uses one of its
four lanes is in OFF with the reason MODULE_FAIL; a failed module of a plane takes the plane out of service until a
reset. The die raises D2D_FAIL (3) (which of the dies at the two ends raises it is the model's inference, log entry
38). No port-group reset of the lane die is in progress. LN_COMMIT by the owner (00 R9, 03 R79, R100): pending wiring
writes take force and none is pending any more; one written in the same MG_CSR cycle stays pending and takes no force;
where they would leave an entry with mode 0b11 they are all dropped instead (and none is left pending: the model's
reading, log entry 49); a master that is not the owner changes nothing but its refused count, and so it is for a lane
die that cannot be reached, with PK_ACC_STATUS (whoever asks: the model's inference, log entry 12). -/
def Obligations.ModulesFailAndWiringCommits : Prop :=
  (∀ (t n u : Nat) (s : State),
    (n < 32 → u < 4 → (s.laneDie n).resetPorts = none → (s.laneDie n).failed.getLsbD u = false → moduleExists (36 + n) u = true →
      Runs (.moduleFailure t (36 + n) u) s (fun s' => (s'.laneDie n).failed.getLsbD u = true ∧
        s'.stickyBit (36 + n) 3 = true ∧
        (∀ i, i < 4 → (s'.port (s.portOfLane (16 * n + 4 * u + i))).state = .off ∧
          (s'.port (s.portOfLane (16 * n + 4 * u + i))).reason = .moduleFail))) ∧
    (n < 8 → moduleExists (20 + n) u = true → (s.plane n).inService = true →
      Runs (.moduleFailure t (20 + n) u) s (fun s' => (s'.plane n).inService = false ∧
        (s'.plane n).moduleFailed = true ∧ (s'.plane n).cause = 1 ∧ s'.stickyBit (20 + n) 3 = true))) ∧
  (∀ (t m n w0 : Nat) (v : W32) (s : State), isMaster m = true → n < 32 →
    (s.reachable (36 + n) = true → s.isOwner m = true → w0 < 16 → (s.laneDie n).pending = [(16 * w0 + 8, v)] →
      (pendKept (max s.now t) (s.laneDie n).pendAt = 1 → (∀ i, i < 16 → (s.port (16 * n + i)).wireMode ≠ 3) →
        Served (.lnCommit t m n) s (fun s' => (s'.laneDie n).pending = [(16 * w0 + 8, v)] ∧ s'.ports = s.ports)) ∧
      (pendKept (max s.now t) (s.laneDie n).pendAt = 0 →
      (∀ i, i < 16 → (s.port (16 * n + i)).wireMode ≠ 3) →
      (v.toNat / 65536 % 4 ≠ 3 → (s.port (16 * n + w0)).state = .off →
        Served (.lnCommit t m n) s (fun s' => (s'.laneDie n).pending = [] ∧
          (s'.port (16 * n + w0)).wirePort = BitVec.ofNat 16 v.toNat ∧
          (s'.port (16 * n + w0)).wireMode = BitVec.ofNat 2 (v.toNat / 65536) ∧
          (s'.port (16 * n + w0)).wireSerial = (s.port (16 * n + w0)).wireSerial ∧
          (∀ p, p ≠ 16 * n + w0 → s'.port p = s.port p) ∧ s'.sent = s.sent)) ∧
      (v.toNat / 65536 % 4 = 3 → Served (.lnCommit t m n) s (fun s' =>
        (s'.laneDie n).pending = [] ∧ s'.ports = s.ports ∧ s'.sent = s.sent)))) ∧
    (s.reachable (36 + n) = true → (s.tick t).mayWrite m = false →
      Served (.lnCommit t m n) s (fun s' => s' = { s.refuseWrite m with now := max s.now t })) ∧
    (s.reachable (36 + n) = false →
      Served (.lnCommit t m n) s (fun s' => s' = accessRefused m (some (36 + n)) (s.tick t))))

/-- WRITE_ENTRIES and WRITE_SET (04 R116 to R118): entries outside every committed region that keep the rules are written,
each with the slice field set and its reserved bits zero, and every other entry stays; a set that no committed entry
names is written whole and valid. A range that lies in a committed region, or a set in use, is refused with
ROUTE_CONFLICT and the route state stays as it was. The descriptor leaves the list of those in hand, and where no
commit waits behind it that list is otherwise as it was. COPY_REGION, COMMIT_SLICE, CLEAR_SLICE and the previous
descriptor (04 R113, R118 to R120, 13 R394): a region that keeps the rules is copied entry by entry; a commit puts the
descriptor in force with the version one higher and keeps the old one as the previous descriptor for 10 µs; a slice is
cleared by its valid bit alone; and 10 µs after its commit the previous descriptor is gone. -/
def Obligations.RoutesAndSlicesWritten : Prop :=
  (∀ (t : Nat) (host : List Byte) (j : Job) (js : List Job) (s : State),
    let sl := fieldOf j.desc 9 1
    let x := fieldOf j.desc 12 4
    let n := fieldOf j.desc 16 4
    let data := s.jobData j.src (fieldOf j.desc 24 8) (4 * min n 1024) host
    let image := s.jobData j.src (fieldOf j.desc 24 8) 64 host
    let alone : Prop := ∀ k ∈ js, k.ordered = false
    j.readFails host = false →
    (s.NextJob 3 1 j js → s.prevHolds x n = false → 1 ≤ n → n ≤ 1024 → x + n ≤ 1048576 →
      (s.rangeCommitted x n = false →
        (∀ i, i < n → s.entryBreach sl (s.slice sl).conf none (entryFor sl (fieldOf data (4 * i) 4)) = none) →
        Runs (.writeEntries t host) s (fun s' => (∀ i, i < n → s'.route (x + i) = entryFor sl (fieldOf data (4 * i) 4)) ∧
          (∀ k, k < x ∨ x + n ≤ k → s'.route k = s.route k) ∧ s'.routing.slices = s.routing.slices ∧
          s'.routing.sets = s.routing.sets ∧ (alone → s'.jobs = js) ∧ j.Reports 0x00 s')) ∧
      (s.rangeCommitted x n = true → Runs (.writeEntries t host) s (fun s' => s'.routing = s.routing ∧
        (alone → s'.jobs = js) ∧ j.Reports 0x30 s'))) ∧
    (s.NextJob 3 2 j js → x ≤ 4095 →
      (s.setInUse x = false → BitVec.ofNat 512 (fieldOf image 0 64) ≠ 0 →
        (∀ p, p < 512 → (BitVec.ofNat 512 (fieldOf image 0 64)).getLsbD p = true →
          portBreach (s.cfg p) sl (s.slice sl).conf = none) →
        Runs (.writeSet t host) s (fun s' =>
          s'.rset x = { members := BitVec.ofNat 512 (fieldOf image 0 64), slice := BitVec.ofNat 8 sl, valid := true } ∧
          (∀ k, k ≠ x → s'.rset k = s.rset k) ∧ s'.routing.routes = s.routing.routes ∧
          s'.routing.slices = s.routing.slices ∧ j.Reports 0x00 s')) ∧
      (s.setInUse x = true → Runs (.writeSet t host) s (fun s' => s'.routing = s.routing ∧ j.Reports 0x30 s')))) ∧
  (∀ (t : Nat) (host : List Byte) (j : Job) (js : List Job) (s : State),
    let sl := fieldOf j.desc 9 1
    let x := fieldOf j.desc 12 4
    let n := fieldOf j.desc 16 4
    let y := fieldOf j.desc 20 4
    let image := s.jobData j.src (fieldOf j.desc 24 8) 16 host
    (s.NextJob 3 3 j js → s.prevHolds y n = false → 1 ≤ n → x + n ≤ 1048576 → y + n ≤ 1048576 →
      s.rangeCommitted y n = false →
      (∀ e ∈ s.routing.routes, x ≤ e.1 → e.1 < x + n → entryKind e.2 = 0 ∨ entrySlice e.2 = sl) →
      Runs (.copyRegion t) s (fun s' => (∀ i, i < n → s'.route (y + i) = entryFor sl (s.route (x + i)).toNat) ∧
        (∀ k, k < y ∨ y + n ≤ k → s'.route k = s.route k) ∧ s'.routing.slices = s.routing.slices ∧
        j.Reports 0x00 s')) ∧
    (s.NextJob 3 4 j js → j.readFails host = false →
      let d := { parseSlice image with version := (s.slice sl).version + 1 }
      (d.epLo.toNat + d.epCount.toNat ≤ 65536 → d.routeBase.toNat + d.len ≤ 1048576 → d.hopLimit ≠ 0 →
        (∀ e ∈ s.routing.slices, e.1 ≠ sl → e.2.valid = true → regionsOverlap d e.2 = false) →
        (∀ i, i < d.len → entrySlice (s.route (d.routeBase.toNat + i)) = sl ∧
          s.entryBreach sl d.conf (some (decide (d.epCount.toNat ≤ i))) (s.route (d.routeBase.toNat + i)) = none) →
        Runs (.commitSlice t host) s (fun s' => s'.slice sl = d ∧ (∀ k, k ≠ sl → s'.slice k = s.slice k) ∧
          tget none s'.routing.prev sl = some (s.slice sl, max s.now t) ∧ s'.routing.routes = s.routing.routes ∧
          s'.routing.sets = s.routing.sets ∧ j.Reports 0x00 s')) ∧
      (d.hopLimit = 0 → Runs (.commitSlice t host) s (fun s' => s'.routing = s.routing ∧ j.Reports 0x30 s'))) ∧
    (s.NextJob 3 5 j js → Runs (.clearSlice t) s (fun s' => s'.slice sl = { s.slice sl with valid := false } ∧
      (∀ k, k ≠ sl → s'.slice k = s.slice k) ∧ s'.routing.routes = s.routing.routes ∧
      s'.routing.prev = s.routing.prev ∧ j.Reports 0x00 s')) ∧
    (∀ (k at_ : Nat) (d : SliceDesc), k < 256 → tget none s.routing.prev k = some (d, at_) →
      (at_ + 10000 ≤ max s.now t → Runs (.prevDescriptorExpiry t k) s (fun s' =>
        tget none s'.routing.prev k = none ∧ (∀ i, i ≠ k → tget none s'.routing.prev i = tget none s.routing.prev i) ∧
        s'.routing.slices = s.routing.slices ∧ s'.routing.routes = s.routing.routes)) ∧
      (max s.now t < at_ + 10000 → Runs (.prevDescriptorExpiry t k) s (fun s' => s' = { s with now := max s.now t }))))

/-- PT_COMMIT by the owner (00 R9, 04 R120, R131 to R133): where the writes pending from earlier cycles break no check,
every field of them is in force; where they break one, none is, and refused and the detail show it. Either way only
the writes of the present MG_CSR cycle stay pending. Behind a ROUTE_UPDATE or a port-configuration commit in hand it
waits its turn, with the writes that were pending when it was written (the model's inference, log entry 241). PORT_SET
and SHAPER_SET (12 R366, 04 R133, 06 R188 to R191): the image, which SHAPER_SET names as a flow queue, the scheduling
of a port or the calendar of a port, joins the tile's shadow copy and is committed with it; the status is OK and the
fields are in force where no check is broken, and otherwise the status of the breach is reported and every field
stays. A port that does not start one is BAD_TARGET. The clauses are for a descriptor behind which no commit waits.
PORT_CTL and WIRING_ACCEPT (02 R52, 03 R77, R79, R96, R100, 12 R366): WIRE writes the wiring entry of the port,
WIRING_ACCEPT writes the identity of the partner it has with mode 1, RESET makes a port that carries cells retrain,
and WIDTH brings a valid map into force, once the ports of the lane die that are up have sent LINK_DOWN; that
TR_RESET_STATUS does not show it is the model's inference (log entry 134). A port that does not start one is
BAD_TARGET for each. -/
def Obligations.TileSettingsWritten : Prop :=
  (∀ (t m tile : Nat) (s : State), isMaster m = true → tile < 16 →
    s.isOwner m = true → s.reachable (4 + tile) = true →
    let n := (s.tile tile).pending.length - pendKept (max s.now t) (s.tile tile).pendAt
    let c := s.shadowOf tile ((s.tile tile).pending.take n)
    let kept := (s.tile tile).pending.drop n
    (s.jobs.any Job.ordered = true → Served (.ptCommit t m tile) s (fun s' =>
      s' = { s with now := max s.now t, jobs := s.jobs ++ [{ src := .commit m tile n, desc := [] }] })) ∧
    (s.jobs.any Job.ordered = false → c.commitBreach tile = none → Served (.ptCommit t m tile) s (fun s' =>
      (s'.tile tile).pending = kept ∧ (s'.tile tile).refused = false ∧
      (∀ p, s'.cfg p = c.cfg p) ∧ (∀ p, s'.schedOf p = c.schedOf p) ∧
      (∀ q, s'.fq q = c.fq q) ∧ (∀ p, s'.hodCfg p = c.hodCfg p) ∧
      (s'.tile tile).seed = (c.tile tile).seed ∧ s'.routing = s.routing)) ∧
    (∀ b, s.jobs.any Job.ordered = false → c.commitBreach tile = some b → Served (.ptCommit t m tile) s (fun s' =>
      (s'.tile tile).pending = kept ∧ (s'.tile tile).refused = true ∧ (s'.tile tile).detail = BitVec.ofNat 8 b.2 ∧
      s'.portCfg = s.portCfg ∧ s'.sched = s.sched ∧ s'.fqCfg = s.fqCfg ∧ s'.hodPort = s.hodPort ∧
      s'.calSh = s.calSh ∧ s'.out = s.out ∧ s'.sent = s.sent))) ∧
  (∀ (t : Nat) (host : List Byte) (j : Job) (js : List Job) (s : State),
    j.readFails host = false → (∀ k ∈ js, k.ordered = false) →
    (s.NextJob 5 3 j js →
      let p := fieldOf j.desc 8 2
      let c := (stageImage (tileOf p) (0x10000 + 0x400 * (p % 32)) (s.jobData j.src (fieldOf j.desc 32 8) 512 host) s).shadowTile (tileOf p)
      (s.startsPort p = true → c.commitBreach (tileOf p) = none → Runs (.portSet t host) s (fun s' =>
        s'.cfg p = c.cfg p ∧ (s'.tile (tileOf p)).pending = [] ∧ j.Reports 0x00 s')) ∧
      (∀ b, s.startsPort p = true → c.commitBreach (tileOf p) = some b → Runs (.portSet t host) s (fun s' =>
        s'.portCfg = s.portCfg ∧ s'.sched = s.sched ∧ s'.fqCfg = s.fqCfg ∧ (s'.tile (tileOf p)).pending = [] ∧
        j.Reports b.1 s')) ∧
      (s.startsPort p = false → Runs (.portSet t host) s (fun s' =>
        s'.portCfg = s.portCfg ∧ (∀ k, (s'.tile k).pending = (s.tile k).pending) ∧ j.Reports 0x76 s'))) ∧
    (s.NextJob 4 1 j js →
      let tile := fieldOf j.desc 8 1
      let i := fieldOf j.desc 10 2
      let c := (stageImage tile (0x100000 + 0x20 * i) (s.jobData j.src (fieldOf j.desc 16 8) 32 host) s).shadowTile tile
      tile ≤ 15 → i ≤ 4095 →
      (c.commitBreach tile = none → Runs (.shaperSet t host) s (fun s' =>
        s'.fq (4096 * tile + i) = c.fq (4096 * tile + i) ∧ (s'.tile tile).pending = [] ∧ j.Reports 0x00 s')) ∧
      (∀ b, c.commitBreach tile = some b → Runs (.shaperSet t host) s (fun s' =>
        s'.fqCfg = s.fqCfg ∧ s'.portCfg = s.portCfg ∧ (s'.tile tile).pending = [] ∧ j.Reports b.1 s'))) ∧
    ∀ what ∈ [(2, 0x18000, 0x40, 16), (3, 0x200000, 0x2000, 8192)], s.NextJob 4 what.1 j js →
      let tile := fieldOf j.desc 8 1
      let i := fieldOf j.desc 10 2
      let c := (stageImage tile (what.2.1 + what.2.2.1 * i) (s.jobData j.src (fieldOf j.desc 16 8) what.2.2.2 host) s).shadowTile tile
      (tile ≤ 15 → i ≤ 31 → s.startsPort (32 * tile + i) = true →
        (c.commitBreach tile = none → Runs (.shaperSet t host) s (fun s' =>
          s'.schedOf (32 * tile + i) = c.schedOf (32 * tile + i) ∧ s'.calSh = c.calSh ∧
          (s'.tile tile).pending = [] ∧ j.Reports 0x00 s')) ∧
        (∀ b, c.commitBreach tile = some b → Runs (.shaperSet t host) s (fun s' =>
          s'.sched = s.sched ∧ s'.calSh = s.calSh ∧ s'.fqCfg = s.fqCfg ∧ s'.portCfg = s.portCfg ∧
          (s'.tile tile).pending = [] ∧ j.Reports b.1 s'))) ∧
      (15 < tile ∨ 31 < i ∨ s.startsPort (32 * tile + i) = false → Runs (.shaperSet t host) s (fun s' =>
        s'.sched = s.sched ∧ s'.calSh = s.calSh ∧ (∀ k, (s'.tile k).pending = (s.tile k).pending) ∧ j.Reports 0x76 s'))) ∧
  (∀ (t : Nat) (j : Job) (js : List Job) (s : State),
    let p := fieldOf j.desc 8 2
    let n := laneDieOf p
    (s.startsPort p = true → (s.laneDie n).pending = [] → (∀ q, (s.port q).wireMode ≠ 3) →
      (s.NextJob 5 2 j js → fieldOf j.desc 12 4 % 4 ≠ 3 → Runs (.portCtlWire t) s (fun s' =>
        (s'.port p).wireSerial = BitVec.ofNat 64 (fieldOf j.desc 16 8) ∧
        (s'.port p).wirePort = BitVec.ofNat 16 (fieldOf j.desc 24 2) ∧
        (s'.port p).wireMode = BitVec.ofNat 2 (fieldOf j.desc 12 4) ∧ j.Reports 0x00 s')) ∧
      (s.NextJob 6 0 j js → (s.port p).partner.any (fun b => b != 0) = true → Runs (.wiringAccept t) s (fun s' =>
        (s'.port p).wireSerial = BitVec.ofNat 64 (fieldOf (s.port p).partner 0 8) ∧
        (s'.port p).wirePort = BitVec.ofNat 16 (fieldOf (s.port p).partner 8 2) ∧
        (s'.port p).wireMode = 1 ∧ j.Reports 0x00 s'))) ∧
    (s.startsPort p = true → s.NextJob 5 1 j js → s.portIsolated p = false → (s.port p).state.up = true →
      Runs (.portCtlReset t) s (fun s' => (s'.port p).state = .detect ∧ (s'.port p).reason = .portReset ∧
        (s'.port p).linkDown = true ∧ j.Reports 0x00 s')) ∧
    (s.startsPort p = true → s.NextJob 5 4 j js → s.boot.phase ≠ .bootHalt →
      mapValid (BitVec.ofNat 16 (fieldOf j.desc 12 4)) = true →
      (∀ q, q / 16 = n → (s.port q).state.up = true → s.startsPort q = true → Runs (.portCtlWidth t) s (fun s' =>
        (s'.laneDie n).pendStart = BitVec.ofNat 16 (fieldOf j.desc 12 4) ∧ (s'.laneDie n).startMap = (s.laneDie n).startMap ∧
        (s'.port q).state = .detect ∧ (s'.port q).linkDown = true ∧ (s'.port q).reason = .portReset ∧ j.Reports 0x00 s')) ∧
      ((∀ q, q / 16 = n → (s.port q).state.up = false ∧ (s.port q).linkDown = false) → Runs (.portCtlWidth t) s (fun s' =>
        (s'.laneDie n).startMap = BitVec.ofNat 16 (fieldOf j.desc 12 4) ∧
        (s'.laneDie n).enable = BitVec.ofNat 16 (fieldOf j.desc 12 4 / 65536) ∧ s'.rstStatus = s.rstStatus ∧
        j.Reports 0x00 s'))) ∧
    (s.startsPort p = false → ∀ c ∈ [(Instr.portCtlWire t, 5, 2), (.wiringAccept t, 6, 0), (.portCtlReset t, 5, 1),
        (.portCtlWidth t, 5, 4)], s.NextJob c.2.1 c.2.2 j js →
      Runs c.1 s (fun s' => s'.ports = s.ports ∧
        (∀ k, (s'.laneDie k).pending = (s.laneDie k).pending ∧ (s'.laneDie k).startMap = (s.laneDie k).startMap ∧
          (s'.laneDie k).enable = (s.laneDie k).enable) ∧ j.Reports 0x76 s')))

/-- INGRESS_LOOKUP (04 R110, R114, 05 R139, 06 R169): of a packet whose header has arrived on a tile that runs, out of the
safe state, a failed header check is counted in PT_PKT_CNT at once (hdr_crc: check 1) and the packet is discarded; an
enc bit that the port does not expect discards it by check 4 and a slice that the port does not permit by check 7,
each counted with the whole packet; a management packet goes to management; and a packet with a route is sent as one
stream to each destination of its decision. The flow of other packets stays. INGRESS_FINAL_CHECK (04 R110, 05 R139,
R144): a whole packet that was discarded at lookup is counted once, by its lowest failed check, and forgotten; one
that is being sent gets its verdict, PASS (1) where checks 3, 5 and 6 pass; and the verdict is settled only once. What
the route state says of a packet (04 R113 to R117, R123 to R127, 05 R153), for one that is not the Driant's own and no
fold packet: the slice's descriptor gives its route entry; no valid entry is NO_ROUTE (8) and too many hops HOP_LIMIT
(9); PORT sends it to its port; SET to the member that the hash picks among the live ones, or, where the tile adapts
and the packet is not pinned, hash-only or strict, to the least loaded one that beats it by more than the margin;
MCAST to every live member but the ingress port. A dead port or an empty set is PORT_DOWN (10), or no route for MCAST;
an egress port that does not permit the slice fails check 11. -/
def Obligations.IngressDecidesAndSettles : Prop :=
  (∀ (t id : Nat) (p : InPkt) (s : State),
    let h := parseHdr p.bytes
    s.inPkt id = some p → s.halted = false → p.verdict = .pending → 64 ≤ p.bytes.length →
    (h.cls = 2 → p.whole = true) → s.dieRuns (4 + tileOf p.port) = true →
    (s.headerCheck p h = 1 → Runs (.ingressLookup t id .none) s (fun s' =>
      s'.inPkt id = some { p with verdict := .dropped 0 } ∧
      (s'.pktCntOf p.port).hdrCrc = satInc (s.pktCntOf p.port).hdrCrc ∧
      (∀ k, k ≠ id → s'.inPkt k = s.inPkt k) ∧ (∀ q, q ≠ p.port → s'.pktCntOf q = s.pktCntOf q) ∧
      s'.sent = s.sent)) ∧
    (s.headerCheck p h = 4 → Runs (.ingressLookup t id .none) s (fun s' =>
      s'.inPkt id = some { p with verdict := .dropped 4 } ∧ s'.pktCnt = s.pktCnt ∧ s'.sent = s.sent)) ∧
    (s.headerCheck p h = 0 → (s.cfg p.port).permits h.slice.toNat = false →
      Runs (.ingressLookup t id .none) s (fun s' => s'.inPkt id = some { p with verdict := .dropped 7 } ∧
        s'.pktCnt = s.pktCnt ∧ s'.sent = s.sent)) ∧
    (s.headerCheck p h = 0 → (s.cfg p.port).permits h.slice.toNat = true →
      let d := s.ingressDecision p h
      (d.fail ≠ 0 → Runs (.ingressLookup t id .none) s (fun s' =>
        s'.inPkt id = some { p with verdict := .dropped d.fail })) ∧
      (d.fail = 0 → d.silent = true → Runs (.ingressLookup t id .none) s (fun s' =>
        s'.inPkt id = some { p with verdict := .noCopy d.egSlice })) ∧
      (d.fail = 0 → d.silent = false → d.toMgmt = true → Runs (.ingressLookup t id .none) s (fun s' =>
        s'.inPkt id = some { p with verdict := .toMgmt })) ∧
      (d.fail = 0 → d.silent = false → d.toMgmt = false → Runs (.ingressLookup t id .none) s (fun s' =>
        ∃ q, s'.inPkt id = some q ∧ q.verdict = .sending ∧ q.bytes = p.bytes ∧
          q.streams = d.dests.map (fun x => { dst := x.1, mask := x.2, relSeq := 0, sentCells := 0 }))))) ∧
  (∀ (t id : Nat) (p : InPkt) (s : State),
    s.inPkt id = some p → p.whole = true → p.final = 0 → s.dieRuns (4 + tileOf p.port) = true →
    (p.verdict = .dropped 8 → (s.tick t).lateCheck p = 1 → Runs (.ingressFinalCheck t id) s (fun s' => s'.inPkt id = none ∧
      (s'.pktCntOf p.port).noRoute = satInc (s.pktCntOf p.port).noRoute ∧
      (s'.pktCntOf p.port).lenErr = (s.pktCntOf p.port).lenErr ∧ (∀ k, k ≠ id → s'.inPkt k = s.inPkt k))) ∧
    (p.verdict = .dropped 8 → (s.tick t).lateCheck p = 3 → Runs (.ingressFinalCheck t id) s (fun s' => s'.inPkt id = none ∧
      (s'.pktCntOf p.port).lenErr = satInc (s.pktCntOf p.port).lenErr ∧
      (s'.pktCntOf p.port).noRoute = (s.pktCntOf p.port).noRoute)) ∧
    (p.verdict = .dropped 4 → (s.tick t).lateCheck p = 3 → Runs (.ingressFinalCheck t id) s (fun s' => s'.inPkt id = none ∧
      (s'.pktCntOf p.port).lenErr = satInc (s.pktCntOf p.port).lenErr ∧
      (s'.pktCntOf p.port).encMismatch = (s.pktCntOf p.port).encMismatch)) ∧
    (p.verdict = .dropped 4 → (s.tick t).lateCheck p = 1 → Runs (.ingressFinalCheck t id) s (fun s' => s'.inPkt id = none ∧
      (s'.pktCntOf p.port).encMismatch = satInc (s.pktCntOf p.port).encMismatch)) ∧
    (p.verdict = .sending → Runs (.ingressFinalCheck t id) s (fun s' =>
      ∃ q, s'.inPkt id = some q ∧ q.final = BitVec.ofNat 4 ((s.tick t).lateCheck p) ∧ q.verdict = .sending ∧
        q.streams = p.streams)) ∧
    (p.verdict = .pending → Runs (.ingressFinalCheck t id) s (fun s' => s' = { s with now := max s.now t }))) ∧
  (∀ (t id : Nat) (p : InPkt) (s : State),
    let h := parseHdr p.bytes
    let tile := s.tile (tileOf p.port)
    s.inPkt id = some p → s.halted = false → p.verdict = .pending → 64 ≤ p.bytes.length →
    (h.cls = 2 → p.whole = true) → s.dieRuns (4 + tileOf p.port) = true → s.headerCheck p h = 0 →
    (s.cfg p.port).permits h.slice.toNat = true →
    h.mcast = true ∨ (h.dst ≠ s.pkg.selfEp ∧ (s.recov.parityEp = 0xFFFF ∨ h.dst ≠ s.recov.parityEp)) →
    let d := s.slice h.slice.toNat
    let dst := h.dst.toNat
    let inRange : Prop := d.valid = true ∧ (if h.mcast then dst < d.mcCount.toNat
      else d.epLo.toNat ≤ dst ∧ dst < d.epLo.toNat + d.epCount.toNat)
    let e := (s.route (if h.mcast then d.routeBase.toNat + d.epCount.toNat + dst
      else d.routeBase.toNat + (dst - d.epLo.toNat))).toNat
    let target := e / 256 % 4096
    let fails (n : Nat) : Prop := Runs (.ingressLookup t id .none) s (fun s' =>
      s'.inPkt id = some { p with verdict := .dropped n })
    let sends (ports : List Nat) : Prop := Runs (.ingressLookup t id .none) s (fun s' =>
      ∃ q, s'.inPkt id = some q ∧ q.verdict = .sending ∧
        (∀ x ∈ q.streams, x.dst < 16 ∧ ∀ j, j < 32 → (x.mask.getLsbD j = true ↔ 32 * x.dst + j ∈ ports)) ∧
        (∀ y ∈ ports, ∃ x ∈ q.streams, x.dst = tileOf y))
    let live (q : Nat) : Bool := s.available q h.vc
    let open_ (q : Nat) : Bool := (s.cfg q).permits h.slice.toNat && (!d.conf || (s.cfg q).enc)
    let named := (List.range 512).filter (fun q => (s.rset target).members.getLsbD q)
    (¬ inRange ∨ e % 4 = 0 → fails 8) ∧
    (inRange → e % 4 ≠ 0 → d.hopLimit.toNat < h.hops.toNat + 1 → fails 9) ∧
    (inRange → h.hops.toNat + 1 ≤ d.hopLimit.toNat →
      (e % 4 = 1 → (live target = false → fails 10) ∧ (live target = true → open_ target = false → fails 11) ∧
        (live target = true → open_ target = true → sends [target])) ∧
      (e % 4 = 2 →
        let among := named.filter live
        let key := leBytes 2 h.src.toNat ++ leBytes 2 dst ++ [h.slice] ++ leBytes 3 h.flowLabel.toNat ++
          leBytes 4 (if pinned h then 0 else h.seq.toNat)
        let k := (key.foldl crc32Byte tile.seed ^^^ 0xFFFFFFFF).toNat * among.length / 2 ^ 32
        let hashed := among.getD k 0
        let level (q : Nat) : Nat := levelOf (s.queueCells q h.vc)
        let fixed : Prop := tile.adaptEn = false ∨ pinned h = true ∨ e.testBit 2 = true ∨ s.strictSlice h.slice.toNat = true
        (among = [] → fails 10) ∧
        (among ≠ [] → among.all open_ = true →
          (fixed → sends [hashed]) ∧
          (¬ fixed → (∀ q ∈ among, level hashed ≤ level q + tile.adaptMargin.toNat) → sends [hashed]) ∧
          (¬ fixed → (∃ q ∈ among, level q + tile.adaptMargin.toNat < level hashed) →
            ∃ q ∈ among, (∀ r ∈ among, level q ≤ level r) ∧ sends [q]))) ∧
      (e % 4 = 3 →
        let among := named.filter (fun q => live q && decide (q ≠ p.port))
        (among = [] → fails 8) ∧
        (among ≠ [] → among.filter open_ = [] → Runs (.ingressLookup t id .none) s (fun s' =>
          s'.inPkt id = some { p with verdict := .noCopy among.length })) ∧
        (among.filter open_ ≠ [] → sends (among.filter open_)))))

/-- FABRIC_SLOT (05 R136, R138, R139, R141, R144, 09 R275): in slot k fabric port f, on a die that runs, serves plane (f +
k) mod 8; a tile's oldest staged cell that is eligible and has a credit leaves for that plane, on the module whose
turn it is, with a fcrc that verifies, and takes one credit; cells of the same port that wait for a place in staging
may then follow behind the others; with none, or with the plane out of service, only the slot number moves; and a
Caldera die sends no cell while its oldest has no credit (that it sends its oldest staged cell only is the model's
inference, log entry 216). PLANE_CELL_RECEIVE and PLANE_SLOT (05 R140, R141): the oldest cell on its way to a plane
goes to the latch of its input and output where that holds fewer than 2, and raises FAB_CREDIT (8) on the plane
otherwise; a slot of a plane out of service counts and does nothing else; and a plane in service with one cell in one
latch sends it to its output port with a fcrc that verifies and returns its credit to the input; a cell to a port
whose die is in reset is lost (02 R50). PLANE_RETIRE and PLANE_REJOIN by the owner (05 R151, R152): retirement takes
the plane out of service with cause 3 and every tile shows it out; rejoining waits for the plane's slot once a die
reset has come between, and is refused otherwise or after a module failure. A plane that cannot be reached is so for
the owner and for others alike (log entry 12). -/
def Obligations.FabricMovesCells : Prop :=
  (∀ (t f : Nat) (s : State), f < 16 → s.dieRuns (4 + f) = true →
    let k := tget 0 s.fabric.slot f
    let p := (f + k) % 8
    let first := (tget [] s.fabric.staged f).find? (fun c => decide (0 < s.credit f p c.dst) && s.eligible f c)
    (∀ (c : Staged) (x : InPkt), s.halted = false → (s.plane p).inService = true → s.dieOut (4 + f) = false →
      first = some c → s.inPkt c.pkt = some x → tileOf x.port = f → Runs (.fabricSlot t f) s (fun s' =>
        tget 0 s'.fabric.slot f = k + 1 ∧ s'.credit f p c.dst = s.credit f p c.dst - 1 ∧
        (∃ more, tget [] s'.fabric.staged f = (tget [] s.fabric.staged f).erase c ++ more) ∧
        (∃ cell : FabCell, tget [] s'.fabric.toPlane p = tget [] s.fabric.toPlane p ++ [cell] ∧ cell.data = true ∧
          cell.src = f ∧ cell.dst = c.dst ∧ cell.index = c.index ∧ cell.vc = (parseHdr x.bytes).vc ∧
          cell.body = fabBody (s.formOf x) c.index ∧ cell.fcrc = cell.crcOf ∧
          cell.via = 2 * f + tget 0 s.fabric.altUp (f * 8 + p)) ∧
        (∀ g, g ≠ f → tget [] s'.fabric.staged g = tget [] s.fabric.staged g) ∧ s'.sent = s.sent)) ∧
    ((s.halted = true ∨ (s.plane p).inService = false ∨ first = none) → Runs (.fabricSlot t f) s (fun s' =>
      s' = { s with now := max s.now t, fabric := { s.fabric with slot := tset 0 s.fabric.slot f (k + 1) } })) ∧
    (∀ (d : Nat) (c : Staged) (cs : List Staged), d < 8 → s.dieRuns (28 + d) = true →
      tget [] s.fabric.staged (16 + d) = c :: cs →
      s.credit (16 + d) ((16 + d + tget 0 s.fabric.slot (16 + d)) % 8) c.dst = 0 →
      Runs (.fabricSlot t (16 + d)) s (fun s' => s' = { s with now := max s.now t, fabric := { s.fabric with
        slot := tset 0 s.fabric.slot (16 + d) (tget 0 s.fabric.slot (16 + d) + 1) } }))) ∧
  (∀ (t p : Nat) (s : State), p < 8 → s.dieRuns (20 + p) = true → s.float.stopped = false →
    (∀ (cell : FabCell) (rest : List FabCell), tget [] s.fabric.toPlane p = cell :: rest →
      let key := (p * 24 + cell.src) * 24 + cell.dst
      ((s.plane p).inService = true → (tget [] s.fabric.latches key).length < 2 →
        Runs (.planeCellReceive t p) s (fun s' => tget [] s'.fabric.toPlane p = rest ∧
          tget [] s'.fabric.latches key = tget [] s.fabric.latches key ++ [cell] ∧
          (∀ k, k ≠ key → tget [] s'.fabric.latches k = tget [] s.fabric.latches k) ∧ s'.dies = s.dies)) ∧
      ((s.plane p).inService = true → 2 ≤ (tget [] s.fabric.latches key).length →
        Runs (.planeCellReceive t p) s (fun s' => tget [] s'.fabric.toPlane p = rest ∧
          s'.fabric.latches = s.fabric.latches ∧ s'.stickyBit (20 + p) 8 = true))) ∧
    ((s.plane p).inService = false → (s.plane p).rejoining = false → Runs (.planeSlot t p) s (fun s' =>
      (s'.plane p).slot = (s.plane p).slot + 1 ∧ s'.fabric.latches = s.fabric.latches ∧
      s'.fabric.toPort = s.fabric.toPort ∧ s'.tiles = s.tiles)) ∧
    (∀ (i o : Nat) (cell : FabCell), i < 24 → o < 24 → (s.plane p).inService = true → (s.plane p).rejoining = false →
      s.fabric.latches = [((p * 24 + i) * 24 + o, [cell])] → s.fabric.returning = [] →
      Runs (.planeSlot t p) s (fun s' => (s'.plane p).slot = (s.plane p).slot + 1 ∧
        tget [] s'.fabric.latches ((p * 24 + i) * 24 + o) = [] ∧
        (s.dieUp (if o < 16 then 4 + o else 12 + o) = false → tget [] s'.fabric.toPort o = tget [] s.fabric.toPort o) ∧
        (s.dieUp (if o < 16 then 4 + o else 12 + o) = true →
          ∃ c : FabCell, tget [] s'.fabric.toPort o = tget [] s.fabric.toPort o ++ [(p, c)] ∧ c.body = cell.body ∧
            c.relSeq = cell.relSeq ∧ c.src = cell.src ∧ c.fcrc = c.crcOf)))) ∧
  (∀ (t m p : Nat) (s : State), isMaster m = true → p < 8 →
    (s.reachable (20 + p) = true → s.isOwner m = true →
      ((s.plane p).inService = true → Served (.planeRetire t m p) s (fun s' => (s'.plane p).inService = false ∧
        (s'.plane p).cause = 3 ∧ (s'.plane p).resetSince = false ∧
        (∀ u, u < 16 → (s'.tile u).planesOut.getLsbD p = true) ∧ tget [] s'.fabric.toPlane p = [] ∧
        (∀ q, q ≠ p → s'.plane q = s.plane q) ∧ s'.dies = s.dies)) ∧
      ((s.plane p).inService = false → (s.plane p).resetSince = true → (s.plane p).moduleFailed = false →
        Served (.planeRejoin t m p) s (fun s' => (s'.plane p).rejoining = true ∧ (s'.plane p).rejoinRefused = false ∧
          (s'.plane p).inService = false ∧ (∀ q, q ≠ p → s'.plane q = s.plane q) ∧ s'.tiles = s.tiles)) ∧
      ((s.plane p).inService = false → (s.plane p).resetSince = false ∨ (s.plane p).moduleFailed = true →
        Served (.planeRejoin t m p) s (fun s' => (s'.plane p).rejoining = (s.plane p).rejoining ∧
          (s'.plane p).rejoinRefused = true ∧ (s'.plane p).inService = false))) ∧
    (∀ i ∈ [Instr.planeRetire t m p, .planeRejoin t m p],
      (s.reachable (20 + p) = true → (s.tick t).mayWrite m = false →
        Served i s (fun s' => s' = { s.refuseWrite m with now := max s.now t })) ∧
      (s.reachable (20 + p) = false → Served i s (fun s' => s' = accessRefused m (some (20 + p)) (s.tick t)))))

/-- FABRIC_CELL_ARRIVAL (05 R141, R144, R146, R147): the oldest cell on its way to a tile that runs is taken and the
credits it carries return, at most 2 for each latch; a cell of either kind whose fcrc fails is counted and raises
FAB_CRC (14) on the tile; the first good cell of a packet of one cell for no port completes its reassembly; a cell
more than 32,767 ahead counts in seq_skip, or in reasm_timeout where its number was resolved as discarded (the model's
readings, log entries 28 and 25); and an empty cell does nothing else. PACKET_RELEASE (05 R149, 13 R394, R395), on a
tile that runs out of the safe state: the complete packet whose number is expected is released where route
confirmation and, for class G, its pay_crc hold: it is under reassembly no longer, and it has joined the output queue
of every buffer's port whose hold timer has not run out; where either fails it is dropped and counted, with RT_CONFIRM
raised on the die that made the lookup (15 on a tile, 30 on a Caldera die) or GCRC_REL on the tile; and one whose
route table row cannot be read is dropped and counted as not confirmed, with RT_UE (log entry 263). Where no packet is
complete under that number nothing is released. PACKET_RELEASE, REASSEMBLY_TIMEOUT and SEQ_GAP_TIMEOUT (05 R149, R150)
for a tile with one packet under reassembly: the complete packet whose number is expected is released, and the
expected number moves on; 2 µs without the packet being complete discards it and counts it, and 2 µs without a number
that was passed over resolves it. -/
def Obligations.TilesReceiveAndReassemble : Prop :=
  (∀ (t tile plane : Nat) (cell : FabCell) (rest : List (Nat × FabCell)) (s : State),
    tile < 16 → s.dieRuns (4 + tile) = true → tget [] s.fabric.toPort tile = (plane, cell) :: rest →
    (∀ corrupt : Bool, cell.data = false → cell.fails corrupt = true →
      Runs (.fabricCellArrival t tile corrupt .none) s (fun s' => tget [] s'.fabric.toPort tile = rest ∧
        (s'.tile tile).fabCrc = satInc (s.tile tile).fabCrc ∧ s'.stickyBit (4 + tile) 14 = true ∧
        (s'.tile tile).reasm = (s.tile tile).reasm)) ∧
    (cell.data = false → cell.fcrc = cell.crcOf → ∀ o, cell.credits = [o] → Runs (.fabricCellArrival t tile false .none) s (fun s' =>
      tget [] s'.fabric.toPort tile = rest ∧ s'.credit tile plane o = min 2 (s.credit tile plane o + 1) ∧
      s'.tiles = s.tiles ∧ s'.dies = s.dies)) ∧
    (cell.data = true → cell.credits = [] → s.dieOut (4 + tile) = false → s.halted = false →
      (cell.src < 16 → s.dieOut (4 + cell.src) = false) →
      (cell.fcrc = cell.crcOf → cell.relSeq = (s.tile tile).expected cell.src cell.vc.toNat → cell.count = 1 → cell.index = 0 → cell.verdict = 1 →
        cell.mask = 0 → (s.tile tile).find cell.src cell.vc.toNat cell.relSeq = none →
        tget [] (s.tile tile).resolved (cell.src * 8 + cell.vc.toNat) = [] →
        Runs (.fabricCellArrival t tile false .none) s (fun s' => tget [] s'.fabric.toPort tile = rest ∧
          ∃ r, (s'.tile tile).find cell.src cell.vc.toNat cell.relSeq = some r ∧ r.complete = true ∧
            r.failed = false ∧ r.got = [(0, cell.body)] ∧ r.verdict = 1 ∧ r.payCrc = cell.payCrc)) ∧
      (cell.relSeq = (s.tile tile).expected cell.src cell.vc.toNat - 1 →
        let late := (tget [] (s.tile tile).resolved (cell.src * 8 + cell.vc.toNat)).contains cell.relSeq
        Runs (.fabricCellArrival t tile true .none) s (fun s' => tget [] s'.fabric.toPort tile = rest ∧
          (s'.tile tile).fabCrc = satInc (s.tile tile).fabCrc ∧ s'.stickyBit (4 + tile) 14 = true ∧
          (s'.tile tile).reasmTimeout = (if late then satInc (s.tile tile).reasmTimeout else (s.tile tile).reasmTimeout) ∧
          (s'.tile tile).seqSkip = (if late then (s.tile tile).seqSkip else satInc (s.tile tile).seqSkip) ∧
          (s'.tile tile).reasm = (s.tile tile).reasm)))) ∧
  (∀ (t tile src vc : Nat) (s : State),
    tile < 16 → src < 24 → vc < 8 → s.dieRuns (4 + tile) = true → s.halted = false →
    let e := (s.tile tile).expected src vc
    (∀ r : Reasm, (s.tile tile).find src vc e = some r → r.complete = true →
      let h := slotHdr r.bytes
      let ports := (bitsSet r.mask.toNat 32).map (fun j => 32 * tile + j)
      let payload := sliceOf r.bytes 64 h.payLen.toNat
      ((s.tick t).confirms h ports = true → (h.cls = 2 → crc32c payload = r.payCrc) →
        Runs (.packetRelease t tile src vc .none) s (fun s' => (s'.tile tile).find src vc e = none ∧
          (tget [] (s.tile tile).resolved (src * 8 + vc) = [] → (s'.tile tile).expected src vc = e + 1) ∧
          (∀ b ∈ r.bufs, h.vc ≠ 7 → (s.outPort (32 * tile + b.j)).holdOut = false →
            ∃ q ∈ (s'.outPort (32 * tile + b.j)).queue, q.buf = b ∧ q.payload = payload ∧ q.hdr.dst = h.dst ∧
              q.hdr.src = h.src))) ∧
      ((s.tick t).confirms h ports = false → Runs (.packetRelease t tile src vc .none) s (fun s' =>
        (s'.tile tile).find src vc e = none ∧
        s'.stickyBit (if src < 16 then 4 + src else 12 + src) (if src < 16 then 15 else 30) = true ∧
        (s'.die (4 + tile)).aux1 = satInc (s.die (4 + tile)).aux1)) ∧
      ((s.tick t).confirms h ports = true → h.cls = 2 → crc32c payload ≠ r.payCrc →
        Runs (.packetRelease t tile src vc .none) s (fun s' => (s'.tile tile).find src vc e = none ∧
          s'.stickyBit (4 + tile) srcGcrcRel = true ∧ (s'.die (4 + tile)).aux0 = satInc (s.die (4 + tile)).aux0)) ∧
      Runs (.packetRelease t tile src vc .uncorrectable) s (fun s' => (s'.tile tile).find src vc e = none ∧
        s'.stickyBit (4 + tile) srcRtUe = true ∧ (s'.die (4 + tile)).symUe = satInc (s.die (4 + tile)).symUe ∧
        (s'.die (4 + tile)).aux1 = satInc (s.die (4 + tile)).aux1)) ∧
    ((∀ r, (s.tile tile).find src vc e = some r → r.complete = false) →
      Runs (.packetRelease t tile src vc .none) s (fun s' => s' = { s with now := max s.now t }))) ∧
  (∀ (t tile src vc : Nat) (r : Reasm) (s : State),
    tile < 16 → src < 24 → vc < 8 → s.dieRuns (4 + tile) = true →
    let e := (s.tile tile).expected src vc
    (s.tile tile).reasm = [r] → r.src = src → r.vc = vc → tget [] (s.tile tile).resolved (src * 8 + vc) = [] →
    (r.relSeq = e → r.complete = true → s.halted = false → r.bufs = [] → r.mask = 0 →
      let h := slotHdr r.bytes
      ((s.tick t).confirms h [] = true → h.cls ≠ 2 → Runs (.packetRelease t tile src vc .none) s (fun s' =>
        (s'.tile tile).expected src vc = e + 1 ∧ (s'.tile tile).reasm = [] ∧ s'.sent = s.sent ∧ s'.dies = s.dies)) ∧
      ((s.tick t).confirms h [] = false → Runs (.packetRelease t tile src vc .none) s (fun s' =>
        (s'.tile tile).expected src vc = e + 1 ∧ (s'.tile tile).reasm = [] ∧
        s'.stickyBit (if src < 16 then 4 + src else 12 + src) (if src < 16 then 15 else 30) = true ∧
        (s'.die (4 + tile)).aux1 = satInc (s.die (4 + tile)).aux1))) ∧
    ((s.tick t).completesNow tile src vc r.relSeq = true → Runs (.reassemblyTimeout t tile src vc r.relSeq.toNat) s (fun s' =>
      s' = { s with now := max s.now t })) ∧
    (r.complete = false → r.firstAt + 2000 ≤ max s.now t → (s.tick t).completesNow tile src vc r.relSeq = false →
      Runs (.reassemblyTimeout t tile src vc r.relSeq.toNat) s (fun s' => (s'.tile tile).reasm = [] ∧
        (s'.tile tile).reasmTimeout = satInc (s.tile tile).reasmTimeout ∧
        (r.relSeq = e → (s'.tile tile).expected src vc = e + 1) ∧ (∀ u, u ≠ tile → s'.tile u = s.tile u))) ∧
    (∀ at_, r.relSeq ≠ e → tget [] (s.tile tile).gaps (src * 8 + vc) = [(e, at_)] →
      (at_ + 2000 ≤ max s.now t → Runs (.seqGapTimeout t tile src vc) s (fun s' =>
        (s'.tile tile).expected src vc = e + 1 ∧ (s'.tile tile).seqSkip = satInc (s.tile tile).seqSkip ∧
        tget [] (s'.tile tile).gaps (src * 8 + vc) = [] ∧ (s'.tile tile).reasm = [r])) ∧
      (max s.now t < at_ + 2000 → Runs (.seqGapTimeout t tile src vc) s (fun s' => s' = { s with now := max s.now t }))))

/-- Pools (05 R157, R158, R165; that a pool which is not quarantined is rebuilt too is the model's choice, log entry 218):
a rebuild of a pool with no buffer in use, on a die where it is not isolated, starts and is refused otherwise; when it
ends the scrim holds every buffer of the pool in ascending address order and the pool is quarantined no longer; and
reading a high-water mark reports it and starts it again at the buffers that are not free (06 R187). CREDIT_FREE (05
R139, R143, R160, 02 R44, 03 R80): while the tile runs and admits flows, its arrivals keep to the admitted rate,
ingress staging has room for the port and the package runs, the credits held first on a pair are freed where no queue
they wait on is over, and stay held where one is; a tile that admits none or that is over its rate, a port whose
staging is full, and in QUARANTINE a channel other than 0 free none. -/
def Obligations.PoolsAndCreditsKept : Prop :=
  (∀ (t m tile k : Nat) (s : State), isMaster m = true → tile < 16 → k < 4 →
    s.reachable (4 + tile) = true →
    (s.isOwner m = true → (s.tile tile).rebuild = false →
      let bad := decide (((s.tile tile).pool k).used ≠ 0) || (s.die (4 + tile)).poolIso.getLsbD k
      Served (.poolRebuild t m tile k) s (fun s' => (s'.tile tile).rebuild = !bad ∧
        (s'.tile tile).rebuildRefused = bad ∧ (s'.tile tile).ctlPool = BitVec.ofNat 2 k ∧
        (∀ i, (s'.tile tile).pool i = (s.tile tile).pool i) ∧ (∀ u, u ≠ tile → s'.tile u = s.tile u))) ∧
    ((s.tile tile).rebuild = true → (s.tile tile).ctlPool = BitVec.ofNat 2 k →
      Runs (.poolRebuildDone t tile) s (fun s' => (s'.tile tile).rebuild = false ∧
        ((s'.tile tile).pool k).quarantined = false ∧ ((s'.tile tile).pool k).lost = [] ∧
        ((s'.tile tile).pool k).head k = ((s.tile tile).pool k).base ∧
        (∀ i, i ≠ k → (s'.tile tile).pool i = (s.tile tile).pool i))) ∧
    Served (.hwmRead t m tile 0 k) s (fun s' =>
      s'.sent = .value m ((4 + tile) * 0x800000 + 0xB100 + 4 * k) (BitVec.ofNat 32 ((s.tile tile).markShown (max s.now t) 0 k)) :: s.sent ∧
      tget 0 (s'.tile tile).hwmPool k = ((s.tile tile).pool k).inUse ∧
      (∀ i, i ≠ k → tget 0 (s'.tile tile).hwmPool i = tget 0 (s.tile tile).hwmPool i) ∧
      (∀ i, (s'.tile tile).pool i = (s.tile tile).pool i))) ∧
  (∀ (t p k : Nat) (h : Held) (hs : List Held) (s : State), p < 512 → k < 16 →
    let pair (s : State) : PairLink := (s.port p).pair k
    (pair s).held = h :: hs → h.known = true →
    (0 < tget 0 s.admitted (tileOf p) → (s.tick t).overAdmitted (tileOf p) = false → s.vent.inSafe = false →
      s.float.stopped = false → s.dieRuns (dieTile (tileOf p)) = true → s.stageRoom p = true →
      ((s.port p).state = .quarantine → k < 2) →
      (h.users.any s.userOver = false → hs = [] → Runs (.creditFree t p k) s (fun s' => (pair s').held = [] ∧
        (pair s').freed = (pair s).freed + h.cells ∧ (∀ i, i ≠ k → (s'.port p).pair i = (s.port p).pair i) ∧
        (∀ q, q ≠ p → s'.port q = s.port q) ∧ s'.sent = s.sent)) ∧
      (h.users.any s.userOver = true → Runs (.creditFree t p k) s (fun s' => (pair s').held = h :: hs ∧
        (pair s').freed = (pair s).freed))) ∧
    (tget 0 s.admitted (tileOf p) = 0 ∨ (s.tick t).overAdmitted (tileOf p) = true ∨ s.stageRoom p = false ∨
      ((s.port p).state = .quarantine ∧ 2 ≤ k) →
      Runs (.creditFree t p k) s (fun s' => s' = { s with now := max s.now t })))

/-- CELL_OPPORTUNITY (03 R62 to R64, R66, R67, R73, R85, R88, R91, 06 R173): on the port's next lane, where it sends
frames and its next slot is a cell slot, one cell of 264 bytes leaves with its cell_crc, scrambled, with the codeword
that it fills, and the lane goes on to the next slot; on lane index 0 it carries the credit report. A port that does
not carry cells, or in the safe state or the power-fault ramp, sends an IDLE cell with the seq of its next data cell;
a cell to be resent goes first, as it was; and with no cell to resend, the packet in progress at rank 1 with credit
sends its next cell, which takes the next seq, a credit of its pair and a place in the replay buffer. A lane that
sends no frames sends none, and before a control slot the lane waits. The choice of a cell (06 R173 to R176). On an
ACTIVE port with no cell to resend and nothing unacknowledged, whose next lane stands at a cell slot: of two packets
in progress with credit the one of the lower rank goes on, and one of rank 3 only while the entitlement of its flow
queue is 1 or more. An eligible packet outside the flow queues, for which the deficits of its slice and channel
suffice, starts at rank 1 on channel 0 and 2 on channel 7, where the cap has tokens, and then pays it; at 5 where it
has none; and at rank 4 on channels 1 to 6. -/
def Obligations.CellOpportunitySends : Prop :=
  (∀ (t p : Nat) (s : State), p < 512 → s.startsPort p = true →
    let idx := (s.outPort p).nextLane % s.portWidth p
    let x := s.lane (p + idx)
    let rep : BitVec 4 × BitVec 8 := if idx ≠ 0 then (0, 0)
      else (BitVec.ofNat 4 (s.port p).nextReport, BitVec.ofNat 8 ((s.port p).pair (s.port p).nextReport).shown)
    let sends (s' : State) (ty : BitVec 4) (vc : BitVec 3) (sub : Bool) (seq : BitVec 12) (body : List Byte) : Prop :=
      let b := cellBytes ty vc sub seq rep.1 rep.2 body
      let line := (slotLine x.txSlot x.scr b).1
      let bits := x.txBits ++ bitsLsb line
      s'.sent = (if bits.length < 5140 then [] else [.codeword (p + idx) (codewordLevels (bits.take 5140))]) ++
        .cell (p + idx) x.txSlot b line :: s.sent ∧
      (s'.lane (p + idx)).txSlot = nextSlot x.txSlot ∧ (s'.lane (p + idx)).scr = (slotLine x.txSlot x.scr b).2 ∧
      (s'.outPort p).nextLane = (idx + 1) % s.portWidth p
    (s.framed (p + idx) = false → Runs (.cellOpportunity t p .none) s (fun s' => s'.sent = s.sent ∧ s'.ports = s.ports ∧
      s'.lanes = s.lanes ∧ (s'.outPort p).nextLane = (idx + 1) % s.portWidth p ∧ (s'.outPort p).queue = (s.outPort p).queue)) ∧
    (s.framed (p + idx) = true → controlSlot x.txSlot = true →
      Runs (.cellOpportunity t p .none) s (fun s' => s' = { s with now := max s.now t })) ∧
    (s.framed (p + idx) = true → controlSlot x.txSlot = false →
    (s.sendsData p = false → Runs (.cellOpportunity t p .none) s (fun s' =>
      sends s' 0 0 false (((s.port p).resend.head?.map SentCell.seq).getD (s.port p).txSeq) (zeros 256) ∧
      (s'.port p).txSeq = (s.port p).txSeq ∧ (s'.port p).replay = (s.port p).replay ∧
      (s'.outPort p).queue = (s.outPort p).queue)) ∧
    (∀ (c : SentCell) (cs : List SentCell), s.sendsData p = true → s.dieRuns (dieTile (tileOf p)) = true →
      (s.port p).resend = c :: cs → Runs (.cellOpportunity t p .none) s (fun s' =>
        sends s' c.ctype c.vc c.sub c.seq c.body ∧ (s'.port p).resend = cs ∧
        (s'.port p).txSeq = (s.port p).txSeq ∧ (s'.port p).replay = (s.port p).replay)) ∧
    (∀ g : Prog, (s.port p).state = .active → s.halted = false → s.dieRuns (dieTile (tileOf p)) = true →
      (s.port p).resend = [] → (s.port p).replay = [] →
      (s.outPort p).prog = [g] → (s.outPort p).queue = [] → g.rank = 1 → g.sentCells + 1 < g.cells → 0 < g.sentCells →
      ((s.port p).pair g.pkt.pair).sentCells < ((s.port p).pair g.pkt.pair).returned + ((s.port p).pair g.pkt.pair).granted →
      Runs (.cellOpportunity t p .none) s (fun s' =>
        sends s' 2 g.pkt.hdr.vc g.pkt.sub (s.port p).txSeq (sliceOf g.wire (256 * g.sentCells) 256) ∧
        (s'.port p).txSeq = (s.port p).txSeq + 1 ∧
        ((s'.port p).pair g.pkt.pair).sentCells = ((s.port p).pair g.pkt.pair).sentCells + 1 ∧
        (s'.outPort p).prog = [{ g with sentCells := g.sentCells + 1 }] ∧ (s'.port p).replay.length = 1)))) ∧
  (∀ (t p : Nat) (s : State), p < 512 → s.startsPort p = true →
    (s.port p).state = .active → s.halted = false → s.dieRuns (dieTile (tileOf p)) = true →
    (s.port p).resend = [] → (s.port p).replay = [] →
    let o := s.outPort p
    let idx := o.nextLane % s.portWidth p
    let x := s.lane (p + idx)
    s.framed (p + idx) = true → controlSlot x.txSlot = false →
    let rep : BitVec 4 × BitVec 8 := if idx ≠ 0 then (0, 0)
      else (BitVec.ofNat 4 (s.port p).nextReport, BitVec.ofNat 8 ((s.port p).pair (s.port p).nextReport).shown)
    let sends (s' : State) (ty : BitVec 4) (q : QPkt) (body : List Byte) : Prop :=
      let b := cellBytes ty q.hdr.vc q.sub (s.port p).txSeq rep.1 rep.2 body
      .cell (p + idx) x.txSlot b (slotLine x.txSlot x.scr b).1 ∈ s'.sent ∧ (s'.port p).txSeq = (s.port p).txSeq + 1
    let credit (g : Prog) : Prop := s.pairCredit p g.pkt.pair = true ∧ 0 < g.sentCells ∧ g.sentCells + 1 < g.cells
    let goesOn (g : Prog) : Prop := Runs (.cellOpportunity t p .none) s (fun s' =>
      sends s' 2 g.pkt (sliceOf g.wire (256 * g.sentCells) 256))
    (∀ a b : Prog, o.prog = [a, b] ∨ o.prog = [b, a] → a.pkt.pair ≠ b.pkt.pair → o.queue = [] → credit a → credit b →
      (a.rank < b.rank → a.rank ∈ [1, 2, 4] → b.rank ∈ [2, 4, 5] → goesOn a) ∧
      (∀ f, a.rank = 3 → a.pkt.fq = some f → s.isCalendar p f = true → o.calNext = none →
        (1 ≤ (s.fqr f).entitlement → b.rank = 4 ∨ b.rank = 5 → goesOn a) ∧
        ((s.fqr f).entitlement ≤ -1 → b.rank = 4 → goesOn b))) ∧
    (∀ q : QPkt, o.prog = [] → o.queue = [q] → q.launched = true → q.fq = none → (s.cfg p).enc = false →
      (q.hdr.cls = 2 → crc32c q.payload = q.payCrc) → s.pairCredit p q.pair = true →
      let vc := q.hdr.vc.toNat
      let h := { q.hdr with enc := false, keyPhase := false, gcmCtr := 0 }
      let wire := wireBytes h q.coll q.payload q.payCrc q.crcPresent q.pair none
      let cells := cellsOf (pktLen h)
      s.counted p q.hdr ≤ tget 0 o.sliceDeficit (vc * 256 + q.hdr.slice.toNat) →
      let starts (rank : Nat) (paid : State → Prop) : Prop := Runs (.cellOpportunity t p .none) s (fun s' => paid s' ∧
        sends s' (if cells = 1 then 4 else 1) q (sliceOf wire 0 256) ∧ (cells = 1 → (s'.outPort p).prog = []) ∧
        (1 < cells → (s'.outPort p).queue = [] ∧ ∃ g, (s'.outPort p).prog = [g] ∧ g.pkt = q ∧ g.rank = rank ∧
          g.sentCells = 1 ∧ g.cells = cells ∧ g.wire = wire))
      let c := s.schedOf p
      let cap0 := min 0 (o.cap0 + c.cap0.toNat)
      let cap7 := min 0 (o.cap7 + c.cap7.toNat)
      (vc = 0 → 0 ≤ cap0 + (4096 * c.burst0.toNat : Nat) →
        starts 1 (fun s' => (s'.outPort p).cap0 = cap0 - (4096 * cells : Nat) ∧ (s'.outPort p).cap7 = cap7)) ∧
      (vc = 7 → 0 ≤ cap7 + (4096 * c.burst7.toNat : Nat) →
        starts 2 (fun s' => (s'.outPort p).cap7 = cap7 - (4096 * cells : Nat) ∧ (s'.outPort p).cap0 = cap0)) ∧
      (vc = 0 ∧ cap0 + (4096 * c.burst0.toNat : Nat) < 0 ∨ vc = 7 ∧ cap7 + (4096 * c.burst7.toNat : Nat) < 0 →
        starts 5 (fun s' => (s'.outPort p).cap0 = cap0 ∧ (s'.outPort p).cap7 = cap7)) ∧
      (1 ≤ vc → vc ≤ 6 → o.visit = vc → s.counted p q.hdr ≤ tget 0 o.deficit vc →
        starts 4 (fun s' => (s'.outPort p).cap0 = cap0 ∧ (s'.outPort p).cap7 = cap7))))

/-- Egress timers (06 R181, 11 R333, 04 R122, 13 R410): a flow queue on level 0 of the wheel whose slot is due becomes
eligible and one whose slot is not due stays; a held packet whose launch count has come is released, and one that
joined launch_max ago is released and counted; and a port out of ACTIVE and QUARANTINE for port_hold discards its
queue and counts each packet, and a flow queue that this leaves empty has entitlement 0 (06 R176); in the safe state
the queue stays. -/
def Obligations.EgressTimersRun : Prop := ∀ (t tile p : Nat) (s : State), tile < 16 → p < 512 →
  s.dieRuns (dieTile tile) = true → s.dieRuns (dieTile (tileOf p)) = true →
  (∀ q pos e, (s.fqr q).wheel = some (0, pos, e) → q / 4096 = tile →
    Runs (.wheelSlotDue t tile) s (fun s' =>
      (s'.fqr q).wheel = (if (e + 7) / 8 * 8 ≤ max s.now t then none else some (0, pos, e)) ∧
      (s'.fqr q).tokens = (s.fqr q).tokens ∧ (∀ k, k / 4096 ≠ tile → s'.fqr k = s.fqr k) ∧ s'.out = s.out)) ∧
  (∀ x : QPkt, (s.outPort p).queue = [x] → x.launched = false →
    let due := (s.tick t).launchDue p x.hdr
    let far := decide (x.joinedAt + s.ftc.launchMax.toNat * 1000000 ≤ max s.now t)
    Runs (.launchHoldEnd t p) s (fun s' =>
      (s'.outPort p).queue = [{ x with launched := due || far }] ∧
      s'.ftc.launchFar = satAdd s.ftc.launchFar (if !due && far then 1 else 0) ∧
      (∀ q, q ≠ p → s'.outPort q = s.outPort q) ∧ s'.sent = s.sent)) ∧
  (∀ (a : Nat) (x : QPkt), (s.outPort p).holdFrom = some a → s.portOut p = true → (s.outPort p).holdOut = false →
    (s.outPort p).queue = [x] →
    (a + 1000 * (s.cfg p).portHold.toNat ≤ max s.now t → s.vent.inSafe = false → Runs (.portHoldExpiry t p) s (fun s' =>
      (s'.outPort p).queue = [] ∧ (s'.outPort p).holdOut = true ∧
      (s'.pktCntOf p).holdDrop = satInc (s.pktCntOf p).holdDrop ∧
      (∀ f, x.fq = some f → f / 4096 = tileOf p → (s.fq f).port.toNat = p % 32 → (s.outPort p).prog = [] →
        (s'.fqr f).entitlement = 0) ∧
      (∀ q, q ≠ p → s'.outPort q = s.outPort q ∧ s'.pktCntOf q = s.pktCntOf q) ∧ s'.sent = s.sent)) ∧
    (max s.now t < a + 1000 * (s.cfg p).portHold.toNat ∨ s.vent.inSafe = true →
      Runs (.portHoldExpiry t p) s (fun s' => s' = { s with now := max s.now t })))

/-- Fumarole (06 R184 to R186, 09 R281, 12 R366): at the start of a period of a class the settings written take effect,
samples not yet taken are skipped and counted, and with sampling disabled none is due; with sampling into history, the
one valid flow queue of the class has its sample written and its byte count starts again; with sampling into a ring, a
sample that finds an event ring full is counted in ring_drops and one whose ring is disabled is a lost record; and
TELEM_SNAP copies records of the tile's share to the master, but none of a share whose die is lost (the model's
choice, log entry 232). -/
def Obligations.FumaroleSamples : Prop := ∀ (t tile c : Nat) (s : State), tile < 16 → 1 ≤ c → c ≤ 3 →
  (∀ k, k ≠ c → tget [] (s.tile tile).fm.due k = []) → s.dieRuns (dieTile tile) = true →
  tget 0 (s.tile tile).fm.startedAt c ≠ max s.now t + 1 →
  let m := (s.tile tile).fm
  let only (f : Nat) : Prop := ∃ q : FqCfg, q.sampleClass.toNat = c ∧
    s.fqCfg.filter (fun e => e.1 / 4096 == tile && e.2.valid && e.2.sampleClass != 0) = [(f, q)]
  (max s.now t % (1000 * (m.setting c).1) = 0 → m.enable = false →
    Runs (.fumarolePeriod t tile c) s (fun s' => tget none (s'.tile tile).fm.inForce c = some (m.written c) ∧
      (s'.tile tile).fm.skipped = satAdd m.skipped (tget [] m.due c).length ∧
      tget [] (s'.tile tile).fm.due c = [] ∧ (s'.tile tile).fm.records = m.records ∧
      s'.fqRun = s.fqRun ∧ s'.pkg = s.pkg ∧ s'.sent = s.sent)) ∧
  (∀ f, max s.now t % (1000 * (m.setting c).1) = 0 → m.enable = true → m.history = true →
    only f → m.spent (max s.now t) < 64 → m.nextRecord + 1 < m.shareRecords → (s.caldera (historyDie tile)).lost = false →
    Runs (.fumarolePeriod t tile c) s (fun s' =>
      tget {} s'.pkg.history (tile * 2 ^ 32 + m.nextRecord) = { bytes := (s.tick t).sampleBytes f, key := s.trust.pkgKey } ∧
      (s'.fqr f).txBytes = 0 ∧ (s'.tile tile).fm.records = satInc m.records ∧
      (s'.tile tile).fm.nextRecord = m.nextRecord + 1 ∧ tget [] (s'.tile tile).fm.due c = [])) ∧
  (∀ f, max s.now t % (1000 * (m.setting c).1) = 0 → m.enable = true → m.history = false → only f →
    m.spent (max s.now t) < 64 →
    let g := s.ring m.ring.toNat
    (g.enable = true → g.kind = 2 → g.room 1 false = false → Runs (.fumarolePeriod t tile c) s (fun s' =>
      (s'.tile tile).fm.ringDrops = satInc m.ringDrops ∧ (s'.tile tile).fm.records = m.records ∧
      (s'.fqr f).txBytes = 0 ∧ s'.host.lostRecords = s.host.lostRecords ∧ s'.sent = s.sent)) ∧
    (g.enable = false ∨ g.kind ≠ 2 → Runs (.fumarolePeriod t tile c) s (fun s' =>
      (s'.tile tile).fm.ringDrops = m.ringDrops ∧ (s'.tile tile).fm.records = m.records ∧
      (s'.fqr f).txBytes = 0 ∧ s'.host.lostRecords = satInc s.host.lostRecords ∧ s'.sent = s.sent))) ∧
  (∀ (j : Job) (js : List Job), s.clkStopped dieTD = false → s.vent.inSafe = false → s.jobs = j :: js →
    jobIs 11 0 j = true → j.started = false →
    ∀ mm, j.src = .mbox mm → mm ≠ 1 →
    let sh := fieldOf j.desc 8 1
    let first := fieldOf j.desc 12 4
    let n := fieldOf j.desc 16 4
    (sh ≤ 15 → 1 ≤ n → n ≤ 2048 → first + n ≤ (s.tile sh).fm.shareRecords →
      ((s.caldera (historyDie sh)).lost = true → Runs (.telemSnap t .none) s (fun s' =>
        (s'.master mm).stage = (s.master mm).stage ∧ j.Reports 0x22 s')) ∧
      ((s.caldera (historyDie sh)).lost = false → Runs (.telemSnap t .none) s (fun s' =>
      (s'.master mm).stage = memWrite 0 (s.master mm).stage (fieldOf j.desc 24 8)
        ((List.range n).flatMap (fun i => s.historyRecord sh (first + i))) ∧
        s'.pkg = s.pkg ∧ j.Reports 0x00 s'))) ∧
    (15 < sh ∨ n = 0 → Runs (.telemSnap t .none) s (fun s' => (s'.master mm).stage = (s.master mm).stage ∧
      j.Reports 0x76 s')))

/-- Fences (10 R314 to R317), while the tile runs: the first signal waiting at a tile's fences passes at once where its
fence is 0, passes broken and is counted where its port is not ACTIVE, and otherwise is held on a new entry with count
0; timeout_us after its arrival a held signal is released broken and counted; and an entry that holds no signal and
has not changed for ten times timeout_us is freed. -/
def Obligations.FencesHoldSignals : Prop := ∀ (t p : Nat) (q : QPkt) (s : State), p < 512 → s.dieRuns (dieTile (tileOf p)) = true →
  let tile := tileOf p
  let vc := sigVc q.coll
  let src := q.hdr.src.toNat
  (∀ rest, (s.tile tile).atFence = (p, q) :: rest → (s.tile tile).fences = [] → (s.tile tile).heldSignals = [] →
    (sigFence q.coll = 0 → (s.port p).state = .active → Runs (.fenceSignalArrival t tile) s (fun s' =>
      (s'.tile tile).atFence = rest ∧ (s'.tile tile).heldSignals = [] ∧ (s'.tile tile).fences = [] ∧
      (∃ x : QPkt, (s'.outPort p).queue = (s.outPort p).queue ++ [x] ∧ x.coll = q.coll ∧ x.payload = q.payload))) ∧
    (0 < sigFence q.coll → (s.port p).state = .quarantine → Runs (.fenceSignalArrival t tile) s (fun s' =>
      (s'.tile tile).atFence = rest ∧ (s'.tile tile).fBroken = satInc (s.tile tile).fBroken ∧
      (s'.tile tile).heldSignals = [] ∧
      (∃ x : QPkt, (s'.outPort p).queue = (s.outPort p).queue ++ [x] ∧ x.coll = patch q.coll 20 [byteAt q.coll 20 ||| 2]))) ∧
    (0 < sigFence q.coll → (s.port p).state = .active → (s.hodCfg p).trackVcs.getLsbD vc = true →
      Runs (.fenceSignalArrival t tile) s (fun s' => (s'.tile tile).atFence = rest ∧
        (s'.tile tile).fences = [(p % 32, src, vc, 0, max s.now t)] ∧
        (s'.tile tile).heldSignals = [(p % 32, src, vc, sigFence q.coll, max s.now t, q)] ∧ s'.out = s.out))) ∧
  (∀ f a, (s.tile tile).heldSignals = [(p % 32, src, vc, f, a, q)] → (s.port p).state = .active →
    (a + 1000 * (s.hodCfg p).timeoutUs.toNat ≤ max s.now t → Runs (.fenceTimeout t p) s (fun s' =>
      (s'.tile tile).heldSignals = [] ∧ (s'.tile tile).fBroken = satInc (s.tile tile).fBroken ∧
      (∃ x : QPkt, (s'.outPort p).queue = (s.outPort p).queue ++ [x] ∧ x.coll = patch q.coll 20 [byteAt q.coll 20 ||| 2]))) ∧
    (max s.now t < a + 1000 * (s.hodCfg p).timeoutUs.toNat →
      Runs (.fenceTimeout t p) s (fun s' => s' = { s with now := max s.now t }))) ∧
  (∀ (v : Nat) (n : Int) (a : Nat), v < 8 → (s.tile tile).fences = [(p % 32, src, v, n, a)] → (s.tile tile).heldSignals = [] →
    a + 10000 * (s.hodCfg p).timeoutUs.toNat ≤ max s.now t → Runs (.fenceEvict t p src v) s (fun s' =>
      (s'.tile tile).fences = [] ∧ (s'.tile tile).fEvicted = satInc (s.tile tile).fEvicted ∧ s'.out = s.out))

/-- Fabric time (11 R326, R327, R329 to R331, R343): a Driant made root goes to ROOT; in FREE the best eligible port
becomes the source and the state is ACQUIRE; an edge of FTC_SYNC with a load pending on a root puts the value into the
FTC and counts a step; HOLDOVER of holdover_ms goes to FREE; a Driant in LOCKED with no eligible port left goes to
HOLDOVER, where it keeps the last integral rate; a die's copy shows its offset; and a read of the low word latches the
high one. Determinism counts (11 R339, R340, R346, 00 R9): the owner's PK_DET_COMMIT brings a pending DET_STRICT into
force, but one written in the same cycle waits for the next commit; a report of an adaptive choice counts in the
invocation it names where that is open, and for its slice otherwise. -/
def Obligations.TimeKeptAndDeterminismCounted : Prop :=
  (∀ (t : Nat) (s : State),
    (s.ftc.root = true → s.ftc.state ≠ .root → Runs (.sourceReevaluation t) s (fun s' => s'.ftc.state = .root ∧
      s'.ftc.hops = 0 ∧ s'.ftc.rootId = s.pkg.serial ∧ s'.ftc.source = none ∧ s'.ports = s.ports)) ∧
    (∀ p, s.ftc.root = false → s.ftc.state = .free → s.bestSource s.timeSources = some p →
      Runs (.sourceReevaluation t) s (fun s' => s'.ftc.state = .acquire ∧ s'.ftc.source = some p ∧
        s'.ftc.shownSource = BitVec.ofNat 9 p ∧ s'.ftc.hops = 255 ∧ s'.ftc.count = s.ftc.count)) ∧
    (s.ftc.root = false → s.ftc.state = .locked → s.timeSources = [] → (∀ p, s.ftc.source = some p → s.timeEligible p = false) →
      Runs (.sourceReevaluation t) s (fun s' => s'.ftc.state = .holdover ∧ s'.ftc.source = none ∧ s'.ftc.hops = 255 ∧
        s'.ftc.holdFrom = max s.now t ∧ s'.ftc.rate = max (-rateMax) (min rateMax s.ftc.integral) ∧
        s'.ftcNow = (s.tick t).ftcNow ∧ s'.ports = s.ports)) ∧
    (s.ftc.state = .root → s.ftc.syncEn = true → s.ftc.loadPending = true → Runs (.ftcSyncEdge t) s (fun s' =>
      s'.ftc.count = s.ftc.loadValue.toNat * 4294967296 ∧ s'.ftc.base = max s.now t ∧ s'.ftc.loadPending = false ∧
      s'.ftc.edgeSeen = true ∧ s'.ftc.steps = satInc s.ftc.steps ∧ s'.ftc.rate = s.ftc.rate)) ∧
    (s.ftc.state ≠ .root ∨ s.ftc.syncEn = false → Runs (.ftcSyncEdge t) s (fun s' => s' = { s with now := max s.now t })) ∧
    (s.ftc.state = .holdover →
      (s.ftc.holdFrom + 1000000 * s.ftc.holdoverMs.toNat ≤ max s.now t → Runs (.holdoverExpiry t) s (fun s' =>
        s'.ftc = { s.ftc with state := .free, streak := 0, source := none, hops := 255, rootId := 0 } ∧
        s'.ports = s.ports)) ∧
      (max s.now t < s.ftc.holdFrom + 1000000 * s.ftc.holdoverMs.toNat →
        Runs (.holdoverExpiry t) s (fun s' => s' = { s with now := max s.now t }))) ∧
    (∀ (d : Nat) (off : Int), d < 104 → off.natAbs ≤ 64 → Runs (.ftcCopyCompare t d off) s (fun s' =>
      (s'.die d).ftcOffset = off ∧ (∀ k, k ≠ d → s'.die k = s.die k) ∧ s'.ftc = s.ftc ∧ s'.sent = s.sent)) ∧
    (∀ m, isMaster m = true → Served (.ftcNowRead t m) s (fun s' =>
      s'.sent = .value m 0x2800 (BitVec.ofNat 32 (s.tick t).ftcNow) :: s.sent ∧
      s'.ftc = { s.ftc with latched := BitVec.ofNat 32 ((s.tick t).ftcNow / 4294967296) }))) ∧
  (∀ (t m : Nat) (s : State), isMaster m = true →
    (∀ v, s.isOwner m = true → s.ftc.detPending = some v → s.ftc.detAt ≠ mgCycle (max s.now t) + 1 →
      Served (.pkDetCommit t m) s (fun s' =>
        s'.ftc = { s.ftc with detStrict := v, detPending := none, detOld := none } ∧ s'.sent = s.sent)) ∧
    (∀ v, s.isOwner m = true → s.ftc.detPending = some v → s.ftc.detAt = mgCycle (max s.now t) + 1 →
      Served (.pkDetCommit t m) s (fun s' =>
        s'.ftc = { s.ftc with detStrict := s.ftc.detOld.getD s.ftc.detStrict, detOld := none } ∧ s'.sent = s.sent)) ∧
    ((s.tick t).mayWrite m = false → Served (.pkDetCommit t m) s (fun s' => s' = { s.refuseWrite m with now := max s.now t })) ∧
    (∀ g step slice rest, s.reports = (g, step, slice) :: rest →
      (s.openInv g step = none → Runs (.adaptiveReport t) s (fun s' => s'.reports = rest ∧
        tget 0 s'.ndetSlice slice = satInc (tget 0 s.ndetSlice slice) ∧ s'.invs = s.invs ∧
        (∀ k, k ≠ slice → tget 0 s'.ndetSlice k = tget 0 s.ndetSlice k))) ∧
      (∀ k v, s.openInv g step = some k → s.inv k = some v → Runs (.adaptiveReport t) s (fun s' => s'.reports = rest ∧
        s'.inv k = some { v with adaptive := satInc v.adaptive } ∧ s'.ndetSlice = s.ndetSlice))))

/-- Landing on a die that runs (05 R146, 09 R261, R269 to R271): the first good cell of a packet for a Caldera die, from a
Caldera die or a tile that is not isolated, takes the lowest free place of landing (the model's choice, log entry 228)
under a fresh identifier; the header of a CONTRIB or PARTIAL for a segment that CREDIT may cover binds a free slot of
its invocation to the segment, its entries cleared (as the header slot lands: the model's inference, log entry 60); a
message on VC 1 for another engine is discarded and counted in misdirected; a whole packet with verdict PASS on the
fold unit passes the intake checks; one with another verdict, or one with a corrupt cell, is discarded and counted;
and a packet incomplete for 2 µs is discarded and counted. -/
def Obligations.CalderaLandsPackets : Prop := ∀ (t die : Nat) (s : State), die < 8 →
  s.dieRuns (dieCaldera die) = true →
  (∀ (plane : Nat) (cell : FabCell) (rest : List (Nat × FabCell)), tget [] s.fabric.toPort (16 + die) = (plane, cell) :: rest →
    cell.data = true → cell.fails false = false → cell.credits = [] → (s.caldera die).lost = false → s.halted = false →
    (cell.src < 16 → s.dieOut (dieTile cell.src) = false) →
    (s.caldera die).landing = [] → cell.index + 1 < cell.count →
    Runs (.calderaCellLanding t die false) s (fun s' => tget [] s'.fabric.toPort (16 + die) = rest ∧
      s'.nextId = s.nextId + 1 ∧ (s'.caldera die).landing = [{
        id := s.nextId, src := cell.src, vc := cell.vc.toNat, relSeq := cell.relSeq
        user := if cell.vc = 4 then 8 else cell.mask.toNat % 8, firstAt := max s.now t, count := cell.count
        got := [(cell.index, cell.body)], cellAt := [(cell.index, 0)], failed := false, verdict := 0, payCrc := 0, crcPresent := false
        inPort := cell.inPort, phase := .receiving }] ∧ (∀ d, d ≠ die → s'.caldera d = s.caldera d)) ∧
    (∀ k v r n, let c := parseColl (sliceOf cell.body 32 32)
      let j := c.seg
      cell.index = 0 → cell.vc = 1 → c.msg = msgContrib ∨ c.msg = msgPartial → s.findInv c.group c.step = some k →
      s.inv k = some v → v.engineOf j = 8 * die + cell.mask.toNat % 8 → v.reserving = false → v.state = .reduce →
      s.groupRec v.group = some r → v.front ≤ j → j < v.front + r.creditWindow → (v.seg j).bound = false →
      (v.seg j).produced = false → (v.seg j).freed = false → s.slotFor k v (v.engineOf j) = some n →
      Runs (.calderaCellLanding t die false) s (fun s' => ∃ v', s'.inv k = some v' ∧ (v'.seg j).slot = some n ∧
        (v'.seg j).entries = [] ∧ (∀ i, i ≠ j → v'.seg i = v.seg i)))) ∧
  (∀ l : Landed, (s.caldera die).landing = [l] → l.phase = .receiving → s.halted = false →
    (l.got.length = l.count → l.failed = false → l.verdict = 1 → l.crcPresent = false → l.user = 8 → l.read.hdr.vc ≠ 1 →
      Runs (.intakeCheck t die l.id .none) s (fun s' =>
        (s'.caldera die).landing = [{ l with phase := .checked }] ∧ (s'.caldera die).intake = (s.caldera die).intake)) ∧
    (l.got.length = l.count → l.failed = false → l.verdict ≠ 1 → Runs (.intakeCheck t die l.id .none) s (fun s' =>
      (s'.caldera die).landing = [] ∧ (tget {} (s'.caldera die).intake l.user).verdictDrop =
        satInc (tget {} (s.caldera die).intake l.user).verdictDrop ∧ s'.sent = s.sent)) ∧
    (l.got.length = l.count → l.failed = false → l.verdict = 1 → l.crcPresent = false → l.read.hdr.vc = 1 →
      s.engineFor 1 (collBytes l.read.coll) ≠ 8 * die + l.user → Runs (.intakeCheck t die l.id .none) s (fun s' =>
      (s'.caldera die).landing = [] ∧ (tget {} (s'.caldera die).intake l.user).misdirected =
        satInc (tget {} (s.caldera die).intake l.user).misdirected)) ∧
    (l.got.length = l.count → l.failed = true → Runs (.intakeCheck t die l.id .none) s (fun s' =>
      (s'.caldera die).landing = [] ∧ (tget {} (s'.caldera die).intake l.user).fabCrc =
        satInc (tget {} (s.caldera die).intake l.user).fabCrc)) ∧
    (l.got.length ≠ l.count → l.firstAt + 2000 ≤ max s.now t → Runs (.landingTimeout t die l.id) s (fun s' =>
      (s'.caldera die).landing = [] ∧ (tget {} (s'.caldera die).intake l.user).reasmTimeout =
        satInc (tget {} (s.caldera die).intake l.user).reasmTimeout)) ∧
    (max s.now t < l.firstAt + 2000 → Runs (.landingTimeout t die l.id) s (fun s' => s' = { s with now := max s.now t })))

/-- CONTRIB and PARTIAL (08 R236, R239, R244, 09 R271): in an invocation that adds, a segment within the child's limit
that has not counted, of the right length and without a copy waiting, waits to be added, with a slot bound to it where
it has one or one is free and CREDIT may cover it; one above the limit is discarded and counted in credit_viol, and
one that has counted already in dup_segments. Messages outside every group or of the wrong operation (08 R234, R244
rows 1 and 4, R256): a CONTRIB for a group that is not installed is discarded, counted in rejected and answered with
STATUS GROUP_BAD, detail 5, to its sender, which the lead engine's die sends or, where the lookup has no way for it,
counts in egress_drop; one whose operation is not the group's is counted in mismatches and discarded, in its
invocation or, where none is open, in the group (the model's inference, log entry 224), and creates none (the model's
inference, log entry 68). Creation by a first message (08 R237, 09 R265, R266): a CONTRIB of the expected STEP, from a
child of an installed group, that agrees with the group and finds no invocation open takes the lowest free record of
the lead engine's die: an ARMED invocation of that group and STEP with the message's launch count, under FIXED the
group's count, on the engines of the plan, which waits for its slots with the message in landing; where no record of
the die is free, the message is discarded and counted in invoc_limit. -/
def Obligations.MessagesAcceptedOrRefused : Prop :=
  (∀ (t die id k i c : Nat) (m : LandMsg) (x : Run) (s : State), die < 8 →
    x.v.state = .reduce → x.v.count = some c → ¬ (x.p.isMember i = true ∧ x.r.countMode = 2) →
    ∀ q ∈ [(Instr.contrib t die id, msgContrib), (.partialMsg t die id, msgPartial)], s.Admitted die id q.2 m k i x →
    let j := m.coll.seg
    (j ≤ x.limitOf i → (x.v.child i).token ≤ j → segElems c j ≠ 0 → m.payload.length = segLen x.r.etype.toNat (segElems c j) →
      m.coll.exactUp = false → m.coll.part = 0 → segWaits x i j s = false →
      ((x.v.seg j).bound = true ∨ ((s.slotFor k x.v (x.v.engineOf j)).isSome = true ∧ x.v.front ≤ j ∧
        j < x.v.front + x.r.creditWindow ∧ (x.v.seg j).produced = false ∧ (x.v.seg j).freed = false)) →
      Runs q.1 s (fun s' => (s'.landed die id).map Landed.phase = some .waiting ∧
        (∃ v, s'.inv k = some v ∧ (v.seg j).bound = true ∧ v.dup = x.v.dup ∧ v.creditViol = x.v.creditViol) ∧
        s'.sent = s.sent)) ∧
    (x.limitOf i < j → Runs q.1 s (fun s' => s'.landed die id = none ∧
      ∃ v, s'.inv k = some v ∧ v.creditViol = satInc x.v.creditViol ∧ v.dup = x.v.dup ∧ v.segs = x.v.segs)) ∧
    (j ≤ x.limitOf i → j < (x.v.child i).token → Runs q.1 s (fun s' => s'.landed die id = none ∧
      ∃ v, s'.inv k = some v ∧ v.dup = satInc x.v.dup ∧ v.creditViol = x.v.creditViol ∧ v.segs = x.v.segs))) ∧
  (∀ (t die id : Nat) (m : LandMsg) (s : State), die < 8 →
    s.checkedMsg die id msgContrib = some m →
    (s.groupRec m.coll.group = none → s.findInv m.coll.group m.coll.step = none →
      Runs (.contrib t die id) s (fun s' => s'.landed die id = none ∧
        (s'.group m.coll.group).rejected = satInc (s.group m.coll.group).rejected ∧ s'.invs = s.invs ∧
        (let e := s.leadOf m.coll.group
         (s.caldera (e / 8)).lost = false →
          (∃ q : CaPkt, (s.nextId, q) ∈ (s'.caldera (e / 8)).egress ∧ q.hdr.dst = m.hdr.src ∧ q.hdr.vc = 7 ∧
            (parseColl q.coll).msg = msgStatus ∧ byteAt q.payload 0 = 0x15 ∧ fieldOf q.payload 2 2 = 5) ∨
          (tget {} (s'.caldera (e / 8)).intake (e % 8)).egressDrop =
            satInc (tget {} (s.caldera (e / 8)).intake (e % 8)).egressDrop))) ∧
    (∀ k i x, s.findInv m.coll.group m.coll.step = some k → s.runOf k = some x → x.v.group = m.coll.group →
      (s.group m.coll.group).suspended = none → x.p.childOf m.hdr.src.toNat m.coll = some i → x.v.reserving = false →
      x.v.state = .reduce → x.v.launch = m.launch → (x.v.child i).dropped = none → m.coll.op ≠ x.r.op.toNat →
      Runs (.contrib t die id) s (fun s' => s'.landed die id = none ∧
        ∃ v, s'.inv k = some v ∧ v.mismatches = satInc x.v.mismatches ∧ v.segs = x.v.segs)) ∧
    (∀ r p i, s.groupRec m.coll.group = some r → s.groupPlan m.coll.group = some p →
      (s.group m.coll.group).suspended = none → p.childOf m.hdr.src.toNat m.coll = some i →
      s.findInv m.coll.group m.coll.step = none → m.coll.step = (s.group m.coll.group).expected → m.coll.op ≠ r.op.toNat →
      Runs (.contrib t die id) s (fun s' => s'.landed die id = none ∧ s'.invs = s.invs ∧
        (s'.group m.coll.group).mismatches = satInc (s.group m.coll.group).mismatches))) ∧
  (∀ (t die id i f : Nat) (m : LandMsg) (r : GroupRec) (p : Plan) (s : State), die < 8 →
    s.checkedMsg die id msgContrib = some m → s.groupRec m.coll.group = some r → s.groupPlan m.coll.group = some p →
    (s.group m.coll.group).suspended = none → p.childOf m.hdr.src.toNat m.coll = some i → rows47 r p i m = none →
    s.findInv m.coll.group m.coll.step = none → m.coll.step = (s.group m.coll.group).expected →
    let engines := (List.range p.engineCount).filterMap (fun n => s.physEngine (p.engineFirst + n))
    let record (n : Nat) : Nat := engines.getD 0 0 / 8 * 128 + n
    (f < 128 → (∀ n, n < f → s.inv (record n) ≠ none) → s.inv (record f) = none → slotsFor r p ≠ 0 →
      Runs (.contrib t die id) s (fun s' => s'.landed die id = s.landed die id ∧ (∀ k, k ≠ record f → s'.inv k = s.inv k) ∧
        ∃ v, s'.inv (record f) = some v ∧ v.group = m.coll.group ∧ v.step = m.coll.step ∧ v.state = .armed ∧
          v.launched = false ∧ v.launch = m.launch ∧ v.count = (if r.countMode = 0 then some r.count else none) ∧
          v.engines = engines ∧ v.reserving = true ∧ v.reserved = slotsFor r p ∧ v.creator = id ∧
          v.createdAt = max s.now t)) ∧
    ((∀ n, n < 128 → s.inv (record n) ≠ none) → Runs (.contrib t die id) s (fun s' => s'.landed die id = none ∧
      s'.invs = s.invs ∧ (s'.group m.coll.group).invocLimit = satInc (s.group m.coll.group).invocLimit)))

/-- COUNT, COUNT_RESULT and PARTICIPATION (08 R242, R243, R253): a member's COUNT is kept for it once; a COUNT in a group
of fixed count is discarded as malformed; the count that the parent sends in the count phase becomes the invocation's;
and a child's PARTICIPATION of 72 bytes is kept, and one of another length counts as malformed. -/
def Obligations.CountsCollected : Prop := ∀ (t die id k : Nat) (m : LandMsg) (x : Run) (s : State), die < 8 →
  (∀ i, s.Admitted die id msgCount m k i x → x.r.countMode ≠ 0 → x.v.state = .armed → x.p.isMember i = true →
    (x.v.child i).count = none → Runs (.count t die id) s (fun s' => s'.landed die id = none ∧
      ∃ v, s'.inv k = some v ∧ (v.child i).count = some (m.coll.count, m.coll.count, 1) ∧ v.state = .armed)) ∧
  (s.checkedMsg die id msgCount = some m → (∃ r, s.groupRec m.coll.group = some r ∧ r.countMode = 0) →
    s.findInv m.coll.group m.coll.step = none → Runs (.count t die id) s (fun s' => s'.landed die id = none ∧
      (s'.group m.coll.group).malformed = satInc (s.group m.coll.group).malformed ∧ s'.invs = s.invs)) ∧
  (s.OfTree die id msgCountResult m k x → x.p.apex = false → m.hdr.src = x.p.parentEp → x.v.state = .count →
    Runs (.countResult t die id) s (fun s' => s'.landed die id = none ∧
      ∃ v, s'.inv k = some v ∧ v.count = some m.coll.count ∧ v.state ≠ .count)) ∧
  (s.OfTree die id msgCountResult m k x → m.hdr.src ≠ x.p.parentEp → Runs (.countResult t die id) s (fun s' =>
    s'.landed die id = none ∧ s'.inv k = some x.v)) ∧
  (∀ i, s.Admitted die id msgParticipation m k i x → x.v.state ≠ .abort → x.v.state ≠ .done →
    (m.payload.length = 72 → Runs (.participation t die id) s (fun s' => s'.landed die id = none ∧
      ∃ v, s'.inv k = some v ∧ (v.child i).particip = some { digest := BitVec.ofNat 64 (fieldOf m.payload 0 8)
                                                             full := BitVec.ofNat 512 (fieldOf m.payload 8 64) })) ∧
    (m.payload.length ≠ 72 → Runs (.participation t die id) s (fun s' => s'.landed die id = none ∧
      s'.inv k = some { x.v with malformed := satInc x.v.malformed })))

/-- CREDIT and STATUS (08 R236, R247, R250): a CREDIT of the parent raises the highest segment that it allows, and one
from elsewhere changes nothing; an aborting STATUS of the parent puts the invocation into ABORT with its status and
detail, and a STATUS that does not abort changes nothing at a switch (the model's inference, log entry 193). -/
def Obligations.ParentCreditsAndAborts : Prop := ∀ (t die id k : Nat) (m : LandMsg) (x : Run) (s : State), die < 8 →
  (s.OfTree die id msgCredit m k x → x.p.apex = false → m.hdr.src = x.p.parentEp →
    Runs (.credit t die id) s (fun s' => s'.landed die id = none ∧
      s'.inv k = some { x.v with parentLimit := some (max m.coll.seg (x.v.parentLimit.getD 0)) } ∧ s'.sent = s.sent)) ∧
  (s.OfTree die id msgCredit m k x → m.hdr.src ≠ x.p.parentEp → Runs (.credit t die id) s (fun s' =>
    s'.landed die id = none ∧ s'.inv k = some x.v ∧ s'.sent = s.sent)) ∧
  (s.OfTree die id msgStatus m k x → x.p.apex = false → m.hdr.src = x.p.parentEp → m.payload.length = 16 →
    statusKnown (byteAt m.payload 0) = true →
    ((byteAt m.payload 1).getLsbD 1 = true → x.v.state = .reduce → Runs (.status t die id) s (fun s' =>
      s'.landed die id = none ∧ ∃ v, s'.inv k = some v ∧ v.state = .abort ∧ v.status = byteAt m.payload 0 ∧
        v.detail = BitVec.ofNat 16 (fieldOf m.payload 2 2))) ∧
    ((byteAt m.payload 1).getLsbD 1 = false → Runs (.status t die id) s (fun s' => s'.landed die id = none ∧
      s'.inv k = some x.v ∧ s'.sent = s.sent)))

/-- Creation and launch (08 R237, R238, 09 R266, 11 R334), while the lead engine's die runs: when the answers of a
reservation are in and each engine has the slots, they are reserved and the reservation ends; where one engine lacks
them the invocation is gone; and an armed invocation of the expected STEP without a launch count, out of the safe
state, launches. Adds on a die that runs (07 R201, R205, 08 R250, 09 R272, R274, R279, 13 R393): a waiting segment
whose token has come and whose add promotes nothing is added: its segment holds the sum, the token passes on and its
packet leaves landing; where an aborting STATUS comes in the same cycle it is discarded and does not count; one that
promotes and finds no record free waits; a residue that differs aborts the invocation with CALDERA_LOST and is
counted; and the oldest add that waits for records goes on once there is room, unless a residue differs or an aborting
STATUS comes then. -/
def Obligations.InvocationsLaunchAndAdd : Prop :=
  (∀ (t k : Nat) (s : State), k < 1024 →
    let used (x : Engine) : Nat := ((List.range 72).filter (fun n => (tget none x.slots n).isSome)).length
    (∀ (v : Inv) (e : Nat), s.inv k = some v → s.dieRuns (dieCaldera v.leadDie) = true → v.reserving = true → v.engines = [e] → (∀ d, s.landed d v.creator = none) →
      v.launch = none →
      ((s.engine e).slotsUsed + v.reserved ≤ 72 → Runs (.slotReservationDone t k) s (fun s' =>
        s'.inv k = some { v with reserving := false } ∧ used (s'.engine e) = used (s.engine e) + v.reserved ∧
        (∀ n q, tget none (s.engine e).slots n = some q → tget none (s'.engine e).slots n = some q) ∧
        (∀ f, f ≠ e → s'.engine f = s.engine f) ∧ s'.sent = s.sent)) ∧
      (72 < (s.engine e).slotsUsed + v.reserved → Runs (.slotReservationDone t k) s (fun s' =>
        s'.inv k = none ∧ s'.engines = s.engines ∧ s'.sent = s.sent))) ∧
    (∀ x : Run, s.runOf k = some x → s.dieRuns (dieCaldera x.v.leadDie) = true → x.v.state = .armed → x.v.launched = false → x.v.reserving = false →
      x.v.launch = none → s.halted = false →
      (x.v.step = (s.group x.v.group).expected → Runs (.invocationLaunch t k) s (fun s' =>
        ∃ v, s'.inv k = some v ∧ v.launched = true ∧ v.group = x.v.group ∧ v.step = x.v.step)) ∧
      (x.v.step ≠ (s.group x.v.group).expected → Runs (.invocationLaunch t k) s (fun s' =>
        s' = { s with now := max s.now t })))) ∧
  (∀ (t die k i j : Nat) (ids : List Nat) (q : Added) (l : Landed) (s : State), die < 8 →
    s.dieRuns (dieCaldera die) = true → (s.caldera die).landing = [l] → s.addOf die l = some (k, i, j, ids, q) → s.halted = false → l.id ∈ ids →
    (∃ v, s.inv k = some v ∧ v.engineOf j / 8 = die) →
    let added (s' : State) (es : List Entry) : Prop := (s'.caldera die).landing = [] ∧
      ∃ v, s'.inv k = some v ∧ (v.child i).token = j + 1 ∧ v.seg j = { q.seg with entries := es }
    (l.phase = .waiting → (s.tick t).abortComes k = false →
      (q.records = 0 → Runs (.segmentAdd t die l.id .none) s (fun s' => added s' q.seg.entries ∧ s'.sent = s.sent)) ∧
      (q.records ≠ 0 → (s.caldera die).recordsFor q.records = false → Runs (.segmentAdd t die l.id .none) s (fun s' =>
        (s'.caldera die).landing = [{ l with phase := .magma (max s.now t) }] ∧ s'.invs = s.invs ∧ s'.sent = s.sent))) ∧
    (l.phase = .waiting → (s.tick t).abortComes k = true → Runs (.segmentAdd t die l.id .none) s (fun s' =>
      (s'.caldera die).landing = [] ∧ s'.invs = s.invs ∧ s'.sent = s.sent)) ∧
    (l.phase = .waiting → Runs (.segmentAdd t die l.id .residue) s (fun s' =>
      (∃ v, s'.inv k = some v ∧ v.state = .abort ∧ v.status = 0x22) ∧
      (s'.die (28 + die)).residueErr = satInc (s.die (28 + die)).residueErr)) ∧
    (∀ a v, l.phase = .magma a → s.inv k = some v → q.records ≠ 0 → (s.caldera die).recordsFor q.records = true →
      (s.tick t).abortComes k = false →
      let old := if (v.seg j).entries.isEmpty then List.replicate q.seg.entries.length {} else (v.seg j).entries
      Runs (.magmaRecordGrant t die .none) s (fun s' => added s' (takeMagma k j old q.seg.entries (s.caldera die).magma).1 ∧
        (s'.caldera die).magmaUsed = (s.caldera die).magmaUsed + q.records)) ∧
    (∀ a, l.phase = .magma a → (s.caldera die).recordsFor q.records = true →
      ((s.tick t).abortComes k = true → Runs (.magmaRecordGrant t die .none) s (fun s' =>
        (s'.caldera die).landing = [] ∧ s'.invs = s.invs ∧ s'.sent = s.sent)) ∧
      Runs (.magmaRecordGrant t die .residue) s (fun s' =>
        (∃ v, s'.inv k = some v ∧ v.state = .abort ∧ v.status = 0x22) ∧
        (s'.die (28 + die)).residueErr = satInc (s.die (28 + die)).residueErr)) ∧
    (∀ a, l.phase = .magma a → a + 1000 * (s.caldera die).magmaWait.toNat ≤ max s.now t →
      s.findInv l.read.coll.group l.read.coll.step = some k → Runs (.magmaWaitExpiry t die l.id) s (fun s' =>
        (∃ v, s'.inv k = some v ∧ v.state = .abort ∧ v.status = 0x24) ∧
        (tget {} (s'.caldera die).intake l.user).magmaAborts = satInc (tget {} (s.caldera die).intake l.user).magmaAborts)) ∧
    (∀ a, l.phase = .magma a → max s.now t < a + 1000 * (s.caldera die).magmaWait.toNat →
      Runs (.magmaWaitExpiry t die l.id) s (fun s' => s' = { s with now := max s.now t })))

/-- Production and credits, on dies that run (08 R236, R240, R241, R251, 09 R267, R275, 11 R336): a segment for which
every child is settled is produced at the plan's sending step, as the rounded or exact partial, the result or the
source's own bytes, or, of a reducing EXPAND, as bytes that the spec leaves open (log entry 196); its slot is freed
once its packets have left the die; and a child gets a CREDIT for the window from the front where the front has moved
since the last. -/
def Obligations.SegmentsProducedAndCredited : Prop := ∀ (t k j i : Nat) (x : Run) (s : State), k < 1024 → j < 2 ^ 20 →
  i < 1023 → s.runOf k = some x → s.dieRuns (dieCaldera (x.v.engineOf j / 8)) = true →
  s.dieRuns (dieCaldera x.v.leadDie) = true →
  (x.v.state = .reduce → j < x.v.nseg → (x.v.seg j).produced = false → x.atProduce = true → x.ready j = true →
    x.parentAllows j = true → (s.engine (x.v.engineOf j)).running = true → s.halted = false →
    Runs (.segmentProduce t k j .none) s (fun s' => ∃ v, s'.inv k = some v ∧ (v.seg j).produced = true ∧
      (x.openResult = true → (v.seg j).sentBytes = x.openBytes j) ∧
      (x.openResult = false → (v.seg j).sentBytes =
        (if x.nothing j then []
         else if x.p.toParent then
           (if x.r.exact then (x.exactOf j).1.flatMap Prod.snd else (x.roundedOf j).1)
         else if x.p.source ∧ x.r.op ≠ 9 then (x.v.seg j).bytes else (x.resultOf j).1)) ∧
      (v.seg j).entries = [])) ∧
  (x.v.state = .reduce → x.ready j = false → Runs (.segmentProduce t k j .none) s (fun s' => s' = { s with now := max s.now t })) ∧
  ((x.v.seg j).produced = true → (x.v.seg j).leaving = 0 → (x.v.seg j).freed = false → x.v.state ≠ .abort →
    Runs (.slotFree t k j) s (fun s' => ∃ v, s'.inv k = some v ∧ (v.seg j).freed = true ∧ (v.seg j).bound = false)) ∧
  ((x.v.seg j).leaving ≠ 0 → Runs (.slotFree t k j) s (fun s' => s' = { s with now := max s.now t })) ∧
  (i < x.p.kids → x.v.state = .reduce → x.settledAll i = false → (x.v.child i).creditAt = none →
    (x.v.child i).creditFront < x.v.front → x.v.nseg ≠ 0 → Runs (.creditSend t k i) s (fun s' =>
      ∃ v, s'.inv k = some v ∧ (v.child i).creditAt = some (max s.now t) ∧ (v.child i).creditFront = x.v.front ∧
        (v.child i).limit = some (max (min (x.v.front + x.r.creditWindow - 1) (x.v.nseg - 1)) (x.limitOf i)))) ∧
  ((x.v.child i).creditFront = x.v.front → Runs (.creditSend t k i) s (fun s' => s' = { s with now := max s.now t }))

/-- Contributions add exactly, in any order (07 R199 to R202, R205): the product of finite factors has the product of
their significands and the sum of their exponents and the shift; an entry's value moves by each product by the row of
R200 that holds, exactly, truncated to a multiple of 2^-320 with under_flush, or not at all; and an entry that took
finite values of the exact domain holds their sum, which is -0 only where each is -0. Specials decide first, by the
rows of 07 R215; MIN and MAX hold the extreme of their finite values, with -0 below +0, and NaN in any of them gives
NaN (07 R208). RNE gives the finite encoding of the value's sign that is nearest to the value, the even one on a tie,
and overflows exactly from half a quantum past the largest on (07 R210, R211), as decoding reads them (07 R197). The
table of 07 R216; the result and the partial of a segment hold each element's value rounded once, the result of AVG
divided by n_s, the random word drawn for site 0 or 1 plus the tier (07 R211, R212); and an exact partial's word adds
its entry's value unchanged (07 R220 to R222). -/
def Obligations.SumsExactAndRounded : Prop :=
  ((∀ (a b : Bool) (m n : Nat) (e f k : Int), product (.fin a m e) (.fin b n f) k = .fin (xor a b) (m * n) (e + f + k)) ∧
    (∀ (x w : Val) (k : Int), (x = .nan ∨ w = .nan → product x w k = .nan) ∧
      (∀ a b f, x = .inf a → w = .fin b 0 f ∨ w = .inf b → product x w k = if w = .inf b then .inf (xor a b) else .nan)) ∧
    (∀ (t : Entry) (neg : Bool) (m : Nat) (e : Int),
      (t.promoted = true ∨ (t.live = true ∧ -320 ≤ t.wbase) ∨ (t.live = false ∧ t.win = 0)) →
      let top : Int := e + bitLen m - 1
      let r := t.addVal (.fin neg m e)
      (m = 0 → r.1.num = t.num ∧ r.2 = false) ∧
      (0 < m → 320 ≤ top → r.1.num = t.num ∧ r.2 = false ∧ r.1.oneg = (t.oneg || neg) ∧ r.1.opos = (t.opos || !neg)) ∧
      (0 < m → top < -320 → r.1.num = t.num ∧ r.2 = true) ∧
      (0 < m → -320 ≤ top → top < 320 → e < -320 →
        r.1.num = t.num + withSign neg (m / 2 ^ (-320 - e).toNat) ∧ r.2 = true) ∧
      (0 < m → top < 320 → -320 ≤ e → r.1.num = t.num + withSign neg m * 2 ^ (e + 320).toNat ∧ r.2 = false)) ∧
    (∀ vs : List (Bool × Nat × Int), vs ≠ [] →
      (∀ v ∈ vs, v.2.1 = 0 ∨ (-320 ≤ v.2.2 ∧ v.2.1 * 2 ^ (v.2.2 + 320).toNat < 2 ^ 640)) →
      let t := vs.foldl (fun (t : Entry) v => (t.addVal (.fin v.1 v.2.1 v.2.2)).1) {}
      let sum := (vs.map (fun v => if v.2.1 = 0 then 0 else withSign v.1 v.2.1 * 2 ^ (v.2.2 + 320).toNat)).sum
      t.num = sum ∧ t.settle opSum 1 = .value (decide (sum < 0) || vs.all (fun v => v.1 && v.2.1 == 0)) sum.natAbs 1)) ∧
  ((∀ vs : List Val,
      let t := vs.foldl (fun (t : Entry) v => (t.addVal v).1) {}
      (Val.nan ∈ vs ∨ (Val.inf true ∈ vs ∧ Val.inf false ∈ vs) → t.settle opSum 1 = .nan) ∧
      (∀ n, Val.nan ∉ vs → Val.inf n ∈ vs → Val.inf (!n) ∉ vs → t.settle opSum 1 = .inf n)) ∧
    (∀ (isMax : Bool) (vs : List Val),
      let t := vs.foldl (fun (t : Entry) v => t.extreme isMax v) {}
      let op := if isMax then opMax else opMin
      (Val.nan ∈ vs → t.settle op 1 = .nan) ∧
      (∀ n, Val.nan ∉ vs → Val.inf n ∈ vs → n = !isMax → t.settle op 1 = .inf n)) ∧
    (∀ (isMax : Bool) (vs : List (Bool × Nat × Int)), vs ≠ [] → (∀ v ∈ vs, -320 ≤ v.2.2) →
      let t := vs.foldl (fun (t : Entry) v => t.extreme isMax (.fin v.1 v.2.1 v.2.2)) {}
      let num (v : Bool × Nat × Int) : Int := withSign v.1 v.2.1 * 2 ^ (v.2.2 + 320).toNat
      (∃ v ∈ vs, t.num = num v) ∧ (∀ v ∈ vs, if isMax then num v ≤ t.num else t.num ≤ num v) ∧
      t.settle (if isMax then opMax else opMin) 1 = .value (decide (t.num < 0) || (t.num == 0 &&
        (if isMax then !vs.any (fun v => v.2.1 == 0 && !v.1) else vs.any (fun v => v.2.1 == 0 && v.1)))) t.num.natAbs 1)) ∧
  (∀ f ∈ [fmtFp32, fmtFp16, fmtBf16, fmtE4m3, fmtE5m2], ∀ (r : Nat) (neg : Bool) (a den : Nat), 0 < a → 0 < den →
      let dist (m : Nat) (e : Int) : Nat := (((m * 2 ^ (e + 320).toNat * den : Nat) : Int) - a).natAbs
      (∀ b, f.round false r neg a den = some b → b < 2 ^ f.size ∧ ∃ m e, f.decode b = .fin neg m e ∧
        ∀ b' m' e', b' < 2 ^ f.size → f.decode b' = .fin neg m' e' →
          dist m e ≤ dist m' e' ∧ (dist m e = dist m' e' → b' ≠ b → b % 2 = 0)) ∧
      (f.round false r neg a den = none ↔
        (if f.topK % 2 = 1 then (2 * f.topK + 1) * 2 ^ (f.topQe + 320).toNat * den ≤ 2 * a
         else (2 * f.topK + 1) * 2 ^ (f.topQe + 320).toNat * den < 2 * a))) ∧
  ((∀ (sr : Bool) (op r : Nat) (c : Arith) (den : Nat),
      let enc (code : Nat) (inf : Bool) (st : Settled) : Nat := (encodeElem { code := code, ovfInf := inf, sr := sr, op := op } st r c).1
      (∀ q ∈ [(6, 0x7FC00000, 0x7F800000, 0x7F7FFFFF, 0x80000000), (4, 0x7E00, 0x7C00, 0x7BFF, 0x8000), (5, 0x7FC0, 0x7F80, 0x7F7F, 0x8000),
          (8, 0x7E, 0x7C, 0x7B, 0x80), (10, 0x7E, 0x7C, 0x7B, 0x80)], ∀ i : Bool,
        enc q.1 i .nan = q.2.1 ∧ enc q.1 i .conflict = q.2.1 ∧
        ∀ n, enc q.1 i (.inf n) = q.2.2.1 + (if n then q.2.2.2.2 else 0) ∧
          enc q.1 i (.ovf n) = (if i then q.2.2.1 else q.2.2.2.1) + (if n then q.2.2.2.2 else 0) ∧
          enc q.1 i (.value n 0 den) = (if n then q.2.2.2.2 else 0)) ∧
      (∀ code ∈ [7, 9], ∀ i : Bool, enc code i .nan = 0x7F ∧ enc code i .conflict = 0x7F ∧
        ∀ n, enc code i (.inf n) = (if i then 0x7F else if n then 0xFE else 0x7E) ∧
          enc code i (.ovf n) = (if i then 0x7F else if n then 0xFE else 0x7E) ∧ enc code i (.value n 0 den) = if n then 0x80 else 0) ∧
      (∀ q ∈ [(1, 8), (2, 16), (3, 32), (11, 8)], ∀ i n : Bool, enc q.1 i .conflict = 0 ∧
        enc q.1 i (.ovf n) = (if n then 2 ^ (q.2 - 1) else 2 ^ (q.2 - 1) - 1) ∧ enc q.1 i (.value n 0 den) = 0)) ∧
    (∀ (x : Run) (j i : Nat) (t : Entry), (x.entriesOf j)[i]? = some t → t.seen = true →
      t.nan = false → t.pinf = false → t.ninf = false → t.opos = false → t.oneg = false → x.r.op.toNat ∈ [1, 2, 3] →
      let code := x.r.etype.toNat
      let neg := decide (t.num < 0) || (t.num == 0 && !t.zeroPos)
      let rb (site : Nat) : Nat := (tephra x.r.k0 x.r.k1 x.v.group x.v.step (4096 * j + i) site).toNat % 2 ^ 32
      let at_ (bs : List Byte) : Nat := fieldOf bs (etSize code * i) (etSize code)
      let den := if x.r.op.toNat = 2 then max 1 (x.nsOf j) else 1
      (∀ f, 4 ≤ code → code ≤ 8 → etFmt code = some f →
        at_ (x.resultOf j).1 = (f.round x.r.sr (rb 0) neg t.num.natAbs den).getD (f.ovfBits x.r.ovfInf neg) ∧
        at_ (x.roundedOf j).1 = (f.round x.r.sr (rb (1 + x.p.tier.toNat)) neg t.num.natAbs 1).getD (f.ovfBits x.r.ovfInf neg)) ∧
      (∀ w, etIntBits code = some w →
        let most := if neg then 2 ^ (w - 1) else 2 ^ (w - 1) - 1
        at_ (x.resultOf j).1 = (roundInt w 0 x.r.sr (rb 0) neg t.num.natAbs den).getD most ∧
        at_ (x.roundedOf j).1 = (roundInt w 0 x.r.sr (rb (1 + x.p.tier.toNat)) neg t.num.natAbs 1).getD most)) ∧
    (∀ (t t' : Entry) (neg : Bool) (v code : Nat), t.settle opSum 1 = .value neg v 1 → v < 2 ^ 672 →
      (t'.promoted = true ∨ (t'.live = true ∧ -320 ≤ t'.wbase) ∨ (t'.live = false ∧ t'.win = 0)) →
      let r := t'.addWord opSum code (t.xp64 opSum).1 (some (t.num, t.stateByte))
      r.2 = false ∧ r.1.num = t'.num + t.num))

/-- Tephra (07 R214): the outputs of the table's two vectors, a and b after each round of the first, and the FP16 AVG of
its example under RNE and under SR. -/
def Obligations.TephraValues : Prop :=  (let ab (n : Nat) : BitVec 64 × BitVec 64 := (List.range n).foldl (fun x i => tephraRound 0 0 i x) (0, 0)
   ab 1 = (0x9E3779B97F4A7C15, 0x9E3779B97F4A7C15) ∧ ab 2 = (0x78DDE6E5FD29F054, 0xDF1CBF068AB267A0) ∧
   ab 3 = (0x32A1131905BBCC33, 0x5A0A3563084A07C3) ∧ ab 4 = (0x05892F620B2FC44A, 0x81295357AB8C927A)) ∧
  tephra 0 0 0 0 0 0 = 0x86B282B9B6BC56C4 ∧ tephra 1 2 0x0120 5 7 0 = 0x16C5033F23D2A4F5 ∧
  (∀ r, fmtFp16.round false r false (2 ^ 321) 3 = some 0x3955) ∧
  fmtFp16.round true ((tephra 1 2 0x0120 5 7 0).toNat % 2 ^ 32) false (2 ^ 321) 3 = some 0x3956

/-- Member timers, while the lead engine's die runs (08 R245 to R247, R250, 09 R273, 11 R340): an expired timer aborts an
invocation whose policy is ABORT, or that DET_STRICT covers, with MEMBER_TIMEOUT, and freezes the child's token
otherwise; the reply drops the child from the token's value, or lets it go on where a segment has counted since; and
before its time, or where a segment or COUNT of the child counts in the same cycle, the timer does nothing. -/
def Obligations.MemberTimersDropOrAbort : Prop := ∀ (t k i f : Nat) (x : Run) (s : State), k < 1024 → i < 1023 →
  s.runOf k = some x → i < x.p.kids → s.dieRuns (dieCaldera x.v.leadDie) = true →
  (x.awaits i = true → (x.v.child i).timerFrom = some f → (x.v.child i).frozen = none → x.v.state = .reduce →
    (x.r.timeoutNs ≤ (x.v.child i).timerRan + (max s.now t - f) → (s.tick t).countComes k i = false →
      (x.aborts = true → Runs (.memberTimerExpiry t k i) s (fun s' =>
        ∃ v, s'.inv k = some v ∧ v.state = .abort ∧ v.status = 0x20)) ∧
      (x.aborts = false → Runs (.memberTimerExpiry t k i) s (fun s' =>
        s'.inv k = some (x.v.modChild i (fun c => { c with frozen := some c.token })) ∧ s'.sent = s.sent))) ∧
    ((x.v.child i).timerRan + (max s.now t - f) < x.r.timeoutNs ∨ (s.tick t).countComes k i = true → Runs (.memberTimerExpiry t k i) s (fun s' =>
      s' = { s with now := max s.now t }))) ∧
  (∀ known, (x.v.child i).frozen = some known →
    (known < (x.v.child i).token → Runs (.freezeReply t k i) s (fun s' => ∃ v, s'.inv k = some v ∧
      (v.child i).frozen = none ∧ (v.child i).dropped = (x.v.child i).dropped ∧ v.drops = x.v.drops)) ∧
    ((x.v.child i).token ≤ known → Runs (.freezeReply t k i) s (fun s' => ∃ v, s'.inv k = some v ∧
      (v.child i).dropped = some (x.v.child i).token ∧ v.drops = satInc x.v.drops)))

/-- AUDIT_WRITE, while the lead engine's die runs (08 R254, R255, R257, 12 R358, R362): the record of an invocation that
has ended is written once nothing of it is inside the switch, where its ring is an enabled audit ring with room, with
the fields of R255 at their offsets, and the invocation's record is free; where the ring is not enabled, or of another
kind (the model's inference, log entry 74), the record is lost and counted, but its extension entry is written; and
where it has no room the invocation waits. -/
def Obligations.AuditRecordWritten : Prop := ∀ (t k : Nat) (x : Run) (s : State), k < 1024 → s.runOf k = some x →
  x.auditDue = true → s.stillInside x.v = false → s.dieRuns (dieCaldera x.v.leadDie) = true →
  let r := x.r.ring.toNat
  ((s.ring r).enable = true → (s.ring r).kind = 1 → (s.ring r).audits = [] → (s.ring r).room 4 false = true →
    (s.ring r).padFor 4 = 0 → Runs (.auditWrite t k) s (fun s' => s'.inv k = none ∧
      (s'.ring r).tail = (s.ring r).tail + 4 ∧ s'.host.lostRecords = s.host.lostRecords ∧
      ∃ w : RingWrite, (w ∈ s'.host.unconfirmed ∨ w ∈ s'.host.delayed) ∧ w.ring = r ∧ w.index = (s.ring r).tail.toNat ∧
        (let b := w.bytes
         let field (off n v : Nat) : Prop := fieldOf b off n = v % 256 ^ n
         b.length = 256 ∧ field 0 1 0xA0 ∧ field 1 1 4 ∧ field 2 2 x.v.group ∧ field 4 6 x.v.step ∧
         field 10 2 x.p.planVer.toNat ∧
         byteAt b 12 = (if x.v.state = .abort then x.v.status else if x.nDropped = 0 then 0x00 else 0x01) ∧
         (byteAt b 13).getLsbD 0 = decide (x.p.parentEp = 0xFFFF) ∧
         (byteAt b 13).getLsbD 1 = decide (512 < x.r.members) ∧ (byteAt b 13).getLsbD 4 = x.v.strict ∧
         (byteAt b 13).getLsbD 2 = decide (7 < x.localDrops.length ∧ x.r.auditExt ≠ 0 ∧ x.r.extEntries ≠ 0) ∧
         field 14 1 (x.p.tier.toNat % 16 + 16 * (if x.v.state = .abort then 6 else 5)) ∧ byteAt b 15 = x.r.modes ∧
         field 16 1 x.r.op.toNat ∧ field 17 1 x.r.etype.toNat ∧ field 18 1 x.r.rtype.toNat ∧
         field 20 4 (x.v.count.getD 0) ∧ field 24 4 x.r.seedId.toNat ∧ field 28 4 x.nFull ∧ field 32 4 x.nDropped ∧
         field 36 4 (crc32c ((List.range x.v.nseg).flatMap (fun j => (x.v.seg j).sentBytes))).toNat ∧
         field 40 8 x.v.ftcActive.toNat ∧ field 48 8 ((s.tick t).ftcOf x.v) ∧ field 56 4 x.v.nseg ∧
         field 64 4 x.v.adaptive.toNat ∧ field 68 4 x.v.drops.toNat ∧ field 72 4 x.v.late.toNat ∧
         field 76 4 x.v.arith.convOvf.toNat ∧ field 100 4 x.v.arith.promotions.toNat ∧ field 104 8 x.digest.toNat ∧
         field 112 8 (x.extAddr.getD 0) ∧ field 120 2 x.v.dup.toNat ∧ field 122 2 x.v.creditViol.toNat ∧
         field 124 2 x.v.malformed.toNat ∧ field 126 2 x.v.mismatches.toNat ∧ field 128 64 x.full.toNat ∧
         field 192 2 x.localDrops.length ∧
         (∀ i e, i < 7 → x.localDrops[i]? = some e → field (200 + 8 * i) 8 (e.1 + 2 ^ 16 * (e.2 % 2 ^ 20)))))) ∧
  ((s.ring r).enable = false ∨ (s.ring r).kind ≠ 1 → Runs (.auditWrite t k) s (fun s' => s'.inv k = none ∧
    s'.host.lostRecords = satInc s.host.lostRecords ∧ (x.extAddr = none → s'.sent = s.sent) ∧
    (∀ a, x.extAddr = some a → s.hostUp = true →
      s'.sent = .hostWrite a (x.localDrops.flatMap dropEntry) :: s.sent))) ∧
  ((s.ring r).enable = true → (s.ring r).kind = 1 → (s.ring r).audits = [] → (s.ring r).room 4 false = false →
    Runs (.auditWrite t k) s (fun s' => s'.inv k = some { x.v with auditWaits := true } ∧
      (s'.ring r).audits = [k] ∧ (s'.ring r).tail = (s.ring r).tail ∧ s'.sent = s.sent))

/-- GROUP_INSTALL and PLAN_LOAD (08 R228 to R235): a record that passes the checks is installed beside the plan the group
has, and its expected STEP stays only where the record before had the same seed identifier and seed; one that names
another group than the descriptor, or whose slice has no descriptor, is refused with GROUP_BAD; a plan that passes the
checks is loaded and ends a suspension; and one for a group with no record is refused. A refusal leaves the groups as
they were. The statement speaks of cycles in which no audit record is to be written: a completion in the same cycle
comes first (R250). RESYNC (08 R258): the expected STEP of an installed group becomes the value that the descriptor
carries, and every open invocation of the group, where no audit record is written in the same cycle, is in ABORT with
status STEP_SKEW; for a group that is not installed the descriptor is refused with GROUP_BAD and nothing else changes. -/
def Obligations.GroupsInstalledAndResynced : Prop :=
  (∀ (t : Nat) (host : List Byte) (j : Job) (js : List Job) (s : State),
    (∀ k, Instr.auditWrite (max s.now t) k ∉ s.pending) → j.readFails host = false →
    (s.NextJob 1 0 j js →
      let b := s.jobData j.src (fieldOf j.desc 8 8) 64 host
      let g := fieldOf j.desc 16 2
      (s.installRefused b g = none → Runs (.groupInstall t host) s (fun s' => s'.jobs = js ∧ j.Reports 0x00 s' ∧
        (s'.group g).record = some (parseGroup b) ∧ (s'.group g).plan = (s.group g).plan ∧
        ((∃ o, (s.group g).record = some o ∧ o.seedId = (parseGroup b).seedId ∧ o.k0 = (parseGroup b).k0 ∧ o.k1 = (parseGroup b).k1) →
          (s'.group g).expected = (s.group g).expected) ∧
        ((s.group g).record = none → (s'.group g).expected = 0) ∧ ∀ h, h ≠ g → s'.group h = s.group h)) ∧
      (fieldOf b 0 2 ≠ g → Runs (.groupInstall t host) s (fun s' => s'.jobs = js ∧ j.Reports 0x15 s' ∧ s'.groups = s.groups)) ∧
      ((s.slice (byteAt b 2).toNat).valid = false →
        Runs (.groupInstall t host) s (fun s' => s'.jobs = js ∧ j.Reports 0x15 s' ∧ s'.groups = s.groups))) ∧
    (s.NextJob 2 0 j js →
      let b := s.jobData j.src (fieldOf j.desc 8 8) (min (fieldOf j.desc 16 4) 1048752) host
      let g := fieldOf j.desc 20 2
      (s.planRefused b (fieldOf j.desc 16 4) g = none → Runs (.planLoad t host) s (fun s' => s'.jobs = js ∧
        j.Reports 0x00 s' ∧ s'.group g = { s.group g with plan := some (parsePlan b), suspended := none } ∧
        ∀ h, h ≠ g → s'.group h = s.group h)) ∧
      ((s.group g).record = none → Runs (.planLoad t host) s (fun s' => s'.jobs = js ∧ j.Reports 0x15 s' ∧
        s'.groups = s.groups)))) ∧
  (∀ (t : Nat) (j : Job) (js : List Job) (s : State), s.NextJob 10 0 j js →
    (∀ k, Instr.auditWrite (max s.now t) k ∉ s.pending) →
    let g := fieldOf j.desc 8 2
    ((s.group g).record ≠ none → (s.group g).plan ≠ none → Runs (.resync t) s (fun s' =>
      (s'.group g).expected = fieldOf j.desc 16 6 ∧ (s'.group g).record = (s.group g).record ∧
      (s'.group g).plan = (s.group g).plan ∧ s'.jobs = js ∧ j.Reports 0x00 s' ∧
      ∀ k v, s.inv k = some v → v.group = g → v.state ≠ .abort → v.state ≠ .done →
        ∃ v', s'.inv k = some v' ∧ v'.state = .abort ∧ v'.status = 0x13)) ∧
    ((s.group g).record = none → Runs (.resync t) s (fun s' => s'.groups = s.groups ∧ s'.invs = s.invs ∧
      s'.jobs = js ∧ j.Reports 0x15 s')))

/-- ENGINE_LOSS and CALDERA_DIE_LOSS (09 R280, R281, R299, 10 R308, 14 R434): an engine goes out of service once; with no
invocation open, its logical number goes to the spare with every counter at 0, marked auto, or else its entry becomes
invalid; every open invocation that adds on it aborts with CALDERA_LOST, and without a spare every group whose plan
names the number is suspended with that status; and a lost die has all its engines out of service, their open
invocations aborted so, and nothing in landing, in its parity store, in its share of the telemetry history or in the
counts of the groups that it leads (the model's inference, log entry 160). ENGINE_MAP_WRITE (00 R9, 09 R261, R282,
R292, 10 R308): the owner's write is dropped, with dropped set and the event WRITE_WHILE_ENABLED, while an open
invocation's plan names the entry; it is dropped with dropped set and no event where it would point a second valid
entry at the engine, or an entry at a lost engine or at one with a counter that is not 0 (only a valid entry names an
engine: log entry 87; and a write that changes neither engine nor valid is never dropped for it: log entry 91, both
the model's inferences); otherwise the entry takes it, and the tiles' copy of it with it; its auto bit, written 1,
clears unless hardware set it in the same cycle. A write by another master is refused. -/
def Obligations.EnginesLostAndMapped : Prop :=
  (∀ (t e c : Nat) (s : State), e < 64 → c < 8 →
    ((s.engine e).inService = false → Runs (.engineLoss t e) s (fun s' => s' = { s with now := max s.now t })) ∧
    (∀ k, (s.engine e).inService = true → s.invs = [] → s.logicalOf e = some k →
      Runs (.engineLoss t e) s (fun s' => s'.engine e = { s.engine e with inService := false } ∧
        (∀ q, q ≠ e → s'.engine q = s.engine q) ∧
        (s'.caldera (e / 8)).landing = (s.caldera (e / 8)).landing.filter (fun l => l.user != e % 8) ∧
        (∀ q, s.spareFor e = some q → s'.emap k = { physX := BitVec.ofNat 6 (q ^^^ k), valid := true, auto := true }) ∧
        (s.spareFor e = none → s'.emap k = { s.emap k with valid := false }) ∧
        (∀ i, i ≠ k → s'.emap i = s.emap i) ∧ ∀ i, (s'.ctr i).value = (s.ctr i).value)) ∧
    (∀ (k : Nat) (x : Run), (s.engine e).inService = true → s.runOf k = some x → e ∈ x.v.engines → x.v.state ≠ .abort →
      x.v.state ≠ .done → Runs (.engineLoss t e) s (fun s' => ∃ v, s'.inv k = some v ∧ v.state = .abort ∧ v.status = 0x22)) ∧
    (∀ k, (s.engine e).inService = true → s.logicalOf e = some k → s.spareFor e = none →
      Runs (.engineLoss t e) s (fun s' => (s'.emap k).valid = false ∧ ∀ g r p, s.groupRec g = some r → s.groupPlan g = some p →
        p.engineFirst ≤ k → k < p.engineFirst + p.engineCount → (s'.group g).suspended = some 0x22)) ∧
    (∀ (k : Nat) (x : Run) (i : Nat), (s.caldera c).lost = false → i < 8 → (s.engine (8 * c + i)).inService = true →
      s.runOf k = some x → 8 * c + i ∈ x.v.engines → x.v.state ≠ .abort → x.v.state ≠ .done →
      Runs (.calderaDieLoss t c) s (fun s' => ∃ v, s'.inv k = some v ∧ v.state = .abort ∧ v.status = 0x22)) ∧
    ((s.caldera c).lost = true → Runs (.calderaDieLoss t c) s (fun s' => s' = { s with now := max s.now t })) ∧
    ((s.caldera c).lost = false → s.invs = [] → Runs (.calderaDieLoss t c) s (fun s' =>
      (s'.caldera c).lost = true ∧ (s'.caldera c).landing = [] ∧ (s'.caldera c).parity = [] ∧ (s'.caldera c).accums = [] ∧
      (∀ i, historyDie (i / 2 ^ 32) = c → tget {} s'.pkg.history i = {}) ∧
      (∀ i, historyDie (i / 2 ^ 32) ≠ c → tget {} s'.pkg.history i = tget {} s.pkg.history i) ∧
      (∀ i, i < 8 → (s'.engine (8 * c + i)).inService = false) ∧
      (∀ g, s.leadOf g / 8 = c → (s'.group g).malformed = 0 ∧ (s'.group g).rejected = 0 ∧ (s'.group g).mismatches = 0 ∧
        (s'.group g).invocLimit = 0) ∧
      (∀ q, q / 8 ≠ c → s'.engine q = s.engine q) ∧ ∀ d, d ≠ c → (s'.caldera d).lost = (s.caldera d).lost))) ∧
  (∀ (t m k w : Nat) (s : State), isMaster m = true → k < 64 → w < 2 ^ 32 →
    let p := w % 64
    let new : EngMap := { physX := BitVec.ofNat 6 (p ^^^ k), valid := bitOf w 6, auto := (s.emap k).auto && !(bitOf w 7 && !(s.tick t).justSet mgCycle (wbAuto k)) }
    let dropped : State := { s.tick t with pkg := { s.pkg with mapDropped := true }, setAt := tset 0 s.setAt wbMap (max s.now t + 1) }
    let changes := ¬ (new.physX = (s.emap k).physX ∧ new.valid = (s.emap k).valid)
    let inUse := ∃ e ∈ s.invs, ∃ v, e.2 = some v ∧ ∃ q, s.groupPlan v.group = some q ∧
      q.engineFirst ≤ k ∧ k < q.engineFirst + q.engineCount
    let bad := new.valid = true ∧ ((∃ i, i < 64 ∧ i ≠ k ∧ s.physEngine i = some p) ∨ (s.engine p).inService = false ∨
      ∃ i, i < 48 ∧ (s.ctr (48 * p + i)).value ≠ 0)
    (s.isOwner m = true →
      (inUse → Served (.engineMapWrite t m k w) s (fun s' => s' = dropped.event 0x70 0 m (0x2000 + 4 * k) w)) ∧
      (changes → ¬ inUse → bad → Served (.engineMapWrite t m k w) s (fun s' => s' = dropped)) ∧
      (¬ inUse → ¬ (changes ∧ bad) → Served (.engineMapWrite t m k w) s (fun s' => s'.emap k = new ∧
        tget {} s'.copyMap k = new ∧
        (∀ i, i ≠ k → s'.emap i = s.emap i ∧ tget ({} : EngMap) s'.copyMap i = tget {} s.copyMap i) ∧
        s' = { s with now := max s.now t, engMap := s'.engMap, copyMap := s'.copyMap }))) ∧
    ((s.tick t).mayWrite m = false → Served (.engineMapWrite t m k w) s (fun s' => s' = { s.refuseWrite m with now := max s.now t })))

/-- SIGNAL_APPLY on a die that runs (10 R301 to R303, R308), with no other command of its cycle waiting: a signal on its
way adds 1 to its counter; at 65,535 the value stays and the overflow bit is set; with a wait listed and the value at
0 the first waiter takes it and its step is done; a lost engine takes none, uncounted (the model's inference, log
entry 86); and where no signal for the counter is on its way nothing changes. Where the owner's clear of the counter
comes in the same cycle, it is taken before the signal, and the value is 1. COUNTER_CLEAR (10 R301, R302, R322, 16
R475, R477): the owner's write sets value and overflow bit of each counter named to 0, but for one that a clear of the
same cycle has cleared before, whose value, that of the signals behind it, stays; it leaves every waiter list and
every other counter's value and bit; another master's is refused; and on a die that cannot be reached, of whatever
master (the model's inference, log entry 12), it is recorded as refused. -/
def Obligations.CountersSignalledAndCleared : Prop :=
  (∀ (t c : Nat) (s : State), c < 3072 → s.dieRuns (dieCaldera (c / 48 / 8)) = true →
    (s.signals.contains c = false → Runs (.signalApply t c) s (fun s' => s' = { s with now := max s.now t })) ∧
    (s.signals.contains c = true →
      ((s.engine (c / 48)).inService = false → (s.tick t).Alone → Runs (.signalApply t c) s (fun s' =>
        s' = { s with now := max s.now t, signals := s.signals.erase c })) ∧
      ((s.tick t).ctrClearComes c = true → (s.engine (c / 48)).inService = true → (s.ctr c).waiters = [] →
        (s.ctr c).clearedAt ≠ max s.now t + 1 → Runs (.signalApply t c) s (fun s' => s'.signals = s.signals.erase c ∧
          (s'.ctr c).value = 1 ∧ (s'.ctr c).ovf = false ∧ ∀ i, i ≠ c → s'.ctr i = s.ctr i)) ∧
      ((s.engine (c / 48)).inService = true → (s.tick t).Alone →
        ((s.ctr c).value = 0xFFFF → Runs (.signalApply t c) s (fun s' => s'.signals = s.signals.erase c ∧
          s'.ctr c = { s.ctr c with ovf := true } ∧
          (s'.caldera (c / 48 / 8)).sigOverflows = satInc (s.caldera (c / 48 / 8)).sigOverflows ∧
          (s'.caldera (c / 48 / 8)).sigApplied = (s.caldera (c / 48 / 8)).sigApplied ∧
          ((s.ctr c).ovf = true → s'.rings = s.rings ∧ s'.sent = s.sent) ∧ ∀ i, i ≠ c → s'.ctr i = s.ctr i)) ∧
        ((s.ctr c).value ≠ 0xFFFF → (s.ctr c).waiters = [] → Runs (.signalApply t c) s (fun s' =>
          s'.signals = s.signals.erase c ∧ s'.ctr c = { s.ctr c with value := (s.ctr c).value + 1 } ∧
          (s'.caldera (c / 48 / 8)).sigApplied = satInc (s.caldera (c / 48 / 8)).sigApplied ∧
          (∀ i, i ≠ c → s'.ctr i = s.ctr i) ∧ s'.invs = s.invs)) ∧
        (∀ w ws x, (s.ctr c).value = 0 → (s.ctr c).waiters = w :: ws → s.runOf w.inv = some x →
          Runs (.signalApply t c) s (fun s' => s'.signals = s.signals.erase c ∧
            s'.ctr c = { s.ctr c with value := 0, waiters := ws } ∧ (∀ i, i ≠ c → s'.ctr i = s.ctr i) ∧
            ∃ v, s'.inv w.inv = some v ∧ x.v.pc < v.pc))))) ∧
  (∀ (t m e mask : Nat) (s : State), isMaster m = true → e < 64 → mask < 2 ^ 48 →
    (s.reachable (28 + e / 8) = true → s.isOwner m = true → Served (.counterClear t m e mask) s (fun s' =>
      (∀ i, i < 48 → bitOf mask i = true →
        ((s.ctr (48 * e + i)).clearedAt ≠ max s.now t + 1 → (s'.ctr (48 * e + i)).value = 0 ∧ (s'.ctr (48 * e + i)).ovf = false) ∧
        ((s.ctr (48 * e + i)).clearedAt = max s.now t + 1 → (s'.ctr (48 * e + i)).value = (s.ctr (48 * e + i)).value)) ∧
      (∀ c, ¬ (c / 48 = e ∧ bitOf mask (c % 48) = true) → (s'.ctr c).value = (s.ctr c).value ∧ (s'.ctr c).ovf = (s.ctr c).ovf) ∧
      (∀ c, (s'.ctr c).waiters = (s.ctr c).waiters) ∧ s' = { s with now := max s.now t, counters := s'.counters })) ∧
    (s.reachable (28 + e / 8) = true → (s.tick t).mayWrite m = false →
      Served (.counterClear t m e mask) s (fun s' => s' = { s.refuseWrite m with now := max s.now t })) ∧
    (s.reachable (28 + e / 8) = false → Served (.counterClear t m e mask) s (fun s' =>
      s' = accessRefused m (some (28 + e / 8)) (s.tick t))))

/-- The steps SIGNAL and WAIT, while the lead engine's die runs (10 R302, R309, R310, R313, R323): a local signal goes on
its way and the step is done; a wait takes 1 from a counter that is not 0, joins its waiters at 0 (with no other
command of its cycle waiting), takes nothing where its invocation aborts in the same cycle, and aborts its invocation
with WAIT_TIMEOUT where its identifier resolves to no counter; a wait on the list aborts so when its time runs out and
not before, both counted in wait_timeouts of the lead engine's die (the model's inference, log entry 85); and a SIGNAL
message puts a signal on its way, or is counted as discarded where its group is not installed. -/
def Obligations.SignalAndWaitSteps : Prop := ∀ (t k die id : Nat) (s : State), k < 1024 → die < 8 →
  (∀ (x : Run) (w : StepWord), s.runOf k = some x → s.dieRuns (dieCaldera x.v.leadDie) = true → x.p.steps[x.v.pc]? = some w → s.halted = false →
    let ctr := s.ctrOf x.r.slice.toNat w.counter.toNat
    (∀ c, x.atStep skSignal = true → w.targetEp = s.pkg.selfEp → ctr = some c → Runs (.signalStep t k) s (fun s' =>
      s'.signals = s.signals ++ [c] ∧ s'.counters = s.counters ∧ ∃ v, s'.inv k = some v ∧ x.v.pc < v.pc)) ∧
    (∀ c, x.atStep skWait = true → x.v.waitFrom = none → ctr = some c → (s.engine (c / 48)).inService = true →
      (s.ctr c).value ≠ 0 → (s.tick t).lowerWaits k = [] → (s.tick t).ctrClearComes c = false → (s.tick t).abortsNow k = true →
      Instr.signalApply (max s.now t) c ∉ s.pending →
      Runs (.waitStep t k) s (fun s' => s' = { s with now := max s.now t })) ∧
    (x.atStep skWait = true → x.v.waitFrom = none → (s.tick t).Alone →
      (∀ c, ctr = some c → (s.engine (c / 48)).inService = true → (s.ctr c).value ≠ 0 → Runs (.waitStep t k) s (fun s' =>
        s'.ctr c = { s.ctr c with value := (s.ctr c).value - 1 } ∧ (∀ i, i ≠ c → s'.ctr i = s.ctr i) ∧
        ∃ v, s'.inv k = some v ∧ x.v.pc < v.pc)) ∧
      (∀ c, ctr = some c → (s.engine (c / 48)).inService = true → (s.ctr c).value = 0 → Runs (.waitStep t k) s (fun s' =>
        s'.ctr c = { s.ctr c with waiters := insertWaiter { inv := k, group := x.v.group, step := x.v.step, joinedAt := max s.now t } (s.ctr c).waiters } ∧
        s'.inv k = some { x.v with waitFrom := some (max s.now t) } ∧ s'.sent = s.sent)) ∧
      (ctr = none → Runs (.waitStep t k) s (fun s' => (∃ v, s'.inv k = some v ∧ v.state = .abort ∧ v.status = 0x25) ∧
        (s'.caldera (k / 128)).waitTimeouts = satInc (s.caldera (k / 128)).waitTimeouts)))) ∧
  (∀ (x : Run) (f : Nat), s.runOf k = some x → s.dieRuns (dieCaldera x.v.leadDie) = true → x.v.waitFrom = some f → x.v.state ≠ .abort → x.v.state ≠ .done →
    (f + x.r.timeoutNs ≤ max s.now t → Runs (.waitTimerExpiry t k) s (fun s' =>
      (∃ v, s'.inv k = some v ∧ v.state = .abort ∧ v.status = 0x25 ∧ v.waitFrom = none) ∧
      (∀ c w, w ∈ (s'.ctr c).waiters → w.inv ≠ k) ∧
      (s'.caldera (k / 128)).waitTimeouts = satInc (s.caldera (k / 128)).waitTimeouts)) ∧
    (max s.now t < f + x.r.timeoutNs → Runs (.waitTimerExpiry t k) s (fun s' => s' = { s with now := max s.now t }))) ∧
  (∀ m : LandMsg, s.checkedMsg die id msgSignal = some m →
    (s.groupRec m.coll.group = none → Runs (.signal t die id) s (fun s' => s'.signals = s.signals ∧
      s'.landed die id = none ∧ (s'.caldera die).sigDiscarded = satInc (s.caldera die).sigDiscarded)) ∧
    (∀ r c, s.groupRec m.coll.group = some r → m.hdr.slice = r.slice → s.ctrOf r.slice.toNat (bitsOf m.coll.aux 0 16) = some c →
      (s.pkg.direct = true → (s.ctr c).bound = true ∧ (s.ctr c).slice = r.slice) →
      Runs (.signal t die id) s (fun s' => s'.signals = s.signals ++ [c] ∧ s'.landed die id = none ∧
        s'.counters = s.counters)))

/-- CTR_XLAT_WRITE (10 R306): the owner's write is dropped, with dropped set, in DIRECT mode, while the slice has an open
invocation, where a counter named before or by the write is not 0, and where another valid entry names the counter
that it names, if it is itself valid (the model's inference, log entry 87); otherwise the entry takes it. So no two
valid entries come to name one counter. -/
def Obligations.TranslationWritten : Prop := ∀ (t m sl v w : Nat) (s : State), isMaster m = true → sl < 256 → v < 48 →
  w < 2 ^ 16 →
  let k := 48 * sl + v
  let new : Xlat := { index := BitVec.ofNat 6 w, engine := BitVec.ofNat 6 (w / 64), valid := bitOf w 15 }
  let one (s : State) : Prop := ∀ i j, i ≠ j → (s.xl i).valid = true → (s.xl j).valid = true →
    (s.xl i).engine = (s.xl j).engine → (s.xl i).index ≠ (s.xl j).index
  let refused := s.pkg.direct = true ∨ s.sliceOpen sl = true ∨ s.xlValue (s.xl k) ≠ 0 ∨ s.xlValue new ≠ 0 ∨
    (new.valid = true ∧ ∃ i, i ≠ k ∧ (s.xl i).valid = true ∧ (s.xl i).engine = new.engine ∧ (s.xl i).index = new.index)
  ((s.tick t).mayWrite m = false → Served (.ctrXlatWrite t m sl v w) s (fun s' => s' = { s.refuseWrite m with now := max s.now t })) ∧
  (s.isOwner m = true → tabWf {} s.xlat = true →
  (refused → Served (.ctrXlatWrite t m sl v w) s (fun s' =>
    s' = { s.tick t with pkg := { s.pkg with xlatDropped := true }, setAt := tset 0 s.setAt wbXlat (max s.now t + 1) })) ∧
  (¬ refused → Served (.ctrXlatWrite t m sl v w) s (fun s' => s'.xl k = new ∧ (∀ i, i ≠ k → s'.xl i = s.xl i) ∧
    s' = { s with now := max s.now t, xlat := s'.xlat })) ∧
  (one s → Served (.ctrXlatWrite t m sl v w) s one))

/-- PARITY_GROUP and EPOCH_OPEN_DONE (14 R425 to R428): DEFINE makes the group with its members and blocks; OPEN_EPOCH
gives the epoch the next sequence number, the dies in service and a region, and waits; EPOCH_OPEN_DONE makes it
FOLDING and completes the descriptor; the region is cleared under the memory key of the group's slice (15 R465);
CLOSE_EPOCH makes it COMPLETE where no block is missing and INCOMPLETE else; RELEASE removes the group; and each is
refused with PARITY_BAD where a rule says so, leaving the groups as they were. -/
def Obligations.EpochsOpenAndClose : Prop := ∀ (t : Nat) (host : List Byte) (j : Job) (js : List Job) (s : State),
  let g := fieldOf j.desc 8 1
  let b := bitOf (fieldOf j.desc 11 1) 0
  let x := s.pgroup g
  (s.NextJob 8 1 j js → j.readFails host = false →
    let n := fieldOf j.desc 10 1
    let blocks := fieldOf j.desc 12 4
    let data := s.jobData j.src (fieldOf j.desc 16 8) (8 * n) host
    let refused := 15 < g ∨ x.defined = true ∨ s.tableBad data n = true ∨ blocks = 0 ∨ s.imageTooBig blocks = true ∨
      s.recov.parityEp = 0xFFFF
    (¬ refused → Runs (.define t host) s (fun s' => s'.jobs = js ∧ j.Reports 0x00 s' ∧
      s'.pgroup g = { defined := true, slice := byteAt data 2, blocks := blocks
                      members := (List.range n).map (fun i => BitVec.ofNat 16 (fieldOf data (8 * i) 2)) } ∧
      ∀ h, h ≠ g → s'.pgroup h = s.pgroup h)) ∧
    (refused → Runs (.define t host) s (fun s' => s'.jobs = js ∧ j.Reports 0x51 s' ∧ s'.recov = s.recov))) ∧
  (s.NextJob 8 2 j js →
    (s.openRefused g b = none → Runs (.openEpoch t) s (fun s' => s'.jobs = { j with started := true } :: js ∧
      ∃ a, firstFit (perDie x.blocks s.liveNow) (s.shareBlocks b) (s.regions g b s.liveNow) = some a ∧
        (s'.pgroup g).epoch b = { seq := x.seqCtr + 1, live := s.liveNow, opening := true, order := s.recov.opens + 1
                                  region := some (a, perDie x.blocks s.liveNow) } ∧
        (s'.pgroup g).epoch (!b) = x.epoch (!b) ∧ (s'.pgroup g).seqCtr = x.seqCtr + 1)) ∧
    (s.openRefused g b ≠ none → Runs (.openEpoch t) s (fun s' => s'.jobs = js ∧ j.Reports 0x51 s' ∧ s'.recov = s.recov))) ∧
  (s.clkStopped dieTD = false → s.vent.inSafe = false → s.jobs = j :: js → j.started = true → descKind j.desc = 8 → (∀ k ∈ js, k.started = false) →
    Runs (.epochOpenDone t) s (fun s' => s'.jobs = js ∧ j.Reports 0x00 s' ∧
      (s'.pgroup g).epoch b = { x.epoch b with opening := false, clearedKey := s.sliceKey x.slice.toNat, state := if (x.epoch b).state = .incomplete then .incomplete else .folding } ∧
      (s'.pgroup g).epoch (!b) = x.epoch (!b))) ∧
  (s.NextJob 8 3 j js → g ≤ 15 → x.defined = true →
    ((x.epoch b).state = .folding → Runs (.closeEpoch t) s (fun s' => s'.jobs = js ∧ j.Reports 0x00 s' ∧
      (s'.pgroup g).epoch b = { x.epoch b with state := if x.missing b = 0 then .complete else .incomplete } ∧
      (s'.pgroup g).epoch (!b) = x.epoch (!b) ∧ s'.recov.foldMs = s.recov.foldMs)) ∧
    ((x.epoch b).state ≠ .folding → Runs (.closeEpoch t) s (fun s' => s'.jobs = js ∧ j.Reports 0x51 s' ∧ s'.recov = s.recov))) ∧
  (s.NextJob 8 4 j js → g ≤ 15 → x.defined = true →
    (s.rebuilds (fun r => r.pgroup == g) = [] → Runs (.release t) s (fun s' => s'.jobs = js ∧ j.Reports 0x00 s' ∧
      s'.pgroup g = {} ∧ ∀ h, h ≠ g → s'.pgroup h = s.pgroup h)) ∧
    (s.rebuilds (fun r => r.pgroup == g) ≠ [] → Runs (.release t) s (fun s' => s'.jobs = js ∧ j.Reports 0x51 s' ∧
      s'.recov = s.recov)))

/-- FOLD_RECEIVED (14 R423, R427, R428, 09 R288, 15 R465): of the block as the memory key of the group's slice reads it,
the first block of a home address in an epoch is written as it is, a later member's is added by XOR, with their CRCs;
a member's second is counted in fold_dup and changes no block; the one that fills the last block makes the epoch
COMPLETE; one for an epoch that is not FOLDING or of another sequence is counted in fold_stale; and a block that
cannot be read takes no fold and is marked bad (the model's choice, log entry 262). -/
def Obligations.FoldsAccumulate : Prop := ∀ (t die id : Nat) (m : LandMsg) (s : State), die < 8 →
  s.checkedFold die id = some m → m.foldOk = true → tagType m.tag = 1 → s.foldMember m = true →
  let g := tagGroup m.tag
  let b := tagEpochB m.tag
  let mem := tagMember m.tag
  let blk := tagBlock m.tag
  let x := s.pgroup g
  let e := x.epoch b
  let key := parityKey b (e.localIndex blk)
  let old := s.readBlock die g b (e.localIndex blk)
  let block (s' : State) : PBlock := tget {} (s'.caldera die).parity key
  let good := e.state = .folding ∧ e.seq.toNat = tagSeq m.tag ∧ blk < x.blocks ∧ x.failed.getLsbD mem = false
  let used := old.epochSeq = e.seq ∧ old.blockLo = BitVec.ofNat 16 blk
  (good → s.isHome die m = true → 2 ≤ x.members.length →
    (¬ used → Runs (.foldReceived t die id .none) s (fun s' => s'.landed die id = none ∧
      block s' = { data := m.payload, folded := setBit 0 mem true, crcAcc := m.l.payCrc, blockLo := BitVec.ofNat 16 blk
                   epochSeq := e.seq, key := s.sliceKey x.slice.toNat } ∧ (s'.caldera die).foldDup = (s.caldera die).foldDup ∧
      (s'.pgroup g).epoch (!b) = x.epoch (!b) ∧ ((s'.pgroup g).epoch b).state = .folding)) ∧
    (used → old.folded ≠ 0 → old.folded.getLsbD mem = false →
      let new : PBlock := { old with
        data := xorBytes (padTo 4096 old.data) m.payload, folded := setBit old.folded mem true
        crcAcc := old.crcAcc ^^^ m.l.payCrc }
      Runs (.foldReceived t die id .none) s (fun s' => s'.landed die id = none ∧ block s' = new ∧
        (new.count = x.members.length → e.full + 1 = x.blocks → ((s'.pgroup g).epoch b).state = .complete ∧
          ((s'.pgroup g).epoch b).full = e.full + 1) ∧
        (new.count ≠ x.members.length → ((s'.pgroup g).epoch b).state = .folding ∧
          ((s'.pgroup g).epoch b).full = e.full))) ∧
    (used → old.folded.getLsbD mem = true → Runs (.foldReceived t die id .none) s (fun s' => s'.landed die id = none ∧
      (s'.caldera die).parity = (s.caldera die).parity ∧ (s'.caldera die).foldDup = satInc (s.caldera die).foldDup))) ∧
  (good → s.isHome die m = true → Runs (.foldReceived t die id .uncorrectable) s (fun s' => s'.landed die id = none ∧
    block s' = { (tget {} (s.caldera die).parity key : PBlock) with bad := true } ∧ s'.recov = s.recov)) ∧
  (¬ good → Runs (.foldReceived t die id .none) s (fun s' => s'.landed die id = none ∧
    (s'.caldera die).parity = (s.caldera die).parity ∧ s'.recov = { s.recov with foldStale := satInc s.recov.foldStale }))

/-- MEMBER_FAILED and INTERVAL_BUCKET_EXPIRY (14 R428 to R430, R434): a member whose port has been out is declared failed
once: its bit sets, the failure counts in the window, every FOLDING epoch of the group becomes INCOMPLETE, but for one
that the folds of the same cycle complete before; declarations of the same cycle with a lower group or member come
first; a spare list entry so out, of any slice of a defined group (the model's inference, log entry 97), is marked
failed; where its port is not out nothing changes; and at the end of a bucket the window moves on by one.
LEDGER_HEARTBEAT, LEDGER and BUDDY_SILENT (14 R423, R437 to R439): every hb_ms a heartbeat entry takes the next number
and its place in the ledger; an entry from the switch that is mirrored is kept in its place, with the numbers missed
counted where the number rises (the model's inference, log entry 103), and one from another endpoint is counted in
fold_bad; and where no entry came for three periods the buddy is marked silent. -/
def Obligations.MembersFailAndLedgerKept : Prop :=
  (∀ (t g m : Nat) (s : State), s.vent.inSafe = false →
    (g < 16 → m < 64 →
      let x := s.pgroup g
      let out := (s.tick t).endpointOut x.slice.toNat (x.members.getD m 0xFFFF)
      (x.defined = true → m < x.members.length → x.failed.getLsbD m = false → out = true → s.recov.autoRebuild = false →
        s.rebuilds (fun _ => true) = [] → (s.tick t).lowerFails g m = [] → Runs (.memberFailed t g m) s (fun s' =>
          (s'.pgroup g).failed.getLsbD m = true ∧ ∀ b,
            let y := ((foldsFirst g (s.tick t)).pgroup g).epoch b
            ((s'.pgroup g).epoch b).state = (if y.state = .folding then .incomplete else y.state))) ∧
      (x.defined = true → m < x.members.length → x.failed.getLsbD m = false → out = true → s.recov.autoRebuild = false →
        s.rebuilds (fun _ => true) = [] → (s.tick t).Alone → Runs (.memberFailed t g m) s (fun s' =>
          (s'.pgroup g).failed = setBit x.failed m true ∧ (s'.pgroup g).members = x.members ∧
          s'.recov.buckets = (s.recov.buckets.headD 0 + 1) :: s.recov.buckets.drop 1 ∧
          (∀ b, ((s'.pgroup g).epoch b).state = (if (x.epoch b).state = .folding then .incomplete else (x.epoch b).state)) ∧
          ∀ h, h ≠ g → s'.pgroup h = s.pgroup h)) ∧
      (x.defined = false ∨ x.members.length ≤ m ∨ x.failed.getLsbD m = true ∨ out = false → (s.tick t).lowerFails g m = [] →
        Runs (.memberFailed t g m) s (fun s' => s' = { s with now := max s.now t }))) ∧
    (m < 8 →
      let seen := (List.range 16).any (fun h => (s.pgroup h).defined && (s.tick t).endpointOut (s.pgroup h).slice.toNat (s.spare m).ep)
      ((s.spare m).valid = true → (s.spare m).failed = false → seen = true → s.rebuilds (fun _ => true) = [] →
        Runs (.memberFailed t 255 m) s (fun s' => s'.spare m = { s.spare m with failed := true } ∧
          (∀ i, i ≠ m → s'.spare i = s.spare i) ∧ s'.recov.groups = s.recov.groups)) ∧
      ((s.spare m).valid = false ∨ (s.spare m).failed = true ∨ seen = false →
        Runs (.memberFailed t 255 m) s (fun s' => s' = { s with now := max s.now t }))) ∧
    (s.recov.bucketAt + s.recov.lambdaH.toNat * 3600000000000 / 64 ≤ max s.now t →
      Runs (.intervalBucketExpiry t) s (fun s' => s'.recov.buckets = (0 :: s.recov.buckets).take 64 ∧
        s'.recov.bucketAt = s.recov.bucketAt + s.recov.lambdaH.toNat * 3600000000000 / 64)) ∧
    (max s.now t < s.recov.bucketAt + s.recov.lambdaH.toNat * 3600000000000 / 64 →
      Runs (.intervalBucketExpiry t) s (fun s' => s' = { s with now := max s.now t }))) ∧
  (∀ (t die id : Nat) (m : LandMsg) (s : State), die < 8 →
    (s.vent.inSafe = false → s.recov.heartbeatAt + 1000000 * s.recov.hbMs.toNat ≤ max s.now t →
      Runs (.ledgerHeartbeat t) s (fun s' => s'.recov.ledgerSeq = s.recov.ledgerSeq + 1 ∧ s'.recov.heartbeatAt = max s.now t ∧
        fieldOf (tget [] s'.recov.ledger (s.recov.ledgerSeq.toNat % 1024)) 0 1 = 1 ∧
        fieldOf (tget [] s'.recov.ledger (s.recov.ledgerSeq.toNat % 1024)) 4 4 = s.recov.ledgerSeq.toNat ∧
        s'.recov.groups = s.recov.groups)) ∧
    (s.vent.inSafe = true ∨ max s.now t < s.recov.heartbeatAt + 1000000 * s.recov.hbMs.toNat →
      Runs (.ledgerHeartbeat t) s (fun s' => s' = { s with now := max s.now t })) ∧
    (s.checkedFold die id = some m → tagType m.tag = 5 →
      let seq := fieldOf m.payload 4 4
      (m.foldOk = true → s.recov.mirrorSrc ≠ 0xFFFF → m.hdr.src = s.recov.mirrorSrc → Runs (.ledger t die id) s (fun s' =>
        s'.landed die id = none ∧ tget [] s'.recov.mirror (seq % 1024) = m.payload ∧ s'.recov.mirrorSeq.toNat = seq ∧
        s'.recov.ledgerAt = max s.now t ∧ s'.recov.buddySilent = false ∧
        s'.recov.mirrorGaps = satAdd s.recov.mirrorGaps
          (if s.recov.ledgerSeen = true ∧ s.recov.mirrorSeq.toNat < seq then seq - s.recov.mirrorSeq.toNat - 1 else 0))) ∧
      (m.foldOk = false ∨ s.recov.mirrorSrc = 0xFFFF ∨ m.hdr.src ≠ s.recov.mirrorSrc → Runs (.ledger t die id) s (fun s' =>
        s'.landed die id = none ∧ s'.recov = { s.recov with foldBad := satInc s.recov.foldBad }))) ∧
    (s.recov.mirrorSrc ≠ 0xFFFF → s.recov.buddySilent = false →
      (s.recov.ledgerAt + 3000000 * s.recov.hbMs.toNat ≤ max s.now t → Runs (.buddySilent t) s (fun s' =>
        s'.recov = { s.recov with buddySilent := true })) ∧
      (max s.now t < s.recov.ledgerAt + 3000000 * s.recov.hbMs.toNat → Runs (.buddySilent t) s (fun s' =>
        s' = { s with now := max s.now t }))) ∧
    (s.recov.mirrorSrc = 0xFFFF ∨ s.recov.buddySilent = true → Runs (.buddySilent t) s (fun s' => s' = { s with now := max s.now t })))

/-- REBUILD, AUTO_REBUILD_START and REBUILD_WINDOW_START (14 R431, R432, 15 R465): a rebuild of a declared member that
passes the checks takes a free slot for the member, the epoch and the spare; with none free the descriptor is refused
with REBUILD_BUSY and an automatic one waits on; a window takes its length from the reservoir and loads each block's
parity into its accumulator. -/
def Obligations.RebuildsStart : Prop := ∀ (t k : Nat) (s : State), k < 4 →
  (∀ (j : Job) (js : List Job), s.NextJob 9 0 j js →
    let g := fieldOf j.desc 8 1
    let m := fieldOf j.desc 9 1
    let b := bitOf (fieldOf j.desc 12 1) 0
    let ep : BitVec 16 := BitVec.ofNat 16 (fieldOf j.desc 10 2)
    (15 < g ∨ (s.pgroup g).defined = false ∨ (s.pgroup g).members.length ≤ m → Runs (.rebuild t) s (fun s' =>
      s'.recov = s.recov ∧ s'.jobs = js ∧ j.Reports 0x51 s')) ∧
    (g ≤ 15 → (s.pgroup g).defined = true → m < (s.pgroup g).members.length → (s.pgroup g).failed.getLsbD m = true →
      s.rebuildRefused g m b = none → s.rebuilds (fun r => r.pgroup == g && r.member == m) = [] → s.quarterBlocks ≠ 0 →
      (∀ i, s.freeSlot = some i → Runs (.rebuild t) s (fun s' => s'.jobs = js ∧ j.Reports 0x00 s' ∧
        s'.rebuild i = { s.rebuild i with
          active := true, pgroup := g, member := m, epochB := b, epochSeq := ((s.pgroup g).epoch b).seq, spareEp := ep
          windowFirst := 0, windowLen := 0, blocksSent := 0, blocksBad := 0, restarts := 0, loaded := false, doneInWindow := 0 } ∧
        s'.recov.groups = s.recov.groups)) ∧
      (s.freeSlot = none → Runs (.rebuild t) s (fun s' => s'.recov = s.recov ∧ s'.jobs = js ∧ j.Reports 0x52 s')))) ∧
  (∀ (g m : Nat) (rest : List (Nat × Nat)), s.recov.waiting = (g, m) :: rest → s.vent.inSafe = false →
    (s.pgroup g).defined = true → (s.pgroup g).failed.getLsbD m = true →
    s.rebuilds (fun r => r.pgroup == g && r.member == m) = [] →
    s.rebuildRefused g m (s.pgroup g).latest = none → s.quarterBlocks ≠ 0 →
    (∀ i q, s.freeSlot = some i → s.freeSpare = some q → (s.spare q).ep ≠ 0xFFFF → Runs (.autoRebuildStart t) s (fun s' => s'.recov.waiting = rest ∧
      (s'.rebuild i).active = true ∧ (s'.rebuild i).pgroup = g ∧ (s'.rebuild i).member = m ∧
      (s'.rebuild i).spareEp = (s.spare q).ep ∧ (s'.spare q).inUse = true)) ∧
    (s.freeSlot = none ∨ s.freeSpare = none → Runs (.autoRebuildStart t) s (fun s' => s' = { s with now := max s.now t }))) ∧
  (s.recov.waiting = [] → Runs (.autoRebuildStart t) s (fun s' => s' = { s with now := max s.now t })) ∧
  (let r := s.rebuild k
   let x := s.pgroup r.pgroup
   let e := x.epoch r.epochB
   let n := min ((liveDies e.live).length * s.quarterBlocks) (x.blocks - r.windowFirst)
   let held (c i : Nat) : PBlock := s.readBlock c r.pgroup r.epochB (e.localIndex (r.windowFirst + i))
   (r.active = true → r.loaded = false → s.halted = false → n ≠ 0 →
     (∀ i c, i < n → homeDie e.live r.pgroup (r.windowFirst + i) = some c → (held c i).bad = false ∧ (held c i).ok = true ∧
       setBit (held c i).folded r.member false ≠ 0) →
     Runs (.rebuildWindowStart t k []) s (fun s' =>
       s'.rebuild k = { r with windowLen := n, loaded := true, doneInWindow := 0, feedAt := max s.now t } ∧
       ∀ i c, i < n → homeDie e.live r.pgroup (r.windowFirst + i) = some c →
         tget {} (s'.caldera c).accums (accumKey k (r.windowFirst + i)) =
           { data := (held c i).data, acc := (held c i).crcAcc, bitmap := setBit (held c i).folded r.member false
             block := r.windowFirst + i, key := s.sliceKey x.slice.toNat })) ∧
   (r.active = false ∨ r.loaded = true → Runs (.rebuildWindowStart t k []) s (fun s' => s' = { s with now := max s.now t })))

/-- FEED_RECEIVED and FEED_TIMEOUT (14 R423, R432, 09 R290, 15 R465): a survivor's block in the window is added to its
accumulator by XOR and the survivor is struck from its bitmap; the last one sends the block on and counts it; a second
block of one survivor is counted in fold_dup; one outside the window is counted in fold_stale; a block whose
accumulator cannot be read is skipped and counted (the model's choice, log entry 262); and a rebuild that no FEED
reached for feed_ms ends with PARITY_UNAVAILABLE, detail 6. -/
def Obligations.FeedsRebuild : Prop := ∀ (t die id k : Nat) (m : LandMsg) (s : State), die < 8 → k < 4 →
  (s.checkedFold die id = some m → m.foldOk = true → tagType m.tag = 2 → tagSlot m.tag = k → s.foldMember m = true →
    let r := s.rebuild k
    let mem := tagMember m.tag
    let blk := tagBlock m.tag
    let reads := r.active = true ∧ r.pgroup = tagGroup m.tag ∧ r.epochB = tagEpochB m.tag ∧ r.epochSeq.toNat = tagSeq m.tag ∧
      mem ≠ r.member ∧ (s.pgroup r.pgroup).failed.getLsbD mem = false ∧ r.loaded = true ∧
      r.windowFirst ≤ blk ∧ blk < r.windowFirst + r.windowLen
    let acc (s' : State) : Accum := tget {} (s'.caldera die).accums (accumKey k blk)
    let a := s.readAccum die k blk
    (reads → s.isHome die m = true →
      (a.bitmap.getLsbD mem = true → setBit a.bitmap mem false ≠ 0 → Runs (.feedReceived t die id .none) s (fun s' =>
        s'.landed die id = none ∧ s'.rebuild k = { r with feedAt := max s.now t } ∧
        acc s' = { a with data := xorBytes (padTo 4096 a.data) m.payload, acc := a.acc ^^^ m.l.payCrc
                          bitmap := setBit a.bitmap mem false })) ∧
      (a.bitmap.getLsbD mem = true → setBit a.bitmap mem false = 0 → r.doneInWindow + 1 < r.windowLen →
        Runs (.feedReceived t die id .none) s (fun s' => s'.landed die id = none ∧
          s'.rebuild k = { r with feedAt := max s.now t, blocksSent := satInc r.blocksSent, doneInWindow := r.doneInWindow + 1 } ∧
          (acc s').bitmap = 0 ∧ (s'.caldera die).blocksRebuilt = satInc (s.caldera die).blocksRebuilt)) ∧
      (a.bitmap.getLsbD mem = true → r.doneInWindow + 1 < r.windowLen →
        Runs (.feedReceived t die id .uncorrectable) s (fun s' => s'.landed die id = none ∧ (acc s').bitmap = 0 ∧
          s'.rebuild k = { r with blocksBad := satInc r.blocksBad, doneInWindow := r.doneInWindow + 1 })) ∧
      (a.bitmap.getLsbD mem = false → Runs (.feedReceived t die id .none) s (fun s' => s'.landed die id = none ∧
        (s'.caldera die).accums = (s.caldera die).accums ∧ (s'.caldera die).foldDup = satInc (s.caldera die).foldDup ∧
        s'.recov = s.recov))) ∧
    (¬ reads → Runs (.feedReceived t die id .none) s (fun s' => s'.landed die id = none ∧
      (s'.caldera die).accums = (s.caldera die).accums ∧
      s'.recov = { s.recov with foldStale := satInc s.recov.foldStale }))) ∧
  ((s.rebuild k).active = true → (s.rebuild k).loaded = true →
    ((s.rebuild k).feedAt + 1000000 * s.recov.feedMs.toNat ≤ max s.now t → Runs (.feedTimeout t k) s (fun s' =>
      s'.rebuild k = { s.rebuild k with active := false, loaded := false, status := 0x50, detail := 6 } ∧
      (∀ i, i ≠ k → s'.rebuild i = s.rebuild i) ∧ s'.recov.groups = s.recov.groups)) ∧
    (max s.now t < (s.rebuild k).feedAt + 1000000 * s.recov.feedMs.toNat →
      Runs (.feedTimeout t k) s (fun s' => s' = { s with now := max s.now t }))) ∧
  ((s.rebuild k).active = false → Runs (.feedTimeout t k) s (fun s' => s' = { s with now := max s.now t }))

/-- The attach (01 R20, 12 R353, R355, R356): the module that carries the link takes the rate and the cache it trained
with, and what waited for it leaves in order (the model's choice, log entry 238); the other stands by with its own.
Before the first failover H.B takes the link where H.A has not trained and no retraining of H.A is awaited, and H.A
takes it from H.B within 500 ms of H_RST_N (the moment is the model's choice, log entry 239). A module that leaves its
active state starts the failover's time where it is the active one; 500 ms after H_RST_N rose with neither having
trained since the attach has failed, and not before. FAILOVER, SWITCH and FAILOVER_REPLAY (12 R353 to R356, R358,
R376): 100 µs after the active module left its active state, or at the owner's write, the T8 unit becomes active where
it can, with the rate and cache that its module trained with, every descriptor read in flight is abandoned and so is
what waited for the old module (the model's choice, log entry 238); the attach fails where it cannot, except for a
switch, which then changes nothing of the attach; when the new unit carries the link, every unconfirmed record is
written again, then the tail word of each of their rings, and the cause FAILOVER goes out; a switch by another master
is refused, and on a die that cannot be reached (through the window of log entry 20, the model's choice, and of
whatever master, its inference, log entry 12) it is recorded as refused. -/
def Obligations.AttachKeptThroughFailover : Prop :=
  (∀ (t : Nat) (b half cache : Bool) (s : State),
    let h := s.host
    let early := ∃ r, s.attachFrom = some r ∧ max s.now t < r + 500000000
    let takes := h.moved = false ∧ b ≠ h.unitB ∧ (b = true → h.aTrained = false ∧ h.downAt = none) ∧ (b = false → early)
    Runs (.hostModuleTrained t b half cache) s (fun s' =>
      s'.host.aTrained = (h.aTrained || !b) ∧ s'.host.bTrained = (h.bTrained || b) ∧
      (b = h.unitB ∨ takes → s'.host.unitB = b ∧ s'.host.halfRate = half ∧ s'.host.cacheOn = cache ∧ s'.host.downAt = none ∧
        s'.host.outbox = [] ∧ s'.sent = h.outbox.reverse ++ s.sent) ∧
      (b = h.unitB → s'.host.standbyHalf = h.standbyHalf ∧ s'.host.standbyCache = h.standbyCache) ∧
      (takes → s'.host.standbyHalf = h.halfRate ∧ s'.host.standbyCache = h.cacheOn) ∧
      (¬ (b = h.unitB ∨ takes) → s'.host.unitB = h.unitB ∧ s'.host.halfRate = h.halfRate ∧ s'.host.cacheOn = h.cacheOn ∧
        s'.host.downAt = h.downAt ∧ s'.host.standbyHalf = half ∧ s'.host.standbyCache = cache) ∧
      s' = { s with now := max s.now t, host := s'.host, sent := s'.sent }) ∧
    Runs (.hostModuleDown t b) s (fun s' =>
      (b = h.unitB → s'.host.downAt = some (max s.now t)) ∧ (b ≠ h.unitB → s'.host.downAt = h.downAt) ∧
      s'.host.bTrained = (h.bTrained && !b) ∧ s'.host.aTrained = (h.aTrained && b) ∧
      s'.host.unitB = h.unitB ∧ s' = { s with now := max s.now t, host := s'.host }) ∧
    (∀ r, s.attachFrom = some r → h.attachFailed = false →
      (r + 500000000 ≤ max s.now t → h.aTrained = false → h.bTrained = false → h.everTrained = false →
        Runs (.attachTimeout t) s (fun s' => s'.host.attachFailed = true ∧ (s'.die 4).sticky.getLsbD srcHaFail = true)) ∧
      (max s.now t < r + 500000000 ∨ h.aTrained = true ∨ h.bTrained = true ∨ h.everTrained = true →
        Runs (.attachTimeout t) s (fun s' => s' = { s with now := max s.now t })))) ∧
  (∀ (t m : Nat) (s : State), isMaster m = true →
    let able := s.host.bTrained = true ∧ s.dieOut 12 = false ∧ (s.die 12).inReset = false
    let moved (trig : Nat) (s' : State) : Prop := s'.host.unitB = true ∧ s'.host.failovers = satInc s.host.failovers ∧
      s'.host.replay = some trig ∧ s'.host.downAt = none ∧ s'.host.outbox = [] ∧ s'.host.halfRate = s.host.standbyHalf ∧
      s'.host.cacheOn = s.host.standbyCache ∧ (∀ r, (s'.ring r).fetch = none) ∧ s'.jobs = s.jobs
    (∀ d, s.host.downAt = some d →
      (d + 100000 ≤ max s.now t → s.host.unitB = false → s.host.aTrained = false → able → Runs (.failover t) s (moved 1)) ∧
      (d + 100000 ≤ max s.now t → s.hostUp = false → s.host.unitB = true ∨ s.host.bTrained = false →
        Runs (.failover t) s (fun s' => s'.host.attachFailed = true ∧ s'.host.unitB = s.host.unitB)) ∧
      (max s.now t < d + 100000 ∨ s.hostUp = true → Runs (.failover t) s (fun s' => s' = { s with now := max s.now t }))) ∧
    (s.host.downAt = none → Runs (.failover t) s (fun s' => s' = { s with now := max s.now t })) ∧
    (s.reachable s.haWindow = true →
      (s.isOwner m = true → s.host.unitB = false → able → Served (.switch t m) s (moved 3)) ∧
      (s.isOwner m = true → s.host.unitB = false → ¬ able → Served (.switch t m) s (fun s' => s'.host = s.host ∧
        s'.rings = s.rings ∧ s'.dies = s.dies ∧ s'.sent = s.sent)) ∧
      (s.isOwner m = true → s.host.unitB = true → s.host.aTrained = true → s.dieOut 4 = false → (s.die 4).inReset = false →
        Served (.switch t m) s (fun s' => s'.host.unitB = false ∧ s'.host.replay = some 3)) ∧
      ((s.tick t).mayWrite m = false → Served (.switch t m) s (fun s' => s' = { s.refuseWrite m with now := max s.now t }))) ∧
    (s.reachable s.haWindow = false → Served (.switch t m) s (fun s' =>
      s' = accessRefused m (some s.haWindow) (s.tick t))) ∧
    (∀ trig, s.host.replay = some trig →
      (s.hostUp = true → Runs (.failoverReplay t) s (fun s' => s'.host.replay = none ∧
        Sent.hostWrite s.causeWord (leBytes 8 3) ∈ s'.sent ∧
        (∀ w ∈ s.host.unconfirmed, Sent.hostWrite ((s.ring w.ring).slotAddr w.index) w.bytes ∈ s'.sent) ∧
        (∀ ws w, s.host.unconfirmed = ws ++ [w] → Sent.hostWrite (s.tailWord w.ring)
          (leBytes 4 ((w.index + w.bytes.length / 64) % 2 ^ 32) ++ zeros 4) ∈ s'.sent))) ∧
      (s.hostUp = false → Runs (.failoverReplay t) s (fun s' => s' = { s with now := max s.now t }))) ∧
    (s.host.replay = none → Runs (.failoverReplay t) s (fun s' => s' = { s with now := max s.now t })))

/-- RING_ENABLE, RING_DISABLE and FUNCTION_LEVEL_RESET (12 R352, R354, R358, R362): only HOST enables a ring; a submission
ring takes its head and tail from the doorbell word, which is read, where its completion ring is an enabled completion
ring, and errs where it is not; another ring takes its tail from it, and writes its tail word and reads it back; a
disabled ring has no read in flight (the model's inference, log entry 276) and no audit record waits for it, and its
records that wait for confirmations are discarded and counted; a write to a die that cannot be reached (by log entries
20, a choice, and 12, an inference) is recorded as refused; and a function-level reset disables every ring and clears
the MSI-X table. TAIL_CONFIRM and MSIX_COALESCE_TIMEOUT (12 R354, R370): the read-back of a tail word confirms the
records of its ring that the tail covers and no other; and where coal_us has passed since the first record not
signalled, the ring's vector goes out. -/
def Obligations.RingsEnabledAndConfirmed : Prop :=
  (∀ (t m r w : Nat) (s : State), isMaster m = true → r < 16384 → w < 2 ^ 32 →
    let g := s.ring r
    let c := s.ring g.cmplRing.toNat
    let x : W32 := BitVec.ofNat 32 w
    let line : Sent := .hostRead (s.host.dbBase.toNat * 4096 + 64 * (r / 8)) 64 s.host.cacheOn
    (s.reachable s.haWindow = true →
      (m ≠ 1 → Served (.ringEnable t m r w) s (fun s' => s' = { s.refuseWrite m with now := max s.now t }) ∧
        Served (.ringDisable t m r) s (fun s' => s' = { s.refuseWrite m with now := max s.now t })) ∧
      (m = 1 → g.enable = false →
        (g.kind = 0 → c.enable = true → c.kind = 1 → Served (.ringEnable t m r w) s (fun s' =>
          s'.ring r = { g with enable := true, head := x, tail := x, doorbell := x, woken := false } ∧
          (∀ q, q ≠ r → s'.ring q = s.ring q) ∧ (s.hostUp = true → s'.sent = line :: s.sent))) ∧
        (g.kind = 0 → c.enable = false ∨ c.kind ≠ 1 → Served (.ringEnable t m r w) s (fun s' =>
          s'.ring r = { g with err := true } ∧ (∀ q, q ≠ r → s'.ring q = s.ring q))) ∧
        (g.kind = 1 ∨ g.kind = 2 → Served (.ringEnable t m r w) s (fun s' =>
          s'.ring r = { g with enable := true, head := x, tail := x, doorbell := x } ∧
          (s.hostUp = true → s'.sent = .hostRead (s.tailWord r) 8 false ::
            .hostWrite (s.tailWord r) (leBytes 4 w ++ zeros 4) :: line :: s.sent)))) ∧
      (m = 1 → g.cmplRing.toNat ≠ r → Served (.ringDisable t m r) s (fun s' =>
        s'.ring r = { g with enable := false, woken := false, fetch := none, audits := [] } ∧
        s'.host.delayed = s.host.delayed.filter (fun w => w.ring != r) ∧
        ((∀ w ∈ s.host.delayed, w.ring ≠ r) → s'.host.lostRecords = s.host.lostRecords) ∧
        (∀ w, s.host.delayed = [w] → w.ring = r → byteAt w.bytes 0 ≠ 0 → s'.host.lostRecords = satInc s.host.lostRecords) ∧
        ∀ q, q ≠ r → (s'.ring q).enable = (s.ring q).enable ∧ (s'.ring q).tail = (s.ring q).tail))) ∧
    (s.reachable s.haWindow = false → Served (.ringEnable t m r w) s (fun s' =>
      s' = accessRefused m (some s.haWindow) (s.tick t))) ∧
    Runs (.functionLevelReset t) s (fun s' => (∀ q, (s'.ring q).enable = false ∧ (s'.ring q).fetch = none) ∧
      (s.host.delayed = [] → s'.host = { s.host with msix := [] }) ∧ (∀ w ∈ s'.host.delayed, ∀ q, (w.ring, q) ∉ s.rings) ∧
      s'.host.msix = [] ∧ s'.jobs = s.jobs ∧ s'.sent = s.sent)) ∧
  (∀ (t r tail : Nat) (s : State), r < 16384 → tail < 2 ^ 32 →
    (s.host.delayed = [] → Runs (.tailConfirm t r tail) s (fun s' =>
      s'.host = { s.host with unconfirmed := s.host.unconfirmed.filter (fun w => !(w.ring == r &&
        decide ((BitVec.ofNat 32 tail - BitVec.ofNat 32 (w.index + w.bytes.length / 64)).toNat < 2 ^ 31))) } ∧
      s'.rings = s.rings ∧ s'.sent = s.sent)) ∧
    (let g := s.ring r
     (∀ f, g.unsigFrom = some f → g.intEn = true → g.coalUs ≠ 0 →
      (f + 1000 * g.coalUs.toNat ≤ max s.now t → Runs (.msixCoalesceTimeout t r) s (fun s' =>
        s'.ring r = { g with unsignalled := 0, unsigFrom := none } ∧ (∀ q, q ≠ r → s'.ring q = s.ring q) ∧
        let e := tget {} s.host.msix g.vector.toNat
        (e.masked = false → s.hostUp = true → s'.sent = .msix g.vector.toNat :: s.sent) ∧
        (e.masked = true → tget {} s'.host.msix g.vector.toNat = { e with pending := true } ∧ s'.sent = s.sent))) ∧
      (max s.now t < f + 1000 * g.coalUs.toNat → Runs (.msixCoalesceTimeout t r) s (fun s' =>
        s' = { s with now := max s.now t }))) ∧
     (g.unsigFrom = none → Runs (.msixCoalesceTimeout t r) s (fun s' => s' = { s with now := max s.now t }))))

/-- Doorbells (12 R350, R351, R359, R360): a snoop is answered without data; SnpInv makes the copy of a line invalid and,
with CXL.cache, the line is read again, and another snoop leaves it; a line read wakes each submission ring whose tail
moved, gives a completion or event ring its head, puts a ring whose tail is too far ahead in error and disables it,
and leaves a ring whose word is the same; and without CXL.cache a poll, every db_poll_us, reads the line of every
enabled ring. DESCRIPTOR_FETCH and DESCRIPTOR_READ_DONE (12 R360, R362 to R365): the next ring in turn has up to 16
descriptors read and a completion slot reserved for each; nothing is fetched in the safe state or where no ring has
any; a read that fails stops its ring and is counted, be it of descriptors or of the data that a body names, whose
descriptor then completes with HOST_READ_ERR (0x75) and changes nothing; and one that returns hands the descriptor to
execution where its check field, its reserved bits and its ranges are right. -/
def Obligations.DoorbellsAndDescriptors : Prop :=
  (∀ (t line i : Nat) (words : List Nat) (s : State), line < 2048 → i < 8 →
    words.length = 8 →
    let r := 8 * line + i
    let g := s.ring r
    let x : W32 := BitVec.ofNat 32 (words.getD i 0)
    let poll := s.host.pollAt + 1000 * s.host.dbPollUs.toNat
    Runs (.doorbellSnoop t (.inv line)) s (fun s' => tget 0 s'.host.lines line = 0 ∧ s'.rings = s.rings ∧
      (s.hostUp = true → s'.sent = (if s.host.cacheOn = true then
        Sent.hostRead (s.host.dbBase.toNat * 4096 + 64 * line) 64 true :: .snoopAnswer line :: s.sent
        else .snoopAnswer line :: s.sent))) ∧
    (∀ k ∈ [Snoop.data line, .cur line], Runs (.doorbellSnoop t k) s (fun s' => s'.host.lines = s.host.lines ∧ s'.rings = s.rings ∧
      (s.hostUp = true → s'.sent = .snoopAnswer line :: s.sent))) ∧
    Runs (.doorbellLineRead t line words) s (fun s' =>
      (g.enable = true → x ≠ g.doorbell → g.kind = 0 → (x - g.head).toNat ≤ g.slots →
        (s'.ring r).tail = x ∧ (s'.ring r).doorbell = x ∧ (s'.ring r).woken = true ∧ (s'.ring r).enable = true ∧
        (s'.ring r).head = g.head) ∧
      (g.enable = true → x ≠ g.doorbell → g.kind = 0 → g.slots < (x - g.head).toNat →
        (s'.ring r).err = true ∧ (s'.ring r).enable = false ∧ (s'.ring r).woken = false) ∧
      (g.enable = true → x ≠ g.doorbell → g.kind ≠ 0 → (s'.ring r).head = x ∧ (s'.ring r).tail = g.tail) ∧
      (g.enable = false ∨ x = g.doorbell → (s'.ring r).tail = g.tail ∧ (s'.ring r).head = g.head ∧
        (s'.ring r).woken = g.woken ∧ (s'.ring r).err = g.err) ∧
      (∀ q, q / 8 ≠ line → (s'.ring q).tail = (s.ring q).tail ∧ (s'.ring q).woken = (s.ring q).woken) ∧
      s'.jobs = s.jobs ∧ s'.sent = s.sent) ∧
    (s.host.cacheOn = true ∨ max s.now t < poll → Runs (.doorbellPoll t) s (fun s' => s' = { s with now := max s.now t })) ∧
    (s.host.cacheOn = false → poll ≤ max s.now t → s.hostUp = true → (r, g) ∈ s.rings → g.enable = true → Runs (.doorbellPoll t) s (fun s' =>
      Sent.hostRead (s.host.dbBase.toNat * 4096 + 64 * line) 64 false ∈ s'.sent ∧ s'.rings = s.rings ∧
      s'.host.pollAt = max s.now t))) ∧
  (∀ (t r : Nat) (bytes : List Byte) (s : State), r < 16384 →
    (s.vent.inSafe = false → s.nextFetch = some r → 0 < s.fetchCount r → Runs (.descriptorFetch t) s (fun s' =>
      let g := s.ring r
      let n := s.fetchCount r
      n ≤ 16 ∧ (s'.ring r).fetch = some (g.head, n) ∧ (s'.ring r).head = g.head ∧ s'.host.visit = r + 1 ∧
      (s'.ring g.cmplRing.toNat).reserved = (s.ring g.cmplRing.toNat).reserved + n ∧ s'.jobs = s.jobs ∧
      (s.hostUp = true → s'.sent = .hostRead (g.slotAddr g.head.toNat) (64 * n) false :: s.sent))) ∧
    (s.vent.inSafe = true ∨ s.nextFetch = none → Runs (.descriptorFetch t) s (fun s' => s' = { s with now := max s.now t })) ∧
    (∀ h, (s.ring r).fetch = some (h, 1) →
      let d := sliceOf bytes 0 64
      let slot := (s.ring r).head.toNat % (s.ring r).slots
      (descCheckOk (s.ring r).checkReq d = true → descReservedOk d = true → (bodyRanges d).all (rangeOk false) = true →
        Runs (.descriptorReadDone t r true bytes) s (fun s' => s'.jobs = s.jobs ++ [{ src := .ring r slot, desc := d }] ∧
          s'.ring r = { s.ring r with fetch := none, head := (s.ring r).head + 1 } ∧ s'.sent = s.sent)) ∧
      (descCheckOk (s.ring r).checkReq d = false ∨ descReservedOk d = false ∨ (bodyRanges d).all (rangeOk false) = false →
        Runs (.descriptorReadDone t r true bytes) s (fun s' => s'.jobs = s.jobs)) ∧
      ((s.ring r).cmplRing.toNat ≠ r → Runs (.descriptorReadDone t r false bytes) s (fun s' => s'.jobs = s.jobs ∧
        (s'.ring r).err = true ∧ (s'.ring r).woken = false ∧ (s'.ring r).fetch = none ∧ (s'.ring r).head = (s.ring r).head ∧
        s'.host.readErrors = satInc s.host.readErrors))) ∧
    (∀ (j : Job) (js : List Job) (slot : Nat), s.NextJob 1 0 j js → j.src = .ring r slot → j.readFails [] = true →
      let c := s.ring (s.ring r).cmplRing.toNat
      (s.ring r).cmplRing.toNat ≠ r → c.enable = true → c.kind = 1 → s.hostUp = true → s.host.delayed = [] →
      s.unconfirmedSlots < 4096 → Runs (.groupInstall t []) s (fun s' => s'.groups = s.groups ∧ s'.jobs = js ∧
        (s'.ring r).err = true ∧ (s'.ring r).woken = false ∧ s'.host.readErrors = satInc s.host.readErrors ∧
        ∃ b, Sent.hostWrite (c.slotAddr c.tail.toNat) b ∈ s'.sent ∧ byteAt b 2 = 0x75)) ∧
    ((s.ring r).fetch = none → Runs (.descriptorReadDone t r true bytes) s (fun s' => s' = { s with now := max s.now t })))

/-- MAILBOX_GO, OWNER_HANDOVER and NOP (12 R364 to R367, R375, R379): a write of go takes the mailbox's descriptor into
hand and the mailbox is busy; while it is busy the write is dropped and says so; a descriptor that fails a check is
answered at once, a PORT_CTL that wires a pad in the reserved mode among them; NOP completes with OK and changes
nothing else; and OWNER_HANDOVER names or cancels a successor, or is refused with BAD_TARGET. -/
def Obligations.MailboxDescriptorsComplete : Prop := ∀ (t m : Nat) (s : State), isMaster m = true →
  let d := memRead 0 (s.master m).mboxDesc 0 64
  ((s.master m).mboxBusy = true → Served (.mailboxGo t m) s (fun s' =>
    s'.master m = { s.master m with mboxDropped := true } ∧ s'.jobs = s.jobs)) ∧
  ((s.master m).mboxBusy = false →
    (descCheckOk false d = true → descReservedOk d = true → (bodyRanges d).all (rangeOk (jobStaged (.mbox m))) = true →
      Served (.mailboxGo t m) s (fun s' => s'.jobs = s.jobs ++ [{ src := .mbox m, desc := d }] ∧
        s'.master m = { s.master m with mboxBusy := true })) ∧
    (descCheckOk false d = false → Served (.mailboxGo t m) s (fun s' => s'.jobs = s.jobs ∧
      (s'.master m).mboxBusy = false ∧ tget 0 (s'.master m).mboxCmpl 2 = 0x74)) ∧
    (descCheckOk false d = true → descReservedOk d = false ∨
        (descKind d = dkPortCtl ∧ (bodyOp dkPortCtl d).1 = 2 ∧ 3 ≤ fieldOf d 12 4) → Served (.mailboxGo t m) s (fun s' => s'.jobs = s.jobs ∧
      (s'.master m).mboxBusy = false ∧ tget 0 (s'.master m).mboxCmpl 2 = 0x73))) ∧
  (∀ (j : Job) (js : List Job),
    (s.NextJob 14 0 j js → j.src = .mbox m → Runs (.nop t) s (fun s' => s'.jobs = js ∧ j.Reports 0x00 s' ∧
      s' = { ({ s with jobs := js }).newCycle with now := max s.now t, masters := s'.masters } ∧ ∀ q, q ≠ m → s'.master q = s.master q)) ∧
    (s.NextJob 13 0 j js →
      let x := fieldOf j.desc 8 1
      (x = 0 → Runs (.ownerHandover t) s (fun s' => s'.own = { s.own with successor := none } ∧ j.Reports 0x00 s')) ∧
      (isMaster x = true → x ≠ s.own.owner → Runs (.ownerHandover t) s (fun s' =>
        s'.own = { s.own with successor := some (x, max s.now t) } ∧ j.Reports 0x00 s')) ∧
      (x ≠ 0 → x = s.own.owner ∨ isMaster x = false → Runs (.ownerHandover t) s (fun s' =>
        s'.own = s.own ∧ j.Reports 0x76 s'))))

/-- OWNER_CLAIM (12 R377, R379, R380, R410): before READY a claim ends NOT_READY; with no owner it enters the election;
with another owner and no successor it ends REFUSED_OWNED; the owner's own renews the lease under its nonce, and under
a new one starts a new lease, the successor staying (the model's inference, log entry 168), and discards every pending
shadow write but those that a commit in progress, or one that the owner until then writes in the same cycle, takes;
and the successor's within 1,000 ms wins at once. ELECTION_WINDOW_END (12 R377): 10 ms after the first claim the
claimant with the claim, of every one made, of the highest priority, then the higher nonce, then the lower identifier,
becomes the owner with a lease that starts then; its result is WON and every other claimant's LOST; and before that
the election goes on. HANDOVER_WRITE and HANDOVER_EXPIRY (12 R379): the owner names, replaces or cancels its
successor; itself and what is no master are ignored; another master's write is refused; and a successor who has not
claimed within 1,000 ms is forgotten, and not before. -/
def Obligations.OwnershipClaimedAndHandedOver : Prop :=
  (∀ (t m : Nat) (s : State), isMaster m = true →
    let ms := s.master m
    let isOpen := s.boot.phase = .ready ∨ s.boot.phase = .safe
    let owned (s' : State) : Prop := s'.own.owner = m ∧ s'.own.nonce = ms.nonce ∧ s'.own.priority = ms.priority ∧
      s'.own.leaseAt = max s.now t ∧ s'.own.windowAt = none ∧ (s'.master m).claimResult = 2 ∧
      ((s.tick t).Alone → (∀ k, commitTakes k s.jobs = 0 → (s'.tile k).pending = []) ∧ (∀ k, (s'.laneDie k).pending = []) ∧
        (∀ k, (s'.tile k).pending = (s.tile k).pending.take (commitTakes k s.jobs)) ∧ s'.ftc.detPending = none) ∧
      (∀ k, (s.tick t).bitComes s.own.owner (dieTile k * 0x800000 + 0xFFC) 0 = true → s'.tile k = s.tile k)
    (¬ isOpen → Served (.ownerClaim t m) s (fun s' => s'.own = s.own ∧ s'.master m = { ms with claimResult := 5 } ∧
      ∀ q, q ≠ m → s'.master q = s.master q)) ∧
    (isOpen → s.own.owner = 0 → s.own.successor = none → Served (.ownerClaim t m) s (fun s' =>
      s'.own = { s.own with windowAt := some (s.own.windowAt.getD (max s.now t)) } ∧
      s'.master m = { ms with entered := ms.entered ++ [(ms.nonce, ms.priority)], claimResult := 1 })) ∧
    (isOpen → s.own.owner ≠ 0 → s.own.owner ≠ m → s.own.successor = none → Served (.ownerClaim t m) s (fun s' =>
      s'.own = s.own ∧ s'.master m = { ms with claimResult := 4 })) ∧
    (isOpen → s.own.owner = m → s.own.nonce = ms.nonce → Served (.ownerClaim t m) s (fun s' =>
      s'.own = { s.own with leaseAt := max s.now t } ∧ s'.master m = { ms with claimResult := 2 } ∧ s'.tiles = s.tiles)) ∧
    (isOpen → s.own.owner = m → s.own.nonce ≠ ms.nonce → Served (.ownerClaim t m) s (fun s' => owned s' ∧
      s'.own.successor = s.own.successor)) ∧
    (∀ a, isOpen → s.own.successor = some (m, a) → s.own.owner ≠ 0 → s.own.owner ≠ m →
      (max s.now t < a + 1000000000 → Served (.ownerClaim t m) s (fun s' => owned s' ∧ s'.own.successor = none)) ∧
      (a + 1000000000 ≤ max s.now t → Served (.ownerClaim t m) s (fun s' => s'.own = s.own ∧
        s'.master m = { ms with claimResult := 4 }))) ∧
    (∀ x a, isOpen → s.own.successor = some (x, a) → x ≠ m → s.own.owner ≠ 0 → s.own.owner ≠ m →
      Served (.ownerClaim t m) s (fun s' => s'.own = s.own ∧ s'.master m = { ms with claimResult := 4 }))) ∧
  (∀ (t w : Nat) (s : State), s.own.windowAt = some w →
    (w + 10000000 ≤ max s.now t → s.entrants ≠ [] → Runs (.electionWindowEnd t) s (fun s' =>
      ∃ m nonce prio, (m, nonce, prio) ∈ s.entrants ∧
        (∀ e ∈ s.entrants, e.2.2.toNat < prio.toNat ∨ (e.2.2 = prio ∧ (e.2.1.toNat < nonce.toNat ∨ (e.2.1 = nonce ∧ m ≤ e.1)))) ∧
        s'.own.owner = m ∧ s'.own.priority = prio ∧ s'.own.nonce = nonce ∧ s'.own.windowAt = none ∧
        s'.own.leaseAt = max s.now t ∧ s'.own.successor = none ∧
        (s'.master m).claimResult = 2 ∧ (∀ e ∈ s.entrants, e.1 ≠ m → (s'.master e.1).claimResult = 3) ∧
        (∀ x, isMaster x = true → (s'.master x).entered = []))) ∧
    (max s.now t < w + 10000000 → Runs (.electionWindowEnd t) s (fun s' => s' = { s with now := max s.now t }))) ∧
  (∀ (t m x : Nat) (s : State), isMaster m = true → x < 256 →
    (s.isOwner m = true →
      (x = 0 → Served (.handoverWrite t m x) s (fun s' =>
        s' = { s with now := max s.now t, own := { s.own with successor := none } })) ∧
      (isMaster x = true → x ≠ m → Served (.handoverWrite t m x) s (fun s' =>
        s' = { s with now := max s.now t, own := { s.own with successor := some (x, max s.now t) } })) ∧
      (x = m ∨ (x ≠ 0 ∧ isMaster x = false) → Served (.handoverWrite t m x) s (fun s' => s' = { s with now := max s.now t }))) ∧
    ((s.tick t).mayWrite m = false → Served (.handoverWrite t m x) s (fun s' => s' = { s.refuseWrite m with now := max s.now t })) ∧
    (∀ y a, s.own.successor = some (y, a) →
      (a + 1000000000 ≤ max s.now t → Runs (.handoverExpiry t) s (fun s' =>
        s' = { s with now := max s.now t, own := { s.own with successor := none } })) ∧
      (max s.now t < a + 1000000000 → Runs (.handoverExpiry t) s (fun s' => s' = { s with now := max s.now t }))))

/-- The lease (12 R378): the owner's write of renew starts its 1,000 ms again, and another path's is dropped and counted;
when they have passed, the Driant has no owner, OWNER_CHANGED is posted and the cause LEASE_LAPSED goes out on vector
0, while packets, invocations, descriptors and rings stay as they are; before that nothing happens, nor where the
owner's renewal or claim, or its successor's claim, waits in the same cycle (R380). -/
def Obligations.LeaseRunsOut : Prop := ∀ (t m : Nat) (s : State), isMaster m = true →
  (s.isOwner m = true → Served (.leaseRenew t m) s (fun s' =>
    s' = { s with now := max s.now t, own := { s.own with leaseAt := max s.now t } })) ∧
  ((s.tick t).mayWrite m = false → Served (.leaseRenew t m) s (fun s' => s' = { s.refuseWrite m with now := max s.now t })) ∧
  (s.own.owner ≠ 0 → s.own.leaseAt + 1000000000 ≤ max s.now t → (s.tick t).leaseHeld = false → Runs (.leaseLapsed t) s (fun s' =>
    let late := some (s.own.owner, mgCycle (max s.now t))
    let none_ : Ownership :=
      { owner := 0, priority := 0, nonce := 0, windowAt := none, leaseAt := max s.now t, successor := none, late := late }
    s' = ((({ s with now := max s.now t, own := none_ } : State).discardShadow s.own.owner).event 0x91 0 0 s.own.owner 3).packageVector 5 ∧
    s'.own = none_ ∧ s'.invs = s.invs ∧ s'.inPkts = s.inPkts ∧ s'.out = s.out ∧ s'.engines = s.engines ∧ s'.jobs.map Job.desc = s.jobs.map Job.desc ∧
    (∀ r, (s'.ring r).enable = (s.ring r).enable ∧ (s'.ring r).head = (s.ring r).head))) ∧
  (s.own.owner = 0 ∨ max s.now t < s.own.leaseAt + 1000000000 ∨ (s.tick t).leaseHeld = true → Runs (.leaseLapsed t) s (fun s' =>
    s' = { s with now := max s.now t }))

/-- MGMT_READ, MGMT_WRITE and MGMT_DESC (12 R374, R376, R384, 00 R5, 15 R466, 16 R474): a request at the head of the queue
is answered with a RESPONSE, a class G packet on VC 0 to its source in its slice, with its identifier and the next
counter: the words read for a READ; for a WRITE the status alone, OK where every word has been taken and NOT_OWNER
where one was dropped and counted, as a write of the owner's alone by another is; a request whose words or offset
break the rule is refused with BAD_DESCRIPTOR, detail 2, as a bad access, and touches no register; a descriptor of 16
words goes to execution, and another length is refused with detail 1. -/
def Obligations.ManagementAnswered : Prop := ∀ (t m src slice : Nat) (p : List Byte) (rest : List (Nat × Nat × Nat × List Byte)) (s : State),
  s.mgmtIn = (m, src, slice, p) :: rest →
  let s1 : State := { s with now := max s.now t, mgmtIn := rest }
  let off := fieldOf p 8 4
  let n := fieldOf p 2 2
  let answer (s2 : State) (st : Byte) (detail : Nat) (data : List Byte) : State :=
    let ctr := (s2.master m).mgmtTx + 1
    let pl := mgmtSeal ((s2.master m).mgmtKey.getD 0) s2.pkg.selfEp.toNat src slice ctr
      ([0x8, BitVec.ofNat 8 (m - 0x10)] ++ leBytes 2 (data.length / 4) ++ leBytes 4 (fieldOf p 4 4) ++ [st, 0] ++
        leBytes 2 detail ++ zeros 4 ++ data)
    sendFrom s2.firstCaldera 8 { vc := 0, cls := 2, dst := BitVec.ofNat 16 src, slice := BitVec.ofNat 8 slice } [] pl (crc32c pl) none
      (s2.modMaster m (fun x => { x with mgmtTx := ctr }))
  let is (s2 s' : State) : Prop := s' = { s2 with pending := s.pending, now := max s.now t }
  (fieldOf p 0 1 = 1 →
    (mgmtRangeOk p = true → n = 1 → Served (.mgmtRead t) s
      (is (answer (regRead m off s1).2 0x00 0 (leBytes 4 (regRead m off s1).1)))) ∧
    (mgmtRangeOk p = false → Served (.mgmtRead t) s (is (answer (accessRefused m none s1) 0x73 2 [])))) ∧
  (fieldOf p 0 1 = 2 →
    (mgmtRangeOk p = true → n = 1 → 20 ≤ p.length →
      let w := (regWrite m off (fieldOf p 16 4) 0 (s1.modMaster m (fun x => { x with refused := 0 }))).newCycle
      Served (.mgmtWrite t) s
        (is (answer (w.modMaster m (fun x => { x with refused := satAdd (s.master m).refused (w.master m).refused.toNat }))
          (if (w.master m).refused = 0 then 0x00 else 0x71) 0 []))) ∧
    (mgmtRangeOk p = true → n = 1 → 20 ≤ p.length → 20 ≤ off / 0x800000 → off / 0x800000 < 68 → s.reachable (off / 0x800000) = true →
      isNamed (off / 0x800000) (off % 0x800000) = true → (s.tick t).mayWrite m = false → Served (.mgmtWrite t) s (fun s' =>
        (s'.master m).refused = satInc (s.master m).refused ∧
        s' = { answer s1.newCycle 0x71 0 [] with masters := s'.masters, pending := s.pending, now := max s.now t } ∧
        ∀ q, q ≠ m → s'.master q = s.master q)) ∧
    (mgmtRangeOk p = false ∨ p.length < 16 + 4 * n →
      Served (.mgmtWrite t) s (is (answer (accessRefused m none s1) 0x73 2 [])))) ∧
  (fieldOf p 0 1 = 3 →
    let d := sliceOf p 16 64
    (n = 16 → 80 ≤ p.length → descCheckOk false d = true → descReservedOk d = true →
      (bodyRanges d).all (rangeOk (jobStaged (.mgmt m (fieldOf p 4 4) src slice))) = true →
      Served (.mgmtDesc t) s (is { s1 with jobs := s.jobs ++ [{ src := .mgmt m (fieldOf p 4 4) src slice, desc := d }] })) ∧
    (n ≠ 16 ∨ p.length < 80 → Served (.mgmtDesc t) s (is (answer s1 0x73 1 []))))

/-- REGISTER_WRITE (16 R474, R475, R477, 12 R352, R370, R373, R375, R376, R390, 13 R408, 05 R165): an access of a wrong
size, alignment or place is refused as a bad access, with a NACK on I3C, whose offset word writes with bit 31 set and
four bytes and reads with bit 31 clear and none; HOST writes or reads 4 or 8 bytes with all byte enables, and a
refused read of HOST returns all ones; one to a die that cannot be reached is dropped and recorded; one to an offset
that no table names is ignored; one by another master than the owner is dropped and counted, but a master's own
mailbox takes its words; the owner's write of a window is kept within its bounds; PT_HOD_CTL takes none while a
rebuild runs; and HOST unmasks a pending vector in BAR2, which is then sent. -/
def Obligations.RegisterWritesChecked : Prop := ∀ (t m off rd x : Nat) (be : Bool) (bytes : List Byte) (s : State), (m = 1 ∨ m = 2) →
  off < 2 ^ 32 → rd ≤ 4096 → x < 2 ^ 32 →
  let a := off % 2 ^ 31
  let w := a / 0x800000
  let o := a % 0x800000
  let fits := a % 4 = 0 ∧ a < 0x40000000
  let whole := bytes.length = 4 ∧ fits ∧ (m = 1 → off < 2 ^ 31 ∧ be = true) ∧ (m = 2 → 2 ^ 31 ≤ off)
  let reads := bytes = [] ∧ fits ∧ off < 2 ^ 31 ∧ (m = 1 → rd = 4 ∧ be = true)
  let wide := m = 1 ∧ be = true ∧ off % 8 = 0 ∧ off < 0x40000000
  let double := wide ∧ bytes.length = 8
  let reads8 := wide ∧ bytes = [] ∧ rd = 8
  let bars := m = 1 ∧ be = true ∧ 0x40000000 ≤ off ∧ off < 0x40011000 ∧ off % 4 = 0 ∧ (bytes = [] ∧ rd = 4 ∨ bytes.length = 4)
  let value (s : State) (o : Nat) : State := (regRead m o s).2.emit (.value m o (BitVec.ofNat 32 (regRead m o s).1))
  let is (s2 s' : State) : Prop := s' = { s2 with pending := s.pending, now := max s.now t }
  (¬ whole → ¬ reads → ¬ double → ¬ reads8 → ¬ bars →
    Served (.registerWrite t m off bytes x rd be) s (fun s' =>
      (s'.master m).badAccess = true ∧ (s'.master m).accCount = satInc (s.master m).accCount ∧
      s'.sent = (if m = 2 then [.nack] else if bytes = [] then
        ((List.range ((rd + 3) / 4)).map (fun i => Sent.value 1 (off + 4 * i) 0xFFFFFFFF)).reverse else []) ++ s.sent ∧
      is { accessRefused m none (s.tick t) with sent := s'.sent } s')) ∧
  (reads → Served (.registerWrite t m off bytes x rd be) s
    (is (value (s.tick t) a))) ∧
  (reads8 → Served (.registerWrite t m off bytes x rd be) s (is (value (value (s.tick t) off) (off + 4)))) ∧
  (double → Served (.registerWrite t m off bytes x rd be) s
    (is (regWrite m (off + 4) (fieldOf bytes 4 4) x (regWrite m off (fieldOf bytes 0 4) x (s.tick t)).newCycle))) ∧
  (whole →
    (68 ≤ w ∨ (s.reachable w = true ∧ isNamed w o = false) → Served (.registerWrite t m off bytes x rd be) s (is s)) ∧
    (w < 68 → s.reachable w = false → Served (.registerWrite t m off bytes x rd be) s (fun s' =>
      s' = accessRefused m (some w) (s.tick t))) ∧
    (20 ≤ w → w < 68 → s.reachable w = true → isNamed w o = true → (s.tick t).mayWrite m = false →
      Served (.registerWrite t m off bytes x rd be) s (is (s.refuseWrite m))) ∧
    (w = 0 → 0x1200 ≤ o → o < 0x1240 → Served (.registerWrite t m off bytes x rd be) s (fun s' =>
      s'.master m = { s.master m with mboxDesc := memWrite 0 (s.master m).mboxDesc (o - 0x1200) bytes } ∧
      is { s with masters := s'.masters } s' ∧ ∀ q, q ≠ m → s'.master q = s.master q)) ∧
    (w = 1 → o = 0x9100 → s.isOwner m = true → Served (.registerWrite t m off bytes x rd be) s (fun s' =>
      s'.vent = { s.vent with windowUs := s'.vent.windowUs } ∧
      s'.vent.windowUs.toNat = max 10 (min 100000 (leNat bytes % 2 ^ 17)))) ∧
    (4 ≤ w → w < 20 → o = 0x9300 → s.reachable w = true → s.isOwner m = true → (s.tile (w - 4)).rebuild = true →
      Served (.registerWrite t m off bytes x rd be) s (is s))) ∧
  (∀ v, v < 2048 → bytes.length = 4 → m = 1 → be = true → s.boot.phase ≠ .bootHalt → off = 0x4000000C + 16 * v → leNat bytes % 2 = 0 →
    let e := tget ({} : MsixEntry) s.host.msix v
    Runs (.registerWrite t m off bytes x rd be) s (fun s' =>
      tget {} s'.host.msix v = { e with masked := false, pending := false } ∧ s'.rings = s.rings ∧ s'.masters = s.masters ∧
      (e.pending = true → e.masked = true → s.hostUp = true → s'.sent = .msix v :: s.sent) ∧
      (e.pending = false → s'.sent = s.sent)))

/-- KEY_INSTALL (15 R463, R464, R466, R467): a blob that unwraps under an open session, names the descriptor's target and
passes the checks installs the link key of its side in its phase with a counter of its own, the slice's memory key, or
the management key with its counters at 0; without an identity, in debug, or without an open session the key is
refused and no key changes; and a blob that unwraps moves the record sequence number of its session on, so that it
serves once. ATTEST and SPDM_HEARTBEAT_EXPIRY (15 R458 to R460): any master's request is answered and both join its
connection; without an identity, or where the response is longer than the buffer, the descriptor ends with
ATTEST_FAIL. A request that is not supported gets ERROR, one of another version than 1.3 too, and GET_VERSION names
1.3 alone; KEY_EXCHANGE starts a session, which FINISH opens and END_SESSION ends, while fewer than eight are there,
and ERROR SessionLimitExceeded else; a message of a session that does not authenticate gets ERROR; an HSS signature
over a digest signed before uses one leaf, written to both image store dies first, and another digest, or a failed
write, gets none; and a session whose heartbeat is late is closed, and no other. The codes are those of SPDM 1.3 (from
outside the spec, log entry 113), and what it leaves open is free (log entry 128). -/
def Obligations.KeysAndAttestation : Prop :=
  (∀ (t : Nat) (host : List Byte) (j : Job) (js : List Job) (s : State),
    s.NextJob 7 0 j js → j.readFails host = false →
    let blob := s.jobData j.src (fieldOf j.desc 16 8) (fieldOf j.desc 24 2) host
    let target := fieldOf j.desc 8 1
    let sel := fieldOf j.desc 9 1
    let unit := fieldOf j.desc 10 2
    let sess := s.trust.sessions.find? (fun x => x.id == fieldOf blob 0 4 && x.opened)
    let moved (se : Session) : Trust := { s.trust with
      sessions := s.trust.sessions.map (fun x => if x.id = se.id then { x with seqIn := x.seqIn + 1 } else x) }
    (s.trust.identityOk = false ∨ s.trust.debugOpen = true ∨ sess = none → Runs (.keyInstall t host) s (fun s' =>
      s'.jobs = js ∧ j.Reports 0x80 s' ∧ s'.keys = s.keys ∧ s'.trust = s.trust ∧
      ∀ m, (s'.master m).mgmtKey = (s.master m).mgmtKey)) ∧
    (∀ se, s.trust.identityOk = true → s.trust.debugOpen = false → sess = some se → Runs (.keyInstall t host) s (fun s' =>
      s'.jobs = js ∧ (Config.unwrap se.key se.seqIn blob = none → j.Reports 0x80 s' ∧ s'.keys = s.keys ∧ s'.trust = s.trust) ∧
      ∀ app, Config.unwrap se.key se.seqIn blob = some app →
        (fieldOf app 1 1 ≠ sel ∨ fieldOf app 2 2 ≠ unit ∨ fieldOf app 0 1 ≠ target →
          j.Reports 0x80 s' ∧ s'.keys = s.keys ∧ s'.trust = moved se) ∧
        (fieldOf j.desc 24 2 = Config.blobLen blob → app.length = 8 + (if target = 2 then 64 else 32) →
          fieldOf app 0 1 = target → fieldOf app 1 1 = sel → fieldOf app 2 2 = unit →
          (target = 1 → s.startsPort unit = true → bitOf sel 0 = false → bitOf sel 2 = false →
            ¬ ((s.portKeys unit).selTx = bitOf sel 1 ∧ ((s.portKeys unit).tx (bitOf sel 1)).key.isSome = true) →
            j.Reports 0x00 s' ∧ s'.trust = moved se ∧ (s'.portKeys unit).selTx = (s.portKeys unit).selTx ∧
            (s'.portKeys unit).tx (bitOf sel 1) = { key := some (BitVec.ofNat 256 (leNat (sliceOf app 8 32)))
                                                    salt := BitVec.ofNat 32 (fieldOf app 4 4), ctr := [] }) ∧
          (target = 1 → s.startsPort unit = true → bitOf sel 0 = true → bitOf sel 2 = false →
            j.Reports 0x00 s' ∧ s'.trust = moved se ∧ (s'.portKeys unit).selTx = (s.portKeys unit).selTx ∧
            (∀ ph, (s'.portKeys unit).tx ph = (s.portKeys unit).tx ph) ∧
            (s'.portKeys unit).rx (bitOf sel 1) = { key := some (BitVec.ofNat 256 (leNat (sliceOf app 8 32)))
                                                    salt := BitVec.ofNat 32 (fieldOf app 4 4), ctr := [] } ∧
            ((s.portKeys unit).oldRx = none →
              (s'.portKeys unit).oldRx = some (max s.now t, bitOf sel 1, (s.portKeys unit).rx (bitOf sel 1)))) ∧
          (target = 2 → unit < 256 → sel = 0 → fieldOf app 4 4 = 0 → (sliceOf app 8 64).take 32 ≠ (sliceOf app 8 64).drop 32 →
            s'.keys = s.keys ∧ (s.sliceHeld unit = false → j.Reports 0x00 s' ∧
              tget none s'.trust.sliceKeys unit = some (BitVec.ofNat 512 (leNat (sliceOf app 8 64)), true) ∧
              s'.trust.sessions = (moved se).sessions) ∧
            (s.sliceHeld unit = true → j.Reports 0x80 s' ∧ s'.trust = moved se)) ∧
          (target = 3 → unit < 4 → sel = 0 → fieldOf app 4 4 = 0 → j.Reports 0x00 s' ∧ s'.keys = s.keys ∧
            (s'.master (16 + unit)).mgmtKey = some (BitVec.ofNat 256 (leNat (sliceOf app 8 32))) ∧
            (s'.master (16 + unit)).mgmtRx = 0))))) ∧
  (∀ (t id : Nat) (host : List Byte) (j : Job) (js : List Job) (s : State),
    (s.clkStopped dieTD = false → j.readFails host = false → s.vent.inSafe = false → s.jobs = j :: js → jobIs 12 0 j = true → j.started = false →
      let m := jobMaster j.src
      let msg := s.jobData j.src (fieldOf j.desc 8 8) (fieldOf j.desc 16 4) host
      let cap := fieldOf j.desc 32 4
      let conn := (s.master m).conn
      let w := Config.freeWord s.freeIx
      let sess := s.trust.sessions.find? (fun x => x.id == fieldOf msg 0 4 && x.master == m)
      let code := fieldOf msg 1 1
      let supported := [0x84, 0xE1, 0xE3, 0x81, 0x82, 0x83, 0xE0, 0xE4, 0xE5, 0xFE, 0xE8, 0xE9, 0xEC]
      let good := 4 ≤ msg.length ∧ fieldOf msg 0 1 = 0x13 ∧ spdmSlot msg = 0 ∧ Config.spdmError conn none msg = none
      let does (f : State → Prop) : Prop := Runs (.attest t host false false) s (fun s' => s'.jobs = js ∧ f s')
      let tells (r : List Byte) (s' : State) : Prop := j.Reports 0x00 s' ∧ (s'.master m).conn = conn ++ [msg, r]
      let error (c d : Byte) (s' : State) : Prop := tells [0x13, 0x7F, c, d] s'
      let version := 4 ≤ msg.length ∧ fieldOf msg 0 1 = 0x10 ∧ code = 0x84 ∧ Config.spdmError conn none msg = none
      (s.trust.identityOk = false → does (fun s' => j.Reports 0x82 s' ∧ s'.trust = s.trust ∧ (s'.master m).conn = conn)) ∧
      (s.trust.identityOk = true → sess = none →
        (4 ≤ cap → 4 ≤ msg.length → code ∉ supported → does (fun s' => error 0x07 (BitVec.ofNat 8 code) s' ∧ s'.trust = s.trust)) ∧
        (4 ≤ cap → 4 ≤ msg.length → code ∈ supported → code ≠ 0x84 → fieldOf msg 0 1 ≠ 0x13 →
          does (fun s' => error 0x41 0 s' ∧ s'.trust = s.trust)) ∧
        (8 ≤ cap → version → does (fun s' => tells [0x10, 0x04, 0, 0, 0, 1, 0, 0x13] s' ∧ s'.trust = s.trust ∧ s'.freeIx = s.freeIx + 1)) ∧
        (cap < 8 → version → does (fun s' => j.Reports 0x82 s' ∧ (s'.master m).conn = conn ∧ s'.trust = s.trust)) ∧
        (good → code = 0xE4 → 8 ≤ s.trust.sessions.length → 4 ≤ cap → does (fun s' => error 0x0A 0 s' ∧ s'.trust = s.trust)) ∧
        (good → code = 0xE4 → s.trust.sessions.length < 8 →
          (spdmResponse (identityKey (s.trust.rootSecret.getD []), s.identityRecord) conn msg w s.trust.measurements none .keyExchange).length ≤ cap →
          does (fun s' => j.Reports 0x00 s' ∧ s'.trust.sessions = s.trust.sessions ++
            [{ id := s.trust.nextSession, master := m, key := (Config.spdmSession conn msg w).1, opened := false, seqIn := 0, seqOut := 0
               rspKey := (Config.spdmSession conn msg w).2.1, period := (Config.spdmSession conn msg w).2.2, lastAt := max s.now t }] ∧
            (s'.master m).digests = (Config.spdmDigest conn msg w :: (s.master m).digests).take 4)) ∧
        ∀ d, good → code = 0xFE → vendorHss msg = some d →
          (∀ rs, d ∈ (s.master m).digests → s.trust.rootSecret = some rs → s.trust.lmsOk = true → s.trust.lmsNext < 2 ^ 40 →
            does (fun s' => s'.trust.lmsNext = s.trust.lmsNext + 1 ∧
              ((hssAnswer (hssSign rs s.trust.lmsNext d)).length ≤ cap → tells (hssAnswer (hssSign rs s.trust.lmsNext d)) s')) ∧
            (4 ≤ cap → Runs (.attest t host true false) s (fun s' => s'.jobs = js ∧ error 0x05 0 s' ∧
              s'.trust.lmsNext = s.trust.lmsNext ∧ s'.is0.progErrors = satInc s.is0.progErrors))) ∧
          (d ∉ (s.master m).digests → 4 ≤ cap → does (fun s' => error 0x05 0 s' ∧ s'.trust = s.trust))) ∧
      (∀ se, s.trust.identityOk = true → sess = some se →
        (Config.unwrap se.key se.seqIn msg = none → 4 ≤ cap → does (fun s' => j.Reports 0x00 s' ∧
          (s'.master m).conn = conn ++ [[], [0x13, 0x7F, 0x06, 0]] ∧ s'.trust = s.trust)) ∧
        (∀ req, Config.unwrap se.key se.seqIn msg = some req → 4 ≤ req.length → fieldOf req 0 1 = 0x13 →
          Config.spdmError conn (some se.id) req = none →
          (fieldOf req 1 1 = 0xE5 → se.opened = false → (Config.wrap se.id se.rspKey se.seqOut [0x13, 0x65, 0, 0]).length ≤ cap →
            does (fun s' => (∃ x ∈ s'.trust.sessions, x.id = se.id ∧ x.master = m ∧ x.opened = true ∧ x.seqIn = 0 ∧ x.seqOut = 0) ∧
              (s'.master m).conn = conn ++ [req, [0x13, 0x65, 0, 0]])) ∧
          (fieldOf req 1 1 = 0xEC → se.opened = true → (Config.wrap se.id se.rspKey se.seqOut [0x13, 0x6C, 0, 0]).length ≤ cap →
            does (fun s' => (∀ x ∈ s'.trust.sessions, x.id ≠ se.id) ∧ s'.trust.measurements = s.trust.measurements))))) ∧
    Runs (.spdmHeartbeatExpiry t id) s (fun s' => ∀ x, x ∈ s'.trust.sessions ↔ x ∈ s.trust.sessions ∧
      ¬ (x.id = id ∧ x.period ≠ 0 ∧ x.lastAt + x.period * 1000000000 ≤ max s.now t)))

/-- IS_UPD_WRITE, SEAL, ERASE and IS_UPD_COMPLETE (15 R469, R471): the owner's request starts with go, and its die is busy
where it programs or erases; an accepted WRITE puts the staged bytes in its copy and leaves the other; a SEAL of a
region that does not verify erases it; a SEAL of an operator key record that verifies lets it take effect and changes
no byte; an ERASE leaves every byte 0xFF; a request out of range changes no byte; a write while one runs reads BUSY;
another master's is refused; and completion posts the result, VERIFY_FAIL where the read-back of what was programmed
or erased failed, which counts in prog_errors. DEBUG_APPLY (15 R467, R470): a token that is signed, is for this
package and answers its nonce opens debug in its scopes and clears every link, slice and management key and every
session, and with OPERATOR_RESET erases the operator key record of both copies and clears its measurement; another
token only gives its result; and in BOOT_HALT BMC alone may apply one. -/
def Obligations.UpdatesAndDebug : Prop :=
  (∀ (t m region off len e : Nat) (b good badA badB : Bool) (s : State), isMaster m = true →
    region < 32 → off < 2 ^ 32 → len < 2 ^ 21 → e < 2 ^ 32 →
    let byte (s : State) (b : Bool) (a : Nat) : Byte := tget 0xFF (s.flash b) a
    let data := memRead 0 s.trust.staging 0 len
    let busy (s : State) (c : Bool) : Bool := if c then s.is1.busy else s.is0.busy
    let started (res : BitVec 4) (changes : Bool) (s' : State) : Prop := s'.trust.upd.go = true ∧ s'.trust.upd.pendingResult = res ∧
      s'.flash (!b) = s.flash (!b) ∧ busy s' b = (changes || busy s b) ∧ busy s' (!b) = busy s (!b)
    (s.boot.phase ≠ .bootHalt → s.isOwner m = true → s.trust.upd.go = false →
      (∀ base size, regionOf region = some (base, size) →
        (s.writeResult region b off len data = 1 → Served (.isUpdWrite t m b region off len) s (fun s' => started 1 true s' ∧
          memRead 0xFF (s'.flash b) (base + off) len = data ∧
          ∀ a, a < base + off ∨ base + off + len ≤ a → byte s' b a = byte s b a)) ∧
        (off % 4096 ≠ 0 ∨ len = 0 ∨ size < off + len → Served (.isUpdWrite t m b region off len) s (fun s' => started 6 false s' ∧
          s'.flash b = s.flash b)) ∧
        (s.sealResult region b = 1 → Served (.seal t m b region) s (fun s' => started 1 false s' ∧ s'.flash b = s.flash b ∧
          (region = 0x12 → s'.opSealed b = true))) ∧
        (s.regionOk region b = false → Served (.seal t m b region) s (fun s' => started 4 true s' ∧
          (∀ a, base ≤ a → a < base + size → byte s' b a = 0xFF) ∧
          ∀ a, a < base ∨ base + size ≤ a → byte s' b a = byte s b a)) ∧
        (s.otherCopyOk region b = true → Served (.erase t m b region) s (fun s' => started 1 true s' ∧ (region = 0x12 → s'.opSealed b = false) ∧
          (∀ a, base ≤ a → a < base + size → byte s' b a = 0xFF) ∧
          ∀ a, a < base ∨ base + size ≤ a → byte s' b a = byte s b a)) ∧
        (s.otherCopyOk region b = false → Served (.erase t m b region) s (fun s' => started 3 false s' ∧
          s'.flash b = s.flash b)))) ∧
    (s.boot.phase ≠ .bootHalt → s.isOwner m = true → s.trust.upd.go = true →
      ∀ i ∈ [Instr.isUpdWrite t m b region off len, .seal t m b region, .erase t m b region], Served i s (fun s' =>
        s' = { s with now := max s.now t, trust := { s.trust with upd := { s.trust.upd with result := 2 } } })) ∧
    (s.boot.phase ≠ .bootHalt → (s.tick t).mayWrite m = false →
      ∀ i ∈ [Instr.isUpdWrite t m b region off len, .seal t m b region, .erase t m b region,  .debugApply t m badA badB], Served i s (fun s' =>
        s' = { s.refuseWrite m with now := max s.now t })) ∧
    (s.trust.upd.go = true → Runs (.isUpdComplete t good e) s (fun s' =>
      s'.trust.upd = { s.trust.upd with
        go := false, result := if s.trust.upd.pendingResult = 1 ∧ good = false ∧ busy s s.trust.upd.copyB = true then 4 else s.trust.upd.pendingResult } ∧
      busy s' s.trust.upd.copyB = false ∧ (∀ c, s'.flash c = s.flash c) ∧
      (s.trust.upd.copyB = false → s'.is0.progErrors = if good = false ∧ s.is0.busy = true then satInc s.is0.progErrors else s.is0.progErrors))) ∧
    (s.trust.upd.go = false → Runs (.isUpdComplete t good e) s (fun s' => s' = { s with now := max s.now t }))) ∧
  (∀ (t m : Nat) (badA badB : Bool) (s : State), isMaster m = true →
    let tok := memRead 0 s.trust.staging 0 3832
    let scope := s.trust.scope ||| BitVec.ofNat 3 (fieldOf tok 4 4)
    let halt := s.boot.phase = .bootHalt
    (halt ∧ m = 2 ∨ ¬ halt ∧ s.isOwner m = true → Served (.debugApply t m badA badB) s (fun s' =>
      (s.tokenResult tok = 1 → s'.trust.debugOpen = true ∧ s'.trust.scope = scope ∧ s'.trust.debugResult = 1 ∧
        s'.trust.sessions = [] ∧ s'.trust.sliceKeys = [] ∧ (∀ p, (s'.portKeys p).selTx = (s.portKeys p).selTx ∧
          ∀ ph, ((s'.portKeys p).tx ph).key = none ∧ ((s'.portKeys p).rx ph).key = none) ∧
        (∀ q, (s'.master q).mgmtKey = none) ∧ tget [] s'.trust.measurements 10 = leBytes 4 scope.toNat ∧
        (bitOf (fieldOf tok 4 4) 2 = true → s'.trust.opRec = [] ∧ tget [] s'.trust.measurements 9 = zeros 48 ∧
          (∀ b, s'.opSealed b = false) ∧ (badA = false → ∀ a, 0x4000 ≤ a → a < 0x5000 → tget 0xFF (s'.flash false) a = 0xFF) ∧
          (badB = false → ∀ a, 0x4000 ≤ a → a < 0x5000 → tget 0xFF (s'.flash true) a = 0xFF))) ∧
      (s.tokenResult tok ≠ 1 → s' = { s with now := max s.now t, trust := { s.trust with
        debugResult := BitVec.ofNat 4 (s.tokenResult tok) } }))) ∧
    (halt ∧ m ≠ 2 ∨ ¬ halt ∧ (s.tick t).mayWrite m = false → Served (.debugApply t m badA badB) s (fun s' => s' = { s.refuseWrite m with now := max s.now t })))
end

