-- ==== Sys2Proof/Laws/Tab.lean ====
section
/-! SUPPORT. The laws of sparse tables: what a read gives after a write, and that every write keeps the
canonical form. -/

namespace Sys2Proof

variable {α : Type}

theorem tget_tdel (d : α) (t : Tab α) (k j : Nat) :
    tget d (tdel t k) j = if j = k then d else tget d t j := by
  induction t with
  | nil => simp [tdel, tget]
  | cons a t ih =>
    obtain ⟨i, v⟩ := a
    by_cases e : i = k
    · subst e
      by_cases e2 : j = i
      · subst e2; simpa [tdel] using ih
      · simp [tdel, tget, ih, e2, Ne.symm e2]
    · by_cases e2 : i = j
      · subst e2; simp [tdel, tget, e]
      · simp [tdel, tget, e, e2, ih]

theorem tget_tput (d : α) (t : Tab α) (k j : Nat) (v : α) :
    tget d (tput t k v) j = if j = k then v else tget d t j := by
  induction t with
  | nil => simp [tput, tget, eq_comm]
  | cons a t ih =>
    obtain ⟨i, w⟩ := a
    by_cases h1 : k < i
    · simp [tput, h1, tget, eq_comm]
    · by_cases h2 : k = i
      · subst h2
        by_cases e : k = j
        · simp [tput, tget, e]
        · simp [tput, tget, e, Ne.symm e]
      · by_cases e : i = j
        · subst e; simp [tput, tget, h1, h2, Ne.symm h2]
        · simp [tput, tget, h1, h2, e, ih]

variable [DecidableEq α]

/-- A read after a write. -/
@[simp] theorem tget_tset (d : α) (t : Tab α) (k j : Nat) (v : α) :
    tget d (tset d t k v) j = if j = k then v else tget d t j := by
  unfold tset
  split
  · rename_i h; rw [tget_tdel, h]
  · rw [tget_tput]

@[simp] theorem tget_tmod (d : α) (t : Tab α) (k j : Nat) (f : α → α) :
    tget d (tmod d t k f) j = if j = k then f (tget d t k) else tget d t j := by
  simp [tmod]

theorem tabWfFrom_mono (d : α) (t : Tab α) (lo hi : Nat) (h : lo ≤ hi) (w : tabWfFrom d hi t = true) :
    tabWfFrom d lo t = true := by
  cases t with
  | nil => rfl
  | cons a t => simp [tabWfFrom] at w ⊢; exact ⟨⟨by omega, w.1.2⟩, w.2⟩

theorem tabWfFrom_tdel (d : α) (t : Tab α) (lo k : Nat) (w : tabWfFrom d lo t = true) :
    tabWfFrom d lo (tdel t k) = true := by
  induction t generalizing lo with
  | nil => rfl
  | cons a t ih =>
    obtain ⟨i, v⟩ := a
    simp [tabWfFrom] at w
    by_cases e : i = k
    · simp only [tdel, e, if_true]
      exact tabWfFrom_mono d _ _ _ (by omega) (ih _ w.2)
    · simp [tdel, e, tabWfFrom, w.1, ih _ w.2]

theorem tabWfFrom_tput (d : α) (t : Tab α) (lo k : Nat) (v : α) (hv : v ≠ d) (hk : lo ≤ k)
    (w : tabWfFrom d lo t = true) : tabWfFrom d lo (tput t k v) = true := by
  induction t generalizing lo with
  | nil => simp [tput, tabWfFrom, hv, hk]
  | cons a t ih =>
    obtain ⟨i, x⟩ := a
    simp [tabWfFrom] at w
    by_cases h1 : k < i
    · simp [tput, h1, Nat.succ_le_of_lt h1, tabWfFrom, hv, hk, w.1.2, w.2]
    · by_cases h2 : k = i
      · subst h2; simp [tput, tabWfFrom, hv, hk, w.2]
      · simp [tput, h1, h2, tabWfFrom, w.1]
        exact ih _ (by omega) w.2

/-- A write keeps the canonical form. -/
theorem tabWf_tset (d : α) (t : Tab α) (k : Nat) (v : α) (w : tabWf d t = true) :
    tabWf d (tset d t k v) = true := by
  unfold tabWf at *
  unfold tset
  split
  · exact tabWfFrom_tdel d t 0 k w
  · rename_i h; exact tabWfFrom_tput d t 0 k v h (by omega) w

theorem tabWf_tmod (d : α) (t : Tab α) (k : Nat) (f : α → α) (w : tabWf d t = true) :
    tabWf d (tmod d t k f) = true := tabWf_tset d t k _ w

theorem tabWf_tupd (d : α) (t : Tab α) (ks : List Nat) (f : Nat → α → α) (w : tabWf d t = true) :
    tabWf d (tupd d t ks f) = true := by
  unfold tupd
  induction ks generalizing t with
  | nil => exact w
  | cons k ks ih => exact ih _ (tabWf_tmod d t k _ w)

theorem tabWf_tmap (d : α) (t : Tab α) (f : Nat → α → α) (w : tabWf d t = true) :
    tabWf d (tmap d f t) = true := tabWf_tupd d t _ f w

/-- A write of bytes keeps the canonical form of a memory. -/
theorem memory_wf_memWrite (d : Byte) (m : Mem) (a : Nat) (bs : List Byte) (w : Memory.wf d m = true) :
    Memory.wf d (memWrite d m a bs) = true := by
  induction bs generalizing m a with
  | nil => exact w
  | cons b bs ih => exact ih _ _ (tabWf_tset d m a b w)

/-- A byte outside the bytes written reads as before. -/
theorem tget_memWrite_outside (d : Byte) (m : Mem) (a x : Nat) (bs : List Byte)
    (h : x < a ∨ a + bs.length ≤ x) : tget d (memWrite d m a bs) x = tget d m x := by
  induction bs generalizing m a with
  | nil => rfl
  | cons b bs ih =>
    simp only [List.length_cons] at h
    rw [memWrite, ih _ _ (by omega), tget_tset, if_neg (by omega)]

/-- A byte inside the bytes written reads as written. -/
theorem tget_memWrite_inside (d : Byte) (m : Mem) (a i : Nat) (bs : List Byte) (h : i < bs.length) :
    tget d (memWrite d m a bs) (a + i) = bs[i] := by
  induction bs generalizing m a i with
  | nil => simp at h
  | cons b bs ih =>
    cases i with
    | zero =>
      rw [memWrite, tget_memWrite_outside d _ _ _ bs (by omega)]; simp
    | succ i =>
      have := ih (tset d m a b) (a + 1) i (by simpa using h)
      simp only [memWrite, List.getElem_cons_succ]
      rw [← this]; congr 1; omega

end Sys2Proof
end

