-- ==== Sys2Proof/Laws/State.lean ====
section
/-! SUPPORT. What a read of the state gives after each of its updates: for every table, the entry changed and
the other entries; and for every update, that every other field stays as it is. -/

namespace Sys2Proof.Machine

@[simp] theorem State.modDie_die (s : State) (k j : Nat) (f : Die → Die) :
    (s.modDie k f).die j = if j = k then f (s.die k) else s.die j := by
  simp only [State.die, State.modDie, tget_tmod]

@[simp] theorem State.modDie_frame (s : State) (k : Nat) (f : Die → Die) :
    (s.modDie k f).pending = s.pending ∧ (s.modDie k f).now = s.now ∧ (s.modDie k f).freeIx = s.freeIx ∧
    (s.modDie k f).nextId = s.nextId ∧ (s.modDie k f).sent = s.sent ∧ (s.modDie k f).pins = s.pins ∧
    (s.modDie k f).float = s.float ∧ (s.modDie k f).boot = s.boot ∧ (s.modDie k f).rstCtl = s.rstCtl ∧
    (s.modDie k f).rstStatus = s.rstStatus ∧ (s.modDie k f).therm = s.therm ∧ (s.modDie k f).vent = s.vent ∧
    (s.modDie k f).pkg = s.pkg ∧ (s.modDie k f).laneDies = s.laneDies ∧ (s.modDie k f).lanes = s.lanes ∧
    (s.modDie k f).ports = s.ports ∧ (s.modDie k f).routing = s.routing ∧ (s.modDie k f).inPkts = s.inPkts ∧
    (s.modDie k f).pktCnt = s.pktCnt ∧ (s.modDie k f).portCfg = s.portCfg ∧ (s.modDie k f).keys = s.keys ∧
    (s.modDie k f).fabric = s.fabric ∧ (s.modDie k f).tiles = s.tiles ∧ (s.modDie k f).admitted = s.admitted
    ∧ (s.modDie k f).hodPort = s.hodPort ∧ (s.modDie k f).portCnt = s.portCnt ∧ (s.modDie k f).sched =
    s.sched ∧ (s.modDie k f).fqCfg = s.fqCfg ∧ (s.modDie k f).fqRun = s.fqRun ∧ (s.modDie k f).calSh =
    s.calSh ∧ (s.modDie k f).out = s.out ∧ (s.modDie k f).calderas = s.calderas ∧ (s.modDie k f).engines =
    s.engines ∧ (s.modDie k f).engMap = s.engMap ∧ (s.modDie k f).copyMap = s.copyMap ∧ (s.modDie k
    f).copyPlans = s.copyPlans ∧ (s.modDie k f).groups = s.groups ∧ (s.modDie k f).invs = s.invs ∧ (s.modDie
    k f).counters = s.counters ∧ (s.modDie k f).xlat = s.xlat ∧ (s.modDie k f).signals = s.signals ∧
    (s.modDie k f).ftc = s.ftc ∧ (s.modDie k f).ndetSlice = s.ndetSlice ∧ (s.modDie k f).mgmtIn = s.mgmtIn ∧
    (s.modDie k f).reports = s.reports ∧ (s.modDie k f).host = s.host ∧ (s.modDie k f).rings = s.rings ∧
    (s.modDie k f).jobs = s.jobs ∧ (s.modDie k f).masters = s.masters ∧ (s.modDie k f).own = s.own ∧
    (s.modDie k f).recov = s.recov ∧ (s.modDie k f).trust = s.trust ∧ (s.modDie k f).is0 = s.is0 ∧ (s.modDie
    k f).is1 = s.is1 ∧ (s.modDie k f).setAt = s.setAt := by
  simp only [State.modDie, and_self]

@[simp] theorem State.modLaneDie_laneDie (s : State) (k j : Nat) (f : LaneDie → LaneDie) :
    (s.modLaneDie k f).laneDie j = if j = k then f (s.laneDie k) else s.laneDie j := by
  simp only [State.laneDie, State.modLaneDie, tget_tmod]

@[simp] theorem State.modLaneDie_frame (s : State) (k : Nat) (f : LaneDie → LaneDie) :
    (s.modLaneDie k f).pending = s.pending ∧ (s.modLaneDie k f).now = s.now ∧ (s.modLaneDie k f).freeIx =
    s.freeIx ∧ (s.modLaneDie k f).nextId = s.nextId ∧ (s.modLaneDie k f).sent = s.sent ∧ (s.modLaneDie k
    f).pins = s.pins ∧ (s.modLaneDie k f).float = s.float ∧ (s.modLaneDie k f).boot = s.boot ∧ (s.modLaneDie
    k f).rstCtl = s.rstCtl ∧ (s.modLaneDie k f).rstStatus = s.rstStatus ∧ (s.modLaneDie k f).therm = s.therm
    ∧ (s.modLaneDie k f).vent = s.vent ∧ (s.modLaneDie k f).pkg = s.pkg ∧ (s.modLaneDie k f).dies = s.dies ∧
    (s.modLaneDie k f).lanes = s.lanes ∧ (s.modLaneDie k f).ports = s.ports ∧ (s.modLaneDie k f).routing =
    s.routing ∧ (s.modLaneDie k f).inPkts = s.inPkts ∧ (s.modLaneDie k f).pktCnt = s.pktCnt ∧ (s.modLaneDie
    k f).portCfg = s.portCfg ∧ (s.modLaneDie k f).keys = s.keys ∧ (s.modLaneDie k f).fabric = s.fabric ∧
    (s.modLaneDie k f).tiles = s.tiles ∧ (s.modLaneDie k f).admitted = s.admitted ∧ (s.modLaneDie k
    f).hodPort = s.hodPort ∧ (s.modLaneDie k f).portCnt = s.portCnt ∧ (s.modLaneDie k f).sched = s.sched ∧
    (s.modLaneDie k f).fqCfg = s.fqCfg ∧ (s.modLaneDie k f).fqRun = s.fqRun ∧ (s.modLaneDie k f).calSh =
    s.calSh ∧ (s.modLaneDie k f).out = s.out ∧ (s.modLaneDie k f).calderas = s.calderas ∧ (s.modLaneDie k
    f).engines = s.engines ∧ (s.modLaneDie k f).engMap = s.engMap ∧ (s.modLaneDie k f).copyMap = s.copyMap ∧
    (s.modLaneDie k f).copyPlans = s.copyPlans ∧ (s.modLaneDie k f).groups = s.groups ∧ (s.modLaneDie k
    f).invs = s.invs ∧ (s.modLaneDie k f).counters = s.counters ∧ (s.modLaneDie k f).xlat = s.xlat ∧
    (s.modLaneDie k f).signals = s.signals ∧ (s.modLaneDie k f).ftc = s.ftc ∧ (s.modLaneDie k f).ndetSlice =
    s.ndetSlice ∧ (s.modLaneDie k f).mgmtIn = s.mgmtIn ∧ (s.modLaneDie k f).reports = s.reports ∧
    (s.modLaneDie k f).host = s.host ∧ (s.modLaneDie k f).rings = s.rings ∧ (s.modLaneDie k f).jobs = s.jobs
    ∧ (s.modLaneDie k f).masters = s.masters ∧ (s.modLaneDie k f).own = s.own ∧ (s.modLaneDie k f).recov =
    s.recov ∧ (s.modLaneDie k f).trust = s.trust ∧ (s.modLaneDie k f).is0 = s.is0 ∧ (s.modLaneDie k f).is1 =
    s.is1 ∧ (s.modLaneDie k f).setAt = s.setAt := by
  simp only [State.modLaneDie, and_self]

@[simp] theorem State.modLane_lane (s : State) (k j : Nat) (f : Lane → Lane) :
    (s.modLane k f).lane j = if j = k then f (s.lane k) else s.lane j := by
  simp only [State.lane, State.modLane, tget_tmod]

@[simp] theorem State.modLane_frame (s : State) (k : Nat) (f : Lane → Lane) :
    (s.modLane k f).pending = s.pending ∧ (s.modLane k f).now = s.now ∧ (s.modLane k f).freeIx = s.freeIx ∧
    (s.modLane k f).nextId = s.nextId ∧ (s.modLane k f).sent = s.sent ∧ (s.modLane k f).pins = s.pins ∧
    (s.modLane k f).float = s.float ∧ (s.modLane k f).boot = s.boot ∧ (s.modLane k f).rstCtl = s.rstCtl ∧
    (s.modLane k f).rstStatus = s.rstStatus ∧ (s.modLane k f).therm = s.therm ∧ (s.modLane k f).vent =
    s.vent ∧ (s.modLane k f).pkg = s.pkg ∧ (s.modLane k f).dies = s.dies ∧ (s.modLane k f).laneDies =
    s.laneDies ∧ (s.modLane k f).ports = s.ports ∧ (s.modLane k f).routing = s.routing ∧ (s.modLane k
    f).inPkts = s.inPkts ∧ (s.modLane k f).pktCnt = s.pktCnt ∧ (s.modLane k f).portCfg = s.portCfg ∧
    (s.modLane k f).keys = s.keys ∧ (s.modLane k f).fabric = s.fabric ∧ (s.modLane k f).tiles = s.tiles ∧
    (s.modLane k f).admitted = s.admitted ∧ (s.modLane k f).hodPort = s.hodPort ∧ (s.modLane k f).portCnt =
    s.portCnt ∧ (s.modLane k f).sched = s.sched ∧ (s.modLane k f).fqCfg = s.fqCfg ∧ (s.modLane k f).fqRun =
    s.fqRun ∧ (s.modLane k f).calSh = s.calSh ∧ (s.modLane k f).out = s.out ∧ (s.modLane k f).calderas =
    s.calderas ∧ (s.modLane k f).engines = s.engines ∧ (s.modLane k f).engMap = s.engMap ∧ (s.modLane k
    f).copyMap = s.copyMap ∧ (s.modLane k f).copyPlans = s.copyPlans ∧ (s.modLane k f).groups = s.groups ∧
    (s.modLane k f).invs = s.invs ∧ (s.modLane k f).counters = s.counters ∧ (s.modLane k f).xlat = s.xlat ∧
    (s.modLane k f).signals = s.signals ∧ (s.modLane k f).ftc = s.ftc ∧ (s.modLane k f).ndetSlice =
    s.ndetSlice ∧ (s.modLane k f).mgmtIn = s.mgmtIn ∧ (s.modLane k f).reports = s.reports ∧ (s.modLane k
    f).host = s.host ∧ (s.modLane k f).rings = s.rings ∧ (s.modLane k f).jobs = s.jobs ∧ (s.modLane k
    f).masters = s.masters ∧ (s.modLane k f).own = s.own ∧ (s.modLane k f).recov = s.recov ∧ (s.modLane k
    f).trust = s.trust ∧ (s.modLane k f).is0 = s.is0 ∧ (s.modLane k f).is1 = s.is1 ∧ (s.modLane k f).setAt =
    s.setAt := by
  simp only [State.modLane, and_self]

@[simp] theorem State.modPort_port (s : State) (k j : Nat) (f : Port → Port) :
    (s.modPort k f).port j = if j = k then f (s.port k) else s.port j := by
  simp only [State.port, State.modPort, tget_tmod]

@[simp] theorem State.modPort_frame (s : State) (k : Nat) (f : Port → Port) :
    (s.modPort k f).pending = s.pending ∧ (s.modPort k f).now = s.now ∧ (s.modPort k f).freeIx = s.freeIx ∧
    (s.modPort k f).nextId = s.nextId ∧ (s.modPort k f).sent = s.sent ∧ (s.modPort k f).pins = s.pins ∧
    (s.modPort k f).float = s.float ∧ (s.modPort k f).boot = s.boot ∧ (s.modPort k f).rstCtl = s.rstCtl ∧
    (s.modPort k f).rstStatus = s.rstStatus ∧ (s.modPort k f).therm = s.therm ∧ (s.modPort k f).vent =
    s.vent ∧ (s.modPort k f).pkg = s.pkg ∧ (s.modPort k f).dies = s.dies ∧ (s.modPort k f).laneDies =
    s.laneDies ∧ (s.modPort k f).lanes = s.lanes ∧ (s.modPort k f).routing = s.routing ∧ (s.modPort k
    f).inPkts = s.inPkts ∧ (s.modPort k f).pktCnt = s.pktCnt ∧ (s.modPort k f).portCfg = s.portCfg ∧
    (s.modPort k f).keys = s.keys ∧ (s.modPort k f).fabric = s.fabric ∧ (s.modPort k f).tiles = s.tiles ∧
    (s.modPort k f).admitted = s.admitted ∧ (s.modPort k f).hodPort = s.hodPort ∧ (s.modPort k f).portCnt =
    s.portCnt ∧ (s.modPort k f).sched = s.sched ∧ (s.modPort k f).fqCfg = s.fqCfg ∧ (s.modPort k f).fqRun =
    s.fqRun ∧ (s.modPort k f).calSh = s.calSh ∧ (s.modPort k f).out = s.out ∧ (s.modPort k f).calderas =
    s.calderas ∧ (s.modPort k f).engines = s.engines ∧ (s.modPort k f).engMap = s.engMap ∧ (s.modPort k
    f).copyMap = s.copyMap ∧ (s.modPort k f).copyPlans = s.copyPlans ∧ (s.modPort k f).groups = s.groups ∧
    (s.modPort k f).invs = s.invs ∧ (s.modPort k f).counters = s.counters ∧ (s.modPort k f).xlat = s.xlat ∧
    (s.modPort k f).signals = s.signals ∧ (s.modPort k f).ftc = s.ftc ∧ (s.modPort k f).ndetSlice =
    s.ndetSlice ∧ (s.modPort k f).mgmtIn = s.mgmtIn ∧ (s.modPort k f).reports = s.reports ∧ (s.modPort k
    f).host = s.host ∧ (s.modPort k f).rings = s.rings ∧ (s.modPort k f).jobs = s.jobs ∧ (s.modPort k
    f).masters = s.masters ∧ (s.modPort k f).own = s.own ∧ (s.modPort k f).recov = s.recov ∧ (s.modPort k
    f).trust = s.trust ∧ (s.modPort k f).is0 = s.is0 ∧ (s.modPort k f).is1 = s.is1 ∧ (s.modPort k f).setAt =
    s.setAt := by
  simp only [State.modPort, and_self]

@[simp] theorem State.modInPkt_inPkt (s : State) (k j : Nat) (f : Option InPkt → Option InPkt) :
    (s.modInPkt k f).inPkt j = if j = k then f (s.inPkt k) else s.inPkt j := by
  simp only [State.inPkt, State.modInPkt, tget_tmod]

@[simp] theorem State.modInPkt_frame (s : State) (k : Nat) (f : Option InPkt → Option InPkt) :
    (s.modInPkt k f).pending = s.pending ∧ (s.modInPkt k f).now = s.now ∧ (s.modInPkt k f).freeIx = s.freeIx
    ∧ (s.modInPkt k f).nextId = s.nextId ∧ (s.modInPkt k f).sent = s.sent ∧ (s.modInPkt k f).pins = s.pins ∧
    (s.modInPkt k f).float = s.float ∧ (s.modInPkt k f).boot = s.boot ∧ (s.modInPkt k f).rstCtl = s.rstCtl ∧
    (s.modInPkt k f).rstStatus = s.rstStatus ∧ (s.modInPkt k f).therm = s.therm ∧ (s.modInPkt k f).vent =
    s.vent ∧ (s.modInPkt k f).pkg = s.pkg ∧ (s.modInPkt k f).dies = s.dies ∧ (s.modInPkt k f).laneDies =
    s.laneDies ∧ (s.modInPkt k f).lanes = s.lanes ∧ (s.modInPkt k f).ports = s.ports ∧ (s.modInPkt k
    f).routing = s.routing ∧ (s.modInPkt k f).pktCnt = s.pktCnt ∧ (s.modInPkt k f).portCfg = s.portCfg ∧
    (s.modInPkt k f).keys = s.keys ∧ (s.modInPkt k f).fabric = s.fabric ∧ (s.modInPkt k f).tiles = s.tiles ∧
    (s.modInPkt k f).admitted = s.admitted ∧ (s.modInPkt k f).hodPort = s.hodPort ∧ (s.modInPkt k f).portCnt
    = s.portCnt ∧ (s.modInPkt k f).sched = s.sched ∧ (s.modInPkt k f).fqCfg = s.fqCfg ∧ (s.modInPkt k
    f).fqRun = s.fqRun ∧ (s.modInPkt k f).calSh = s.calSh ∧ (s.modInPkt k f).out = s.out ∧ (s.modInPkt k
    f).calderas = s.calderas ∧ (s.modInPkt k f).engines = s.engines ∧ (s.modInPkt k f).engMap = s.engMap ∧
    (s.modInPkt k f).copyMap = s.copyMap ∧ (s.modInPkt k f).copyPlans = s.copyPlans ∧ (s.modInPkt k
    f).groups = s.groups ∧ (s.modInPkt k f).invs = s.invs ∧ (s.modInPkt k f).counters = s.counters ∧
    (s.modInPkt k f).xlat = s.xlat ∧ (s.modInPkt k f).signals = s.signals ∧ (s.modInPkt k f).ftc = s.ftc ∧
    (s.modInPkt k f).ndetSlice = s.ndetSlice ∧ (s.modInPkt k f).mgmtIn = s.mgmtIn ∧ (s.modInPkt k f).reports
    = s.reports ∧ (s.modInPkt k f).host = s.host ∧ (s.modInPkt k f).rings = s.rings ∧ (s.modInPkt k f).jobs
    = s.jobs ∧ (s.modInPkt k f).masters = s.masters ∧ (s.modInPkt k f).own = s.own ∧ (s.modInPkt k f).recov
    = s.recov ∧ (s.modInPkt k f).trust = s.trust ∧ (s.modInPkt k f).is0 = s.is0 ∧ (s.modInPkt k f).is1 =
    s.is1 ∧ (s.modInPkt k f).setAt = s.setAt := by
  simp only [State.modInPkt, and_self]

@[simp] theorem State.modPktCntOf_pktCntOf (s : State) (k j : Nat) (f : PktCnt → PktCnt) :
    (s.modPktCntOf k f).pktCntOf j = if j = k then f (s.pktCntOf k) else s.pktCntOf j := by
  simp only [State.pktCntOf, State.modPktCntOf, tget_tmod]

@[simp] theorem State.modPktCntOf_frame (s : State) (k : Nat) (f : PktCnt → PktCnt) :
    (s.modPktCntOf k f).pending = s.pending ∧ (s.modPktCntOf k f).now = s.now ∧ (s.modPktCntOf k f).freeIx =
    s.freeIx ∧ (s.modPktCntOf k f).nextId = s.nextId ∧ (s.modPktCntOf k f).sent = s.sent ∧ (s.modPktCntOf k
    f).pins = s.pins ∧ (s.modPktCntOf k f).float = s.float ∧ (s.modPktCntOf k f).boot = s.boot ∧
    (s.modPktCntOf k f).rstCtl = s.rstCtl ∧ (s.modPktCntOf k f).rstStatus = s.rstStatus ∧ (s.modPktCntOf k
    f).therm = s.therm ∧ (s.modPktCntOf k f).vent = s.vent ∧ (s.modPktCntOf k f).pkg = s.pkg ∧
    (s.modPktCntOf k f).dies = s.dies ∧ (s.modPktCntOf k f).laneDies = s.laneDies ∧ (s.modPktCntOf k
    f).lanes = s.lanes ∧ (s.modPktCntOf k f).ports = s.ports ∧ (s.modPktCntOf k f).routing = s.routing ∧
    (s.modPktCntOf k f).inPkts = s.inPkts ∧ (s.modPktCntOf k f).portCfg = s.portCfg ∧ (s.modPktCntOf k
    f).keys = s.keys ∧ (s.modPktCntOf k f).fabric = s.fabric ∧ (s.modPktCntOf k f).tiles = s.tiles ∧
    (s.modPktCntOf k f).admitted = s.admitted ∧ (s.modPktCntOf k f).hodPort = s.hodPort ∧ (s.modPktCntOf k
    f).portCnt = s.portCnt ∧ (s.modPktCntOf k f).sched = s.sched ∧ (s.modPktCntOf k f).fqCfg = s.fqCfg ∧
    (s.modPktCntOf k f).fqRun = s.fqRun ∧ (s.modPktCntOf k f).calSh = s.calSh ∧ (s.modPktCntOf k f).out =
    s.out ∧ (s.modPktCntOf k f).calderas = s.calderas ∧ (s.modPktCntOf k f).engines = s.engines ∧
    (s.modPktCntOf k f).engMap = s.engMap ∧ (s.modPktCntOf k f).copyMap = s.copyMap ∧ (s.modPktCntOf k
    f).copyPlans = s.copyPlans ∧ (s.modPktCntOf k f).groups = s.groups ∧ (s.modPktCntOf k f).invs = s.invs ∧
    (s.modPktCntOf k f).counters = s.counters ∧ (s.modPktCntOf k f).xlat = s.xlat ∧ (s.modPktCntOf k
    f).signals = s.signals ∧ (s.modPktCntOf k f).ftc = s.ftc ∧ (s.modPktCntOf k f).ndetSlice = s.ndetSlice ∧
    (s.modPktCntOf k f).mgmtIn = s.mgmtIn ∧ (s.modPktCntOf k f).reports = s.reports ∧ (s.modPktCntOf k
    f).host = s.host ∧ (s.modPktCntOf k f).rings = s.rings ∧ (s.modPktCntOf k f).jobs = s.jobs ∧
    (s.modPktCntOf k f).masters = s.masters ∧ (s.modPktCntOf k f).own = s.own ∧ (s.modPktCntOf k f).recov =
    s.recov ∧ (s.modPktCntOf k f).trust = s.trust ∧ (s.modPktCntOf k f).is0 = s.is0 ∧ (s.modPktCntOf k
    f).is1 = s.is1 ∧ (s.modPktCntOf k f).setAt = s.setAt := by
  simp only [State.modPktCntOf, and_self]

@[simp] theorem State.modCfg_cfg (s : State) (k j : Nat) (f : PortCfg → PortCfg) :
    (s.modCfg k f).cfg j = if j = k then f (s.cfg k) else s.cfg j := by
  simp only [State.cfg, State.modCfg, tget_tmod]

@[simp] theorem State.modCfg_frame (s : State) (k : Nat) (f : PortCfg → PortCfg) :
    (s.modCfg k f).pending = s.pending ∧ (s.modCfg k f).now = s.now ∧ (s.modCfg k f).freeIx = s.freeIx ∧
    (s.modCfg k f).nextId = s.nextId ∧ (s.modCfg k f).sent = s.sent ∧ (s.modCfg k f).pins = s.pins ∧
    (s.modCfg k f).float = s.float ∧ (s.modCfg k f).boot = s.boot ∧ (s.modCfg k f).rstCtl = s.rstCtl ∧
    (s.modCfg k f).rstStatus = s.rstStatus ∧ (s.modCfg k f).therm = s.therm ∧ (s.modCfg k f).vent = s.vent ∧
    (s.modCfg k f).pkg = s.pkg ∧ (s.modCfg k f).dies = s.dies ∧ (s.modCfg k f).laneDies = s.laneDies ∧
    (s.modCfg k f).lanes = s.lanes ∧ (s.modCfg k f).ports = s.ports ∧ (s.modCfg k f).routing = s.routing ∧
    (s.modCfg k f).inPkts = s.inPkts ∧ (s.modCfg k f).pktCnt = s.pktCnt ∧ (s.modCfg k f).keys = s.keys ∧
    (s.modCfg k f).fabric = s.fabric ∧ (s.modCfg k f).tiles = s.tiles ∧ (s.modCfg k f).admitted = s.admitted
    ∧ (s.modCfg k f).hodPort = s.hodPort ∧ (s.modCfg k f).portCnt = s.portCnt ∧ (s.modCfg k f).sched =
    s.sched ∧ (s.modCfg k f).fqCfg = s.fqCfg ∧ (s.modCfg k f).fqRun = s.fqRun ∧ (s.modCfg k f).calSh =
    s.calSh ∧ (s.modCfg k f).out = s.out ∧ (s.modCfg k f).calderas = s.calderas ∧ (s.modCfg k f).engines =
    s.engines ∧ (s.modCfg k f).engMap = s.engMap ∧ (s.modCfg k f).copyMap = s.copyMap ∧ (s.modCfg k
    f).copyPlans = s.copyPlans ∧ (s.modCfg k f).groups = s.groups ∧ (s.modCfg k f).invs = s.invs ∧ (s.modCfg
    k f).counters = s.counters ∧ (s.modCfg k f).xlat = s.xlat ∧ (s.modCfg k f).signals = s.signals ∧
    (s.modCfg k f).ftc = s.ftc ∧ (s.modCfg k f).ndetSlice = s.ndetSlice ∧ (s.modCfg k f).mgmtIn = s.mgmtIn ∧
    (s.modCfg k f).reports = s.reports ∧ (s.modCfg k f).host = s.host ∧ (s.modCfg k f).rings = s.rings ∧
    (s.modCfg k f).jobs = s.jobs ∧ (s.modCfg k f).masters = s.masters ∧ (s.modCfg k f).own = s.own ∧
    (s.modCfg k f).recov = s.recov ∧ (s.modCfg k f).trust = s.trust ∧ (s.modCfg k f).is0 = s.is0 ∧ (s.modCfg
    k f).is1 = s.is1 ∧ (s.modCfg k f).setAt = s.setAt := by
  simp only [State.modCfg, and_self]

@[simp] theorem State.modPortKeys_portKeys (s : State) (k j : Nat) (f : PortKeys → PortKeys) :
    (s.modPortKeys k f).portKeys j = if j = k then f (s.portKeys k) else s.portKeys j := by
  simp only [State.portKeys, State.modPortKeys, tget_tmod]

@[simp] theorem State.modPortKeys_frame (s : State) (k : Nat) (f : PortKeys → PortKeys) :
    (s.modPortKeys k f).pending = s.pending ∧ (s.modPortKeys k f).now = s.now ∧ (s.modPortKeys k f).freeIx =
    s.freeIx ∧ (s.modPortKeys k f).nextId = s.nextId ∧ (s.modPortKeys k f).sent = s.sent ∧ (s.modPortKeys k
    f).pins = s.pins ∧ (s.modPortKeys k f).float = s.float ∧ (s.modPortKeys k f).boot = s.boot ∧
    (s.modPortKeys k f).rstCtl = s.rstCtl ∧ (s.modPortKeys k f).rstStatus = s.rstStatus ∧ (s.modPortKeys k
    f).therm = s.therm ∧ (s.modPortKeys k f).vent = s.vent ∧ (s.modPortKeys k f).pkg = s.pkg ∧
    (s.modPortKeys k f).dies = s.dies ∧ (s.modPortKeys k f).laneDies = s.laneDies ∧ (s.modPortKeys k
    f).lanes = s.lanes ∧ (s.modPortKeys k f).ports = s.ports ∧ (s.modPortKeys k f).routing = s.routing ∧
    (s.modPortKeys k f).inPkts = s.inPkts ∧ (s.modPortKeys k f).pktCnt = s.pktCnt ∧ (s.modPortKeys k
    f).portCfg = s.portCfg ∧ (s.modPortKeys k f).fabric = s.fabric ∧ (s.modPortKeys k f).tiles = s.tiles ∧
    (s.modPortKeys k f).admitted = s.admitted ∧ (s.modPortKeys k f).hodPort = s.hodPort ∧ (s.modPortKeys k
    f).portCnt = s.portCnt ∧ (s.modPortKeys k f).sched = s.sched ∧ (s.modPortKeys k f).fqCfg = s.fqCfg ∧
    (s.modPortKeys k f).fqRun = s.fqRun ∧ (s.modPortKeys k f).calSh = s.calSh ∧ (s.modPortKeys k f).out =
    s.out ∧ (s.modPortKeys k f).calderas = s.calderas ∧ (s.modPortKeys k f).engines = s.engines ∧
    (s.modPortKeys k f).engMap = s.engMap ∧ (s.modPortKeys k f).copyMap = s.copyMap ∧ (s.modPortKeys k
    f).copyPlans = s.copyPlans ∧ (s.modPortKeys k f).groups = s.groups ∧ (s.modPortKeys k f).invs = s.invs ∧
    (s.modPortKeys k f).counters = s.counters ∧ (s.modPortKeys k f).xlat = s.xlat ∧ (s.modPortKeys k
    f).signals = s.signals ∧ (s.modPortKeys k f).ftc = s.ftc ∧ (s.modPortKeys k f).ndetSlice = s.ndetSlice ∧
    (s.modPortKeys k f).mgmtIn = s.mgmtIn ∧ (s.modPortKeys k f).reports = s.reports ∧ (s.modPortKeys k
    f).host = s.host ∧ (s.modPortKeys k f).rings = s.rings ∧ (s.modPortKeys k f).jobs = s.jobs ∧
    (s.modPortKeys k f).masters = s.masters ∧ (s.modPortKeys k f).own = s.own ∧ (s.modPortKeys k f).recov =
    s.recov ∧ (s.modPortKeys k f).trust = s.trust ∧ (s.modPortKeys k f).is0 = s.is0 ∧ (s.modPortKeys k
    f).is1 = s.is1 ∧ (s.modPortKeys k f).setAt = s.setAt := by
  simp only [State.modPortKeys, and_self]

@[simp] theorem State.modTile_tile (s : State) (k j : Nat) (f : Tile → Tile) :
    (s.modTile k f).tile j = if j = k then f (s.tile k) else s.tile j := by
  simp only [State.tile, State.modTile, tget_tmod]

@[simp] theorem State.modTile_frame (s : State) (k : Nat) (f : Tile → Tile) :
    (s.modTile k f).pending = s.pending ∧ (s.modTile k f).now = s.now ∧ (s.modTile k f).freeIx = s.freeIx ∧
    (s.modTile k f).nextId = s.nextId ∧ (s.modTile k f).sent = s.sent ∧ (s.modTile k f).pins = s.pins ∧
    (s.modTile k f).float = s.float ∧ (s.modTile k f).boot = s.boot ∧ (s.modTile k f).rstCtl = s.rstCtl ∧
    (s.modTile k f).rstStatus = s.rstStatus ∧ (s.modTile k f).therm = s.therm ∧ (s.modTile k f).vent =
    s.vent ∧ (s.modTile k f).pkg = s.pkg ∧ (s.modTile k f).dies = s.dies ∧ (s.modTile k f).laneDies =
    s.laneDies ∧ (s.modTile k f).lanes = s.lanes ∧ (s.modTile k f).ports = s.ports ∧ (s.modTile k f).routing
    = s.routing ∧ (s.modTile k f).inPkts = s.inPkts ∧ (s.modTile k f).pktCnt = s.pktCnt ∧ (s.modTile k
    f).portCfg = s.portCfg ∧ (s.modTile k f).keys = s.keys ∧ (s.modTile k f).fabric = s.fabric ∧ (s.modTile
    k f).admitted = s.admitted ∧ (s.modTile k f).hodPort = s.hodPort ∧ (s.modTile k f).portCnt = s.portCnt ∧
    (s.modTile k f).sched = s.sched ∧ (s.modTile k f).fqCfg = s.fqCfg ∧ (s.modTile k f).fqRun = s.fqRun ∧
    (s.modTile k f).calSh = s.calSh ∧ (s.modTile k f).out = s.out ∧ (s.modTile k f).calderas = s.calderas ∧
    (s.modTile k f).engines = s.engines ∧ (s.modTile k f).engMap = s.engMap ∧ (s.modTile k f).copyMap =
    s.copyMap ∧ (s.modTile k f).copyPlans = s.copyPlans ∧ (s.modTile k f).groups = s.groups ∧ (s.modTile k
    f).invs = s.invs ∧ (s.modTile k f).counters = s.counters ∧ (s.modTile k f).xlat = s.xlat ∧ (s.modTile k
    f).signals = s.signals ∧ (s.modTile k f).ftc = s.ftc ∧ (s.modTile k f).ndetSlice = s.ndetSlice ∧
    (s.modTile k f).mgmtIn = s.mgmtIn ∧ (s.modTile k f).reports = s.reports ∧ (s.modTile k f).host = s.host
    ∧ (s.modTile k f).rings = s.rings ∧ (s.modTile k f).jobs = s.jobs ∧ (s.modTile k f).masters = s.masters
    ∧ (s.modTile k f).own = s.own ∧ (s.modTile k f).recov = s.recov ∧ (s.modTile k f).trust = s.trust ∧
    (s.modTile k f).is0 = s.is0 ∧ (s.modTile k f).is1 = s.is1 ∧ (s.modTile k f).setAt = s.setAt := by
  simp only [State.modTile, and_self]

@[simp] theorem State.modHodCfg_hodCfg (s : State) (k j : Nat) (f : HodPortCfg → HodPortCfg) :
    (s.modHodCfg k f).hodCfg j = if j = k then f (s.hodCfg k) else s.hodCfg j := by
  simp only [State.hodCfg, State.modHodCfg, tget_tmod]

@[simp] theorem State.modHodCfg_frame (s : State) (k : Nat) (f : HodPortCfg → HodPortCfg) :
    (s.modHodCfg k f).pending = s.pending ∧ (s.modHodCfg k f).now = s.now ∧ (s.modHodCfg k f).freeIx =
    s.freeIx ∧ (s.modHodCfg k f).nextId = s.nextId ∧ (s.modHodCfg k f).sent = s.sent ∧ (s.modHodCfg k
    f).pins = s.pins ∧ (s.modHodCfg k f).float = s.float ∧ (s.modHodCfg k f).boot = s.boot ∧ (s.modHodCfg k
    f).rstCtl = s.rstCtl ∧ (s.modHodCfg k f).rstStatus = s.rstStatus ∧ (s.modHodCfg k f).therm = s.therm ∧
    (s.modHodCfg k f).vent = s.vent ∧ (s.modHodCfg k f).pkg = s.pkg ∧ (s.modHodCfg k f).dies = s.dies ∧
    (s.modHodCfg k f).laneDies = s.laneDies ∧ (s.modHodCfg k f).lanes = s.lanes ∧ (s.modHodCfg k f).ports =
    s.ports ∧ (s.modHodCfg k f).routing = s.routing ∧ (s.modHodCfg k f).inPkts = s.inPkts ∧ (s.modHodCfg k
    f).pktCnt = s.pktCnt ∧ (s.modHodCfg k f).portCfg = s.portCfg ∧ (s.modHodCfg k f).keys = s.keys ∧
    (s.modHodCfg k f).fabric = s.fabric ∧ (s.modHodCfg k f).tiles = s.tiles ∧ (s.modHodCfg k f).admitted =
    s.admitted ∧ (s.modHodCfg k f).portCnt = s.portCnt ∧ (s.modHodCfg k f).sched = s.sched ∧ (s.modHodCfg k
    f).fqCfg = s.fqCfg ∧ (s.modHodCfg k f).fqRun = s.fqRun ∧ (s.modHodCfg k f).calSh = s.calSh ∧
    (s.modHodCfg k f).out = s.out ∧ (s.modHodCfg k f).calderas = s.calderas ∧ (s.modHodCfg k f).engines =
    s.engines ∧ (s.modHodCfg k f).engMap = s.engMap ∧ (s.modHodCfg k f).copyMap = s.copyMap ∧ (s.modHodCfg k
    f).copyPlans = s.copyPlans ∧ (s.modHodCfg k f).groups = s.groups ∧ (s.modHodCfg k f).invs = s.invs ∧
    (s.modHodCfg k f).counters = s.counters ∧ (s.modHodCfg k f).xlat = s.xlat ∧ (s.modHodCfg k f).signals =
    s.signals ∧ (s.modHodCfg k f).ftc = s.ftc ∧ (s.modHodCfg k f).ndetSlice = s.ndetSlice ∧ (s.modHodCfg k
    f).mgmtIn = s.mgmtIn ∧ (s.modHodCfg k f).reports = s.reports ∧ (s.modHodCfg k f).host = s.host ∧
    (s.modHodCfg k f).rings = s.rings ∧ (s.modHodCfg k f).jobs = s.jobs ∧ (s.modHodCfg k f).masters =
    s.masters ∧ (s.modHodCfg k f).own = s.own ∧ (s.modHodCfg k f).recov = s.recov ∧ (s.modHodCfg k f).trust
    = s.trust ∧ (s.modHodCfg k f).is0 = s.is0 ∧ (s.modHodCfg k f).is1 = s.is1 ∧ (s.modHodCfg k f).setAt =
    s.setAt := by
  simp only [State.modHodCfg, and_self]

@[simp] theorem State.modPortCntOf_portCntOf (s : State) (k j : Nat) (f : PortCnt → PortCnt) :
    (s.modPortCntOf k f).portCntOf j = if j = k then f (s.portCntOf k) else s.portCntOf j := by
  simp only [State.portCntOf, State.modPortCntOf, tget_tmod]

@[simp] theorem State.modPortCntOf_frame (s : State) (k : Nat) (f : PortCnt → PortCnt) :
    (s.modPortCntOf k f).pending = s.pending ∧ (s.modPortCntOf k f).now = s.now ∧ (s.modPortCntOf k
    f).freeIx = s.freeIx ∧ (s.modPortCntOf k f).nextId = s.nextId ∧ (s.modPortCntOf k f).sent = s.sent ∧
    (s.modPortCntOf k f).pins = s.pins ∧ (s.modPortCntOf k f).float = s.float ∧ (s.modPortCntOf k f).boot =
    s.boot ∧ (s.modPortCntOf k f).rstCtl = s.rstCtl ∧ (s.modPortCntOf k f).rstStatus = s.rstStatus ∧
    (s.modPortCntOf k f).therm = s.therm ∧ (s.modPortCntOf k f).vent = s.vent ∧ (s.modPortCntOf k f).pkg =
    s.pkg ∧ (s.modPortCntOf k f).dies = s.dies ∧ (s.modPortCntOf k f).laneDies = s.laneDies ∧
    (s.modPortCntOf k f).lanes = s.lanes ∧ (s.modPortCntOf k f).ports = s.ports ∧ (s.modPortCntOf k
    f).routing = s.routing ∧ (s.modPortCntOf k f).inPkts = s.inPkts ∧ (s.modPortCntOf k f).pktCnt = s.pktCnt
    ∧ (s.modPortCntOf k f).portCfg = s.portCfg ∧ (s.modPortCntOf k f).keys = s.keys ∧ (s.modPortCntOf k
    f).fabric = s.fabric ∧ (s.modPortCntOf k f).tiles = s.tiles ∧ (s.modPortCntOf k f).admitted = s.admitted
    ∧ (s.modPortCntOf k f).hodPort = s.hodPort ∧ (s.modPortCntOf k f).sched = s.sched ∧ (s.modPortCntOf k
    f).fqCfg = s.fqCfg ∧ (s.modPortCntOf k f).fqRun = s.fqRun ∧ (s.modPortCntOf k f).calSh = s.calSh ∧
    (s.modPortCntOf k f).out = s.out ∧ (s.modPortCntOf k f).calderas = s.calderas ∧ (s.modPortCntOf k
    f).engines = s.engines ∧ (s.modPortCntOf k f).engMap = s.engMap ∧ (s.modPortCntOf k f).copyMap =
    s.copyMap ∧ (s.modPortCntOf k f).copyPlans = s.copyPlans ∧ (s.modPortCntOf k f).groups = s.groups ∧
    (s.modPortCntOf k f).invs = s.invs ∧ (s.modPortCntOf k f).counters = s.counters ∧ (s.modPortCntOf k
    f).xlat = s.xlat ∧ (s.modPortCntOf k f).signals = s.signals ∧ (s.modPortCntOf k f).ftc = s.ftc ∧
    (s.modPortCntOf k f).ndetSlice = s.ndetSlice ∧ (s.modPortCntOf k f).mgmtIn = s.mgmtIn ∧ (s.modPortCntOf
    k f).reports = s.reports ∧ (s.modPortCntOf k f).host = s.host ∧ (s.modPortCntOf k f).rings = s.rings ∧
    (s.modPortCntOf k f).jobs = s.jobs ∧ (s.modPortCntOf k f).masters = s.masters ∧ (s.modPortCntOf k f).own
    = s.own ∧ (s.modPortCntOf k f).recov = s.recov ∧ (s.modPortCntOf k f).trust = s.trust ∧ (s.modPortCntOf
    k f).is0 = s.is0 ∧ (s.modPortCntOf k f).is1 = s.is1 ∧ (s.modPortCntOf k f).setAt = s.setAt := by
  simp only [State.modPortCntOf, and_self]

@[simp] theorem State.modSchedOf_schedOf (s : State) (k j : Nat) (f : SchedCfg → SchedCfg) :
    (s.modSchedOf k f).schedOf j = if j = k then f (s.schedOf k) else s.schedOf j := by
  simp only [State.schedOf, State.modSchedOf, tget_tmod]

@[simp] theorem State.modSchedOf_frame (s : State) (k : Nat) (f : SchedCfg → SchedCfg) :
    (s.modSchedOf k f).pending = s.pending ∧ (s.modSchedOf k f).now = s.now ∧ (s.modSchedOf k f).freeIx =
    s.freeIx ∧ (s.modSchedOf k f).nextId = s.nextId ∧ (s.modSchedOf k f).sent = s.sent ∧ (s.modSchedOf k
    f).pins = s.pins ∧ (s.modSchedOf k f).float = s.float ∧ (s.modSchedOf k f).boot = s.boot ∧ (s.modSchedOf
    k f).rstCtl = s.rstCtl ∧ (s.modSchedOf k f).rstStatus = s.rstStatus ∧ (s.modSchedOf k f).therm = s.therm
    ∧ (s.modSchedOf k f).vent = s.vent ∧ (s.modSchedOf k f).pkg = s.pkg ∧ (s.modSchedOf k f).dies = s.dies ∧
    (s.modSchedOf k f).laneDies = s.laneDies ∧ (s.modSchedOf k f).lanes = s.lanes ∧ (s.modSchedOf k f).ports
    = s.ports ∧ (s.modSchedOf k f).routing = s.routing ∧ (s.modSchedOf k f).inPkts = s.inPkts ∧
    (s.modSchedOf k f).pktCnt = s.pktCnt ∧ (s.modSchedOf k f).portCfg = s.portCfg ∧ (s.modSchedOf k f).keys
    = s.keys ∧ (s.modSchedOf k f).fabric = s.fabric ∧ (s.modSchedOf k f).tiles = s.tiles ∧ (s.modSchedOf k
    f).admitted = s.admitted ∧ (s.modSchedOf k f).hodPort = s.hodPort ∧ (s.modSchedOf k f).portCnt =
    s.portCnt ∧ (s.modSchedOf k f).fqCfg = s.fqCfg ∧ (s.modSchedOf k f).fqRun = s.fqRun ∧ (s.modSchedOf k
    f).calSh = s.calSh ∧ (s.modSchedOf k f).out = s.out ∧ (s.modSchedOf k f).calderas = s.calderas ∧
    (s.modSchedOf k f).engines = s.engines ∧ (s.modSchedOf k f).engMap = s.engMap ∧ (s.modSchedOf k
    f).copyMap = s.copyMap ∧ (s.modSchedOf k f).copyPlans = s.copyPlans ∧ (s.modSchedOf k f).groups =
    s.groups ∧ (s.modSchedOf k f).invs = s.invs ∧ (s.modSchedOf k f).counters = s.counters ∧ (s.modSchedOf k
    f).xlat = s.xlat ∧ (s.modSchedOf k f).signals = s.signals ∧ (s.modSchedOf k f).ftc = s.ftc ∧
    (s.modSchedOf k f).ndetSlice = s.ndetSlice ∧ (s.modSchedOf k f).mgmtIn = s.mgmtIn ∧ (s.modSchedOf k
    f).reports = s.reports ∧ (s.modSchedOf k f).host = s.host ∧ (s.modSchedOf k f).rings = s.rings ∧
    (s.modSchedOf k f).jobs = s.jobs ∧ (s.modSchedOf k f).masters = s.masters ∧ (s.modSchedOf k f).own =
    s.own ∧ (s.modSchedOf k f).recov = s.recov ∧ (s.modSchedOf k f).trust = s.trust ∧ (s.modSchedOf k f).is0
    = s.is0 ∧ (s.modSchedOf k f).is1 = s.is1 ∧ (s.modSchedOf k f).setAt = s.setAt := by
  simp only [State.modSchedOf, and_self]

@[simp] theorem State.modFq_fq (s : State) (k j : Nat) (f : FqCfg → FqCfg) :
    (s.modFq k f).fq j = if j = k then f (s.fq k) else s.fq j := by
  simp only [State.fq, State.modFq, tget_tmod]

@[simp] theorem State.modFq_frame (s : State) (k : Nat) (f : FqCfg → FqCfg) :
    (s.modFq k f).pending = s.pending ∧ (s.modFq k f).now = s.now ∧ (s.modFq k f).freeIx = s.freeIx ∧
    (s.modFq k f).nextId = s.nextId ∧ (s.modFq k f).sent = s.sent ∧ (s.modFq k f).pins = s.pins ∧ (s.modFq k
    f).float = s.float ∧ (s.modFq k f).boot = s.boot ∧ (s.modFq k f).rstCtl = s.rstCtl ∧ (s.modFq k
    f).rstStatus = s.rstStatus ∧ (s.modFq k f).therm = s.therm ∧ (s.modFq k f).vent = s.vent ∧ (s.modFq k
    f).pkg = s.pkg ∧ (s.modFq k f).dies = s.dies ∧ (s.modFq k f).laneDies = s.laneDies ∧ (s.modFq k f).lanes
    = s.lanes ∧ (s.modFq k f).ports = s.ports ∧ (s.modFq k f).routing = s.routing ∧ (s.modFq k f).inPkts =
    s.inPkts ∧ (s.modFq k f).pktCnt = s.pktCnt ∧ (s.modFq k f).portCfg = s.portCfg ∧ (s.modFq k f).keys =
    s.keys ∧ (s.modFq k f).fabric = s.fabric ∧ (s.modFq k f).tiles = s.tiles ∧ (s.modFq k f).admitted =
    s.admitted ∧ (s.modFq k f).hodPort = s.hodPort ∧ (s.modFq k f).portCnt = s.portCnt ∧ (s.modFq k f).sched
    = s.sched ∧ (s.modFq k f).fqRun = s.fqRun ∧ (s.modFq k f).calSh = s.calSh ∧ (s.modFq k f).out = s.out ∧
    (s.modFq k f).calderas = s.calderas ∧ (s.modFq k f).engines = s.engines ∧ (s.modFq k f).engMap =
    s.engMap ∧ (s.modFq k f).copyMap = s.copyMap ∧ (s.modFq k f).copyPlans = s.copyPlans ∧ (s.modFq k
    f).groups = s.groups ∧ (s.modFq k f).invs = s.invs ∧ (s.modFq k f).counters = s.counters ∧ (s.modFq k
    f).xlat = s.xlat ∧ (s.modFq k f).signals = s.signals ∧ (s.modFq k f).ftc = s.ftc ∧ (s.modFq k
    f).ndetSlice = s.ndetSlice ∧ (s.modFq k f).mgmtIn = s.mgmtIn ∧ (s.modFq k f).reports = s.reports ∧
    (s.modFq k f).host = s.host ∧ (s.modFq k f).rings = s.rings ∧ (s.modFq k f).jobs = s.jobs ∧ (s.modFq k
    f).masters = s.masters ∧ (s.modFq k f).own = s.own ∧ (s.modFq k f).recov = s.recov ∧ (s.modFq k f).trust
    = s.trust ∧ (s.modFq k f).is0 = s.is0 ∧ (s.modFq k f).is1 = s.is1 ∧ (s.modFq k f).setAt = s.setAt := by
  simp only [State.modFq, and_self]

@[simp] theorem State.modFqr_fqr (s : State) (k j : Nat) (f : FqRun → FqRun) :
    (s.modFqr k f).fqr j = if j = k then f (s.fqr k) else s.fqr j := by
  simp only [State.fqr, State.modFqr, tget_tmod]

@[simp] theorem State.modFqr_frame (s : State) (k : Nat) (f : FqRun → FqRun) :
    (s.modFqr k f).pending = s.pending ∧ (s.modFqr k f).now = s.now ∧ (s.modFqr k f).freeIx = s.freeIx ∧
    (s.modFqr k f).nextId = s.nextId ∧ (s.modFqr k f).sent = s.sent ∧ (s.modFqr k f).pins = s.pins ∧
    (s.modFqr k f).float = s.float ∧ (s.modFqr k f).boot = s.boot ∧ (s.modFqr k f).rstCtl = s.rstCtl ∧
    (s.modFqr k f).rstStatus = s.rstStatus ∧ (s.modFqr k f).therm = s.therm ∧ (s.modFqr k f).vent = s.vent ∧
    (s.modFqr k f).pkg = s.pkg ∧ (s.modFqr k f).dies = s.dies ∧ (s.modFqr k f).laneDies = s.laneDies ∧
    (s.modFqr k f).lanes = s.lanes ∧ (s.modFqr k f).ports = s.ports ∧ (s.modFqr k f).routing = s.routing ∧
    (s.modFqr k f).inPkts = s.inPkts ∧ (s.modFqr k f).pktCnt = s.pktCnt ∧ (s.modFqr k f).portCfg = s.portCfg
    ∧ (s.modFqr k f).keys = s.keys ∧ (s.modFqr k f).fabric = s.fabric ∧ (s.modFqr k f).tiles = s.tiles ∧
    (s.modFqr k f).admitted = s.admitted ∧ (s.modFqr k f).hodPort = s.hodPort ∧ (s.modFqr k f).portCnt =
    s.portCnt ∧ (s.modFqr k f).sched = s.sched ∧ (s.modFqr k f).fqCfg = s.fqCfg ∧ (s.modFqr k f).calSh =
    s.calSh ∧ (s.modFqr k f).out = s.out ∧ (s.modFqr k f).calderas = s.calderas ∧ (s.modFqr k f).engines =
    s.engines ∧ (s.modFqr k f).engMap = s.engMap ∧ (s.modFqr k f).copyMap = s.copyMap ∧ (s.modFqr k
    f).copyPlans = s.copyPlans ∧ (s.modFqr k f).groups = s.groups ∧ (s.modFqr k f).invs = s.invs ∧ (s.modFqr
    k f).counters = s.counters ∧ (s.modFqr k f).xlat = s.xlat ∧ (s.modFqr k f).signals = s.signals ∧
    (s.modFqr k f).ftc = s.ftc ∧ (s.modFqr k f).ndetSlice = s.ndetSlice ∧ (s.modFqr k f).mgmtIn = s.mgmtIn ∧
    (s.modFqr k f).reports = s.reports ∧ (s.modFqr k f).host = s.host ∧ (s.modFqr k f).rings = s.rings ∧
    (s.modFqr k f).jobs = s.jobs ∧ (s.modFqr k f).masters = s.masters ∧ (s.modFqr k f).own = s.own ∧
    (s.modFqr k f).recov = s.recov ∧ (s.modFqr k f).trust = s.trust ∧ (s.modFqr k f).is0 = s.is0 ∧ (s.modFqr
    k f).is1 = s.is1 ∧ (s.modFqr k f).setAt = s.setAt := by
  simp only [State.modFqr, and_self]

@[simp] theorem State.modOutPort_outPort (s : State) (k j : Nat) (f : OutPort → OutPort) :
    (s.modOutPort k f).outPort j = if j = k then f (s.outPort k) else s.outPort j := by
  simp only [State.outPort, State.modOutPort, tget_tmod]

@[simp] theorem State.modOutPort_frame (s : State) (k : Nat) (f : OutPort → OutPort) :
    (s.modOutPort k f).pending = s.pending ∧ (s.modOutPort k f).now = s.now ∧ (s.modOutPort k f).freeIx =
    s.freeIx ∧ (s.modOutPort k f).nextId = s.nextId ∧ (s.modOutPort k f).sent = s.sent ∧ (s.modOutPort k
    f).pins = s.pins ∧ (s.modOutPort k f).float = s.float ∧ (s.modOutPort k f).boot = s.boot ∧ (s.modOutPort
    k f).rstCtl = s.rstCtl ∧ (s.modOutPort k f).rstStatus = s.rstStatus ∧ (s.modOutPort k f).therm = s.therm
    ∧ (s.modOutPort k f).vent = s.vent ∧ (s.modOutPort k f).pkg = s.pkg ∧ (s.modOutPort k f).dies = s.dies ∧
    (s.modOutPort k f).laneDies = s.laneDies ∧ (s.modOutPort k f).lanes = s.lanes ∧ (s.modOutPort k f).ports
    = s.ports ∧ (s.modOutPort k f).routing = s.routing ∧ (s.modOutPort k f).inPkts = s.inPkts ∧
    (s.modOutPort k f).pktCnt = s.pktCnt ∧ (s.modOutPort k f).portCfg = s.portCfg ∧ (s.modOutPort k f).keys
    = s.keys ∧ (s.modOutPort k f).fabric = s.fabric ∧ (s.modOutPort k f).tiles = s.tiles ∧ (s.modOutPort k
    f).admitted = s.admitted ∧ (s.modOutPort k f).hodPort = s.hodPort ∧ (s.modOutPort k f).portCnt =
    s.portCnt ∧ (s.modOutPort k f).sched = s.sched ∧ (s.modOutPort k f).fqCfg = s.fqCfg ∧ (s.modOutPort k
    f).fqRun = s.fqRun ∧ (s.modOutPort k f).calSh = s.calSh ∧ (s.modOutPort k f).calderas = s.calderas ∧
    (s.modOutPort k f).engines = s.engines ∧ (s.modOutPort k f).engMap = s.engMap ∧ (s.modOutPort k
    f).copyMap = s.copyMap ∧ (s.modOutPort k f).copyPlans = s.copyPlans ∧ (s.modOutPort k f).groups =
    s.groups ∧ (s.modOutPort k f).invs = s.invs ∧ (s.modOutPort k f).counters = s.counters ∧ (s.modOutPort k
    f).xlat = s.xlat ∧ (s.modOutPort k f).signals = s.signals ∧ (s.modOutPort k f).ftc = s.ftc ∧
    (s.modOutPort k f).ndetSlice = s.ndetSlice ∧ (s.modOutPort k f).mgmtIn = s.mgmtIn ∧ (s.modOutPort k
    f).reports = s.reports ∧ (s.modOutPort k f).host = s.host ∧ (s.modOutPort k f).rings = s.rings ∧
    (s.modOutPort k f).jobs = s.jobs ∧ (s.modOutPort k f).masters = s.masters ∧ (s.modOutPort k f).own =
    s.own ∧ (s.modOutPort k f).recov = s.recov ∧ (s.modOutPort k f).trust = s.trust ∧ (s.modOutPort k f).is0
    = s.is0 ∧ (s.modOutPort k f).is1 = s.is1 ∧ (s.modOutPort k f).setAt = s.setAt := by
  simp only [State.modOutPort, and_self]

@[simp] theorem State.modCaldera_caldera (s : State) (k j : Nat) (f : Caldera → Caldera) :
    (s.modCaldera k f).caldera j = if j = k then f (s.caldera k) else s.caldera j := by
  simp only [State.caldera, State.modCaldera, tget_tmod]

@[simp] theorem State.modCaldera_frame (s : State) (k : Nat) (f : Caldera → Caldera) :
    (s.modCaldera k f).pending = s.pending ∧ (s.modCaldera k f).now = s.now ∧ (s.modCaldera k f).freeIx =
    s.freeIx ∧ (s.modCaldera k f).nextId = s.nextId ∧ (s.modCaldera k f).sent = s.sent ∧ (s.modCaldera k
    f).pins = s.pins ∧ (s.modCaldera k f).float = s.float ∧ (s.modCaldera k f).boot = s.boot ∧ (s.modCaldera
    k f).rstCtl = s.rstCtl ∧ (s.modCaldera k f).rstStatus = s.rstStatus ∧ (s.modCaldera k f).therm = s.therm
    ∧ (s.modCaldera k f).vent = s.vent ∧ (s.modCaldera k f).pkg = s.pkg ∧ (s.modCaldera k f).dies = s.dies ∧
    (s.modCaldera k f).laneDies = s.laneDies ∧ (s.modCaldera k f).lanes = s.lanes ∧ (s.modCaldera k f).ports
    = s.ports ∧ (s.modCaldera k f).routing = s.routing ∧ (s.modCaldera k f).inPkts = s.inPkts ∧
    (s.modCaldera k f).pktCnt = s.pktCnt ∧ (s.modCaldera k f).portCfg = s.portCfg ∧ (s.modCaldera k f).keys
    = s.keys ∧ (s.modCaldera k f).fabric = s.fabric ∧ (s.modCaldera k f).tiles = s.tiles ∧ (s.modCaldera k
    f).admitted = s.admitted ∧ (s.modCaldera k f).hodPort = s.hodPort ∧ (s.modCaldera k f).portCnt =
    s.portCnt ∧ (s.modCaldera k f).sched = s.sched ∧ (s.modCaldera k f).fqCfg = s.fqCfg ∧ (s.modCaldera k
    f).fqRun = s.fqRun ∧ (s.modCaldera k f).calSh = s.calSh ∧ (s.modCaldera k f).out = s.out ∧ (s.modCaldera
    k f).engines = s.engines ∧ (s.modCaldera k f).engMap = s.engMap ∧ (s.modCaldera k f).copyMap = s.copyMap
    ∧ (s.modCaldera k f).copyPlans = s.copyPlans ∧ (s.modCaldera k f).groups = s.groups ∧ (s.modCaldera k
    f).invs = s.invs ∧ (s.modCaldera k f).counters = s.counters ∧ (s.modCaldera k f).xlat = s.xlat ∧
    (s.modCaldera k f).signals = s.signals ∧ (s.modCaldera k f).ftc = s.ftc ∧ (s.modCaldera k f).ndetSlice =
    s.ndetSlice ∧ (s.modCaldera k f).mgmtIn = s.mgmtIn ∧ (s.modCaldera k f).reports = s.reports ∧
    (s.modCaldera k f).host = s.host ∧ (s.modCaldera k f).rings = s.rings ∧ (s.modCaldera k f).jobs = s.jobs
    ∧ (s.modCaldera k f).masters = s.masters ∧ (s.modCaldera k f).own = s.own ∧ (s.modCaldera k f).recov =
    s.recov ∧ (s.modCaldera k f).trust = s.trust ∧ (s.modCaldera k f).is0 = s.is0 ∧ (s.modCaldera k f).is1 =
    s.is1 ∧ (s.modCaldera k f).setAt = s.setAt := by
  simp only [State.modCaldera, and_self]

@[simp] theorem State.modEngine_engine (s : State) (k j : Nat) (f : Engine → Engine) :
    (s.modEngine k f).engine j = if j = k then f (s.engine k) else s.engine j := by
  simp only [State.engine, State.modEngine, tget_tmod]

@[simp] theorem State.modEngine_frame (s : State) (k : Nat) (f : Engine → Engine) :
    (s.modEngine k f).pending = s.pending ∧ (s.modEngine k f).now = s.now ∧ (s.modEngine k f).freeIx =
    s.freeIx ∧ (s.modEngine k f).nextId = s.nextId ∧ (s.modEngine k f).sent = s.sent ∧ (s.modEngine k
    f).pins = s.pins ∧ (s.modEngine k f).float = s.float ∧ (s.modEngine k f).boot = s.boot ∧ (s.modEngine k
    f).rstCtl = s.rstCtl ∧ (s.modEngine k f).rstStatus = s.rstStatus ∧ (s.modEngine k f).therm = s.therm ∧
    (s.modEngine k f).vent = s.vent ∧ (s.modEngine k f).pkg = s.pkg ∧ (s.modEngine k f).dies = s.dies ∧
    (s.modEngine k f).laneDies = s.laneDies ∧ (s.modEngine k f).lanes = s.lanes ∧ (s.modEngine k f).ports =
    s.ports ∧ (s.modEngine k f).routing = s.routing ∧ (s.modEngine k f).inPkts = s.inPkts ∧ (s.modEngine k
    f).pktCnt = s.pktCnt ∧ (s.modEngine k f).portCfg = s.portCfg ∧ (s.modEngine k f).keys = s.keys ∧
    (s.modEngine k f).fabric = s.fabric ∧ (s.modEngine k f).tiles = s.tiles ∧ (s.modEngine k f).admitted =
    s.admitted ∧ (s.modEngine k f).hodPort = s.hodPort ∧ (s.modEngine k f).portCnt = s.portCnt ∧
    (s.modEngine k f).sched = s.sched ∧ (s.modEngine k f).fqCfg = s.fqCfg ∧ (s.modEngine k f).fqRun =
    s.fqRun ∧ (s.modEngine k f).calSh = s.calSh ∧ (s.modEngine k f).out = s.out ∧ (s.modEngine k f).calderas
    = s.calderas ∧ (s.modEngine k f).engMap = s.engMap ∧ (s.modEngine k f).copyMap = s.copyMap ∧
    (s.modEngine k f).copyPlans = s.copyPlans ∧ (s.modEngine k f).groups = s.groups ∧ (s.modEngine k f).invs
    = s.invs ∧ (s.modEngine k f).counters = s.counters ∧ (s.modEngine k f).xlat = s.xlat ∧ (s.modEngine k
    f).signals = s.signals ∧ (s.modEngine k f).ftc = s.ftc ∧ (s.modEngine k f).ndetSlice = s.ndetSlice ∧
    (s.modEngine k f).mgmtIn = s.mgmtIn ∧ (s.modEngine k f).reports = s.reports ∧ (s.modEngine k f).host =
    s.host ∧ (s.modEngine k f).rings = s.rings ∧ (s.modEngine k f).jobs = s.jobs ∧ (s.modEngine k f).masters
    = s.masters ∧ (s.modEngine k f).own = s.own ∧ (s.modEngine k f).recov = s.recov ∧ (s.modEngine k
    f).trust = s.trust ∧ (s.modEngine k f).is0 = s.is0 ∧ (s.modEngine k f).is1 = s.is1 ∧ (s.modEngine k
    f).setAt = s.setAt := by
  simp only [State.modEngine, and_self]

@[simp] theorem State.modEmap_emap (s : State) (k j : Nat) (f : EngMap → EngMap) :
    (s.modEmap k f).emap j = if j = k then f (s.emap k) else s.emap j := by
  simp only [State.emap, State.modEmap, tget_tmod]

@[simp] theorem State.modEmap_frame (s : State) (k : Nat) (f : EngMap → EngMap) :
    (s.modEmap k f).pending = s.pending ∧ (s.modEmap k f).now = s.now ∧ (s.modEmap k f).freeIx = s.freeIx ∧
    (s.modEmap k f).nextId = s.nextId ∧ (s.modEmap k f).sent = s.sent ∧ (s.modEmap k f).pins = s.pins ∧
    (s.modEmap k f).float = s.float ∧ (s.modEmap k f).boot = s.boot ∧ (s.modEmap k f).rstCtl = s.rstCtl ∧
    (s.modEmap k f).rstStatus = s.rstStatus ∧ (s.modEmap k f).therm = s.therm ∧ (s.modEmap k f).vent =
    s.vent ∧ (s.modEmap k f).pkg = s.pkg ∧ (s.modEmap k f).dies = s.dies ∧ (s.modEmap k f).laneDies =
    s.laneDies ∧ (s.modEmap k f).lanes = s.lanes ∧ (s.modEmap k f).ports = s.ports ∧ (s.modEmap k f).routing
    = s.routing ∧ (s.modEmap k f).inPkts = s.inPkts ∧ (s.modEmap k f).pktCnt = s.pktCnt ∧ (s.modEmap k
    f).portCfg = s.portCfg ∧ (s.modEmap k f).keys = s.keys ∧ (s.modEmap k f).fabric = s.fabric ∧ (s.modEmap
    k f).tiles = s.tiles ∧ (s.modEmap k f).admitted = s.admitted ∧ (s.modEmap k f).hodPort = s.hodPort ∧
    (s.modEmap k f).portCnt = s.portCnt ∧ (s.modEmap k f).sched = s.sched ∧ (s.modEmap k f).fqCfg = s.fqCfg
    ∧ (s.modEmap k f).fqRun = s.fqRun ∧ (s.modEmap k f).calSh = s.calSh ∧ (s.modEmap k f).out = s.out ∧
    (s.modEmap k f).calderas = s.calderas ∧ (s.modEmap k f).engines = s.engines ∧ (s.modEmap k f).copyMap =
    s.copyMap ∧ (s.modEmap k f).copyPlans = s.copyPlans ∧ (s.modEmap k f).groups = s.groups ∧ (s.modEmap k
    f).invs = s.invs ∧ (s.modEmap k f).counters = s.counters ∧ (s.modEmap k f).xlat = s.xlat ∧ (s.modEmap k
    f).signals = s.signals ∧ (s.modEmap k f).ftc = s.ftc ∧ (s.modEmap k f).ndetSlice = s.ndetSlice ∧
    (s.modEmap k f).mgmtIn = s.mgmtIn ∧ (s.modEmap k f).reports = s.reports ∧ (s.modEmap k f).host = s.host
    ∧ (s.modEmap k f).rings = s.rings ∧ (s.modEmap k f).jobs = s.jobs ∧ (s.modEmap k f).masters = s.masters
    ∧ (s.modEmap k f).own = s.own ∧ (s.modEmap k f).recov = s.recov ∧ (s.modEmap k f).trust = s.trust ∧
    (s.modEmap k f).is0 = s.is0 ∧ (s.modEmap k f).is1 = s.is1 ∧ (s.modEmap k f).setAt = s.setAt := by
  simp only [State.modEmap, and_self]

@[simp] theorem State.modGroup_group (s : State) (k j : Nat) (f : Group → Group) :
    (s.modGroup k f).group j = if j = k then f (s.group k) else s.group j := by
  simp only [State.group, State.modGroup, tget_tmod]

@[simp] theorem State.modGroup_frame (s : State) (k : Nat) (f : Group → Group) :
    (s.modGroup k f).pending = s.pending ∧ (s.modGroup k f).now = s.now ∧ (s.modGroup k f).freeIx = s.freeIx
    ∧ (s.modGroup k f).nextId = s.nextId ∧ (s.modGroup k f).sent = s.sent ∧ (s.modGroup k f).pins = s.pins ∧
    (s.modGroup k f).float = s.float ∧ (s.modGroup k f).boot = s.boot ∧ (s.modGroup k f).rstCtl = s.rstCtl ∧
    (s.modGroup k f).rstStatus = s.rstStatus ∧ (s.modGroup k f).therm = s.therm ∧ (s.modGroup k f).vent =
    s.vent ∧ (s.modGroup k f).pkg = s.pkg ∧ (s.modGroup k f).dies = s.dies ∧ (s.modGroup k f).laneDies =
    s.laneDies ∧ (s.modGroup k f).lanes = s.lanes ∧ (s.modGroup k f).ports = s.ports ∧ (s.modGroup k
    f).routing = s.routing ∧ (s.modGroup k f).inPkts = s.inPkts ∧ (s.modGroup k f).pktCnt = s.pktCnt ∧
    (s.modGroup k f).portCfg = s.portCfg ∧ (s.modGroup k f).keys = s.keys ∧ (s.modGroup k f).fabric =
    s.fabric ∧ (s.modGroup k f).tiles = s.tiles ∧ (s.modGroup k f).admitted = s.admitted ∧ (s.modGroup k
    f).hodPort = s.hodPort ∧ (s.modGroup k f).portCnt = s.portCnt ∧ (s.modGroup k f).sched = s.sched ∧
    (s.modGroup k f).fqCfg = s.fqCfg ∧ (s.modGroup k f).fqRun = s.fqRun ∧ (s.modGroup k f).calSh = s.calSh ∧
    (s.modGroup k f).out = s.out ∧ (s.modGroup k f).calderas = s.calderas ∧ (s.modGroup k f).engines =
    s.engines ∧ (s.modGroup k f).engMap = s.engMap ∧ (s.modGroup k f).copyMap = s.copyMap ∧ (s.modGroup k
    f).copyPlans = s.copyPlans ∧ (s.modGroup k f).invs = s.invs ∧ (s.modGroup k f).counters = s.counters ∧
    (s.modGroup k f).xlat = s.xlat ∧ (s.modGroup k f).signals = s.signals ∧ (s.modGroup k f).ftc = s.ftc ∧
    (s.modGroup k f).ndetSlice = s.ndetSlice ∧ (s.modGroup k f).mgmtIn = s.mgmtIn ∧ (s.modGroup k f).reports
    = s.reports ∧ (s.modGroup k f).host = s.host ∧ (s.modGroup k f).rings = s.rings ∧ (s.modGroup k f).jobs
    = s.jobs ∧ (s.modGroup k f).masters = s.masters ∧ (s.modGroup k f).own = s.own ∧ (s.modGroup k f).recov
    = s.recov ∧ (s.modGroup k f).trust = s.trust ∧ (s.modGroup k f).is0 = s.is0 ∧ (s.modGroup k f).is1 =
    s.is1 ∧ (s.modGroup k f).setAt = s.setAt := by
  simp only [State.modGroup, and_self]

@[simp] theorem State.modInv_inv (s : State) (k j : Nat) (f : Option Inv → Option Inv) :
    (s.modInv k f).inv j = if j = k then f (s.inv k) else s.inv j := by
  simp only [State.inv, State.modInv, tget_tmod]

@[simp] theorem State.modInv_frame (s : State) (k : Nat) (f : Option Inv → Option Inv) :
    (s.modInv k f).pending = s.pending ∧ (s.modInv k f).now = s.now ∧ (s.modInv k f).freeIx = s.freeIx ∧
    (s.modInv k f).nextId = s.nextId ∧ (s.modInv k f).sent = s.sent ∧ (s.modInv k f).pins = s.pins ∧
    (s.modInv k f).float = s.float ∧ (s.modInv k f).boot = s.boot ∧ (s.modInv k f).rstCtl = s.rstCtl ∧
    (s.modInv k f).rstStatus = s.rstStatus ∧ (s.modInv k f).therm = s.therm ∧ (s.modInv k f).vent = s.vent ∧
    (s.modInv k f).pkg = s.pkg ∧ (s.modInv k f).dies = s.dies ∧ (s.modInv k f).laneDies = s.laneDies ∧
    (s.modInv k f).lanes = s.lanes ∧ (s.modInv k f).ports = s.ports ∧ (s.modInv k f).routing = s.routing ∧
    (s.modInv k f).inPkts = s.inPkts ∧ (s.modInv k f).pktCnt = s.pktCnt ∧ (s.modInv k f).portCfg = s.portCfg
    ∧ (s.modInv k f).keys = s.keys ∧ (s.modInv k f).fabric = s.fabric ∧ (s.modInv k f).tiles = s.tiles ∧
    (s.modInv k f).admitted = s.admitted ∧ (s.modInv k f).hodPort = s.hodPort ∧ (s.modInv k f).portCnt =
    s.portCnt ∧ (s.modInv k f).sched = s.sched ∧ (s.modInv k f).fqCfg = s.fqCfg ∧ (s.modInv k f).fqRun =
    s.fqRun ∧ (s.modInv k f).calSh = s.calSh ∧ (s.modInv k f).out = s.out ∧ (s.modInv k f).calderas =
    s.calderas ∧ (s.modInv k f).engines = s.engines ∧ (s.modInv k f).engMap = s.engMap ∧ (s.modInv k
    f).copyMap = s.copyMap ∧ (s.modInv k f).copyPlans = s.copyPlans ∧ (s.modInv k f).groups = s.groups ∧
    (s.modInv k f).counters = s.counters ∧ (s.modInv k f).xlat = s.xlat ∧ (s.modInv k f).signals = s.signals
    ∧ (s.modInv k f).ftc = s.ftc ∧ (s.modInv k f).ndetSlice = s.ndetSlice ∧ (s.modInv k f).mgmtIn = s.mgmtIn
    ∧ (s.modInv k f).reports = s.reports ∧ (s.modInv k f).host = s.host ∧ (s.modInv k f).rings = s.rings ∧
    (s.modInv k f).jobs = s.jobs ∧ (s.modInv k f).masters = s.masters ∧ (s.modInv k f).own = s.own ∧
    (s.modInv k f).recov = s.recov ∧ (s.modInv k f).trust = s.trust ∧ (s.modInv k f).is0 = s.is0 ∧ (s.modInv
    k f).is1 = s.is1 ∧ (s.modInv k f).setAt = s.setAt := by
  simp only [State.modInv, and_self]

@[simp] theorem State.modCtr_ctr (s : State) (k j : Nat) (f : Counter → Counter) :
    (s.modCtr k f).ctr j = if j = k then f (s.ctr k) else s.ctr j := by
  simp only [State.ctr, State.modCtr, tget_tmod]

@[simp] theorem State.modCtr_frame (s : State) (k : Nat) (f : Counter → Counter) :
    (s.modCtr k f).pending = s.pending ∧ (s.modCtr k f).now = s.now ∧ (s.modCtr k f).freeIx = s.freeIx ∧
    (s.modCtr k f).nextId = s.nextId ∧ (s.modCtr k f).sent = s.sent ∧ (s.modCtr k f).pins = s.pins ∧
    (s.modCtr k f).float = s.float ∧ (s.modCtr k f).boot = s.boot ∧ (s.modCtr k f).rstCtl = s.rstCtl ∧
    (s.modCtr k f).rstStatus = s.rstStatus ∧ (s.modCtr k f).therm = s.therm ∧ (s.modCtr k f).vent = s.vent ∧
    (s.modCtr k f).pkg = s.pkg ∧ (s.modCtr k f).dies = s.dies ∧ (s.modCtr k f).laneDies = s.laneDies ∧
    (s.modCtr k f).lanes = s.lanes ∧ (s.modCtr k f).ports = s.ports ∧ (s.modCtr k f).routing = s.routing ∧
    (s.modCtr k f).inPkts = s.inPkts ∧ (s.modCtr k f).pktCnt = s.pktCnt ∧ (s.modCtr k f).portCfg = s.portCfg
    ∧ (s.modCtr k f).keys = s.keys ∧ (s.modCtr k f).fabric = s.fabric ∧ (s.modCtr k f).tiles = s.tiles ∧
    (s.modCtr k f).admitted = s.admitted ∧ (s.modCtr k f).hodPort = s.hodPort ∧ (s.modCtr k f).portCnt =
    s.portCnt ∧ (s.modCtr k f).sched = s.sched ∧ (s.modCtr k f).fqCfg = s.fqCfg ∧ (s.modCtr k f).fqRun =
    s.fqRun ∧ (s.modCtr k f).calSh = s.calSh ∧ (s.modCtr k f).out = s.out ∧ (s.modCtr k f).calderas =
    s.calderas ∧ (s.modCtr k f).engines = s.engines ∧ (s.modCtr k f).engMap = s.engMap ∧ (s.modCtr k
    f).copyMap = s.copyMap ∧ (s.modCtr k f).copyPlans = s.copyPlans ∧ (s.modCtr k f).groups = s.groups ∧
    (s.modCtr k f).invs = s.invs ∧ (s.modCtr k f).xlat = s.xlat ∧ (s.modCtr k f).signals = s.signals ∧
    (s.modCtr k f).ftc = s.ftc ∧ (s.modCtr k f).ndetSlice = s.ndetSlice ∧ (s.modCtr k f).mgmtIn = s.mgmtIn ∧
    (s.modCtr k f).reports = s.reports ∧ (s.modCtr k f).host = s.host ∧ (s.modCtr k f).rings = s.rings ∧
    (s.modCtr k f).jobs = s.jobs ∧ (s.modCtr k f).masters = s.masters ∧ (s.modCtr k f).own = s.own ∧
    (s.modCtr k f).recov = s.recov ∧ (s.modCtr k f).trust = s.trust ∧ (s.modCtr k f).is0 = s.is0 ∧ (s.modCtr
    k f).is1 = s.is1 ∧ (s.modCtr k f).setAt = s.setAt := by
  simp only [State.modCtr, and_self]

@[simp] theorem State.modXl_xl (s : State) (k j : Nat) (f : Xlat → Xlat) :
    (s.modXl k f).xl j = if j = k then f (s.xl k) else s.xl j := by
  simp only [State.xl, State.modXl, tget_tmod]

@[simp] theorem State.modXl_frame (s : State) (k : Nat) (f : Xlat → Xlat) :
    (s.modXl k f).pending = s.pending ∧ (s.modXl k f).now = s.now ∧ (s.modXl k f).freeIx = s.freeIx ∧
    (s.modXl k f).nextId = s.nextId ∧ (s.modXl k f).sent = s.sent ∧ (s.modXl k f).pins = s.pins ∧ (s.modXl k
    f).float = s.float ∧ (s.modXl k f).boot = s.boot ∧ (s.modXl k f).rstCtl = s.rstCtl ∧ (s.modXl k
    f).rstStatus = s.rstStatus ∧ (s.modXl k f).therm = s.therm ∧ (s.modXl k f).vent = s.vent ∧ (s.modXl k
    f).pkg = s.pkg ∧ (s.modXl k f).dies = s.dies ∧ (s.modXl k f).laneDies = s.laneDies ∧ (s.modXl k f).lanes
    = s.lanes ∧ (s.modXl k f).ports = s.ports ∧ (s.modXl k f).routing = s.routing ∧ (s.modXl k f).inPkts =
    s.inPkts ∧ (s.modXl k f).pktCnt = s.pktCnt ∧ (s.modXl k f).portCfg = s.portCfg ∧ (s.modXl k f).keys =
    s.keys ∧ (s.modXl k f).fabric = s.fabric ∧ (s.modXl k f).tiles = s.tiles ∧ (s.modXl k f).admitted =
    s.admitted ∧ (s.modXl k f).hodPort = s.hodPort ∧ (s.modXl k f).portCnt = s.portCnt ∧ (s.modXl k f).sched
    = s.sched ∧ (s.modXl k f).fqCfg = s.fqCfg ∧ (s.modXl k f).fqRun = s.fqRun ∧ (s.modXl k f).calSh =
    s.calSh ∧ (s.modXl k f).out = s.out ∧ (s.modXl k f).calderas = s.calderas ∧ (s.modXl k f).engines =
    s.engines ∧ (s.modXl k f).engMap = s.engMap ∧ (s.modXl k f).copyMap = s.copyMap ∧ (s.modXl k
    f).copyPlans = s.copyPlans ∧ (s.modXl k f).groups = s.groups ∧ (s.modXl k f).invs = s.invs ∧ (s.modXl k
    f).counters = s.counters ∧ (s.modXl k f).signals = s.signals ∧ (s.modXl k f).ftc = s.ftc ∧ (s.modXl k
    f).ndetSlice = s.ndetSlice ∧ (s.modXl k f).mgmtIn = s.mgmtIn ∧ (s.modXl k f).reports = s.reports ∧
    (s.modXl k f).host = s.host ∧ (s.modXl k f).rings = s.rings ∧ (s.modXl k f).jobs = s.jobs ∧ (s.modXl k
    f).masters = s.masters ∧ (s.modXl k f).own = s.own ∧ (s.modXl k f).recov = s.recov ∧ (s.modXl k f).trust
    = s.trust ∧ (s.modXl k f).is0 = s.is0 ∧ (s.modXl k f).is1 = s.is1 ∧ (s.modXl k f).setAt = s.setAt := by
  simp only [State.modXl, and_self]

@[simp] theorem State.modRing_ring (s : State) (k j : Nat) (f : Ring → Ring) :
    (s.modRing k f).ring j = if j = k then f (s.ring k) else s.ring j := by
  simp only [State.ring, State.modRing, tget_tmod]

@[simp] theorem State.modRing_frame (s : State) (k : Nat) (f : Ring → Ring) :
    (s.modRing k f).pending = s.pending ∧ (s.modRing k f).now = s.now ∧ (s.modRing k f).freeIx = s.freeIx ∧
    (s.modRing k f).nextId = s.nextId ∧ (s.modRing k f).sent = s.sent ∧ (s.modRing k f).pins = s.pins ∧
    (s.modRing k f).float = s.float ∧ (s.modRing k f).boot = s.boot ∧ (s.modRing k f).rstCtl = s.rstCtl ∧
    (s.modRing k f).rstStatus = s.rstStatus ∧ (s.modRing k f).therm = s.therm ∧ (s.modRing k f).vent =
    s.vent ∧ (s.modRing k f).pkg = s.pkg ∧ (s.modRing k f).dies = s.dies ∧ (s.modRing k f).laneDies =
    s.laneDies ∧ (s.modRing k f).lanes = s.lanes ∧ (s.modRing k f).ports = s.ports ∧ (s.modRing k f).routing
    = s.routing ∧ (s.modRing k f).inPkts = s.inPkts ∧ (s.modRing k f).pktCnt = s.pktCnt ∧ (s.modRing k
    f).portCfg = s.portCfg ∧ (s.modRing k f).keys = s.keys ∧ (s.modRing k f).fabric = s.fabric ∧ (s.modRing
    k f).tiles = s.tiles ∧ (s.modRing k f).admitted = s.admitted ∧ (s.modRing k f).hodPort = s.hodPort ∧
    (s.modRing k f).portCnt = s.portCnt ∧ (s.modRing k f).sched = s.sched ∧ (s.modRing k f).fqCfg = s.fqCfg
    ∧ (s.modRing k f).fqRun = s.fqRun ∧ (s.modRing k f).calSh = s.calSh ∧ (s.modRing k f).out = s.out ∧
    (s.modRing k f).calderas = s.calderas ∧ (s.modRing k f).engines = s.engines ∧ (s.modRing k f).engMap =
    s.engMap ∧ (s.modRing k f).copyMap = s.copyMap ∧ (s.modRing k f).copyPlans = s.copyPlans ∧ (s.modRing k
    f).groups = s.groups ∧ (s.modRing k f).invs = s.invs ∧ (s.modRing k f).counters = s.counters ∧
    (s.modRing k f).xlat = s.xlat ∧ (s.modRing k f).signals = s.signals ∧ (s.modRing k f).ftc = s.ftc ∧
    (s.modRing k f).ndetSlice = s.ndetSlice ∧ (s.modRing k f).mgmtIn = s.mgmtIn ∧ (s.modRing k f).reports =
    s.reports ∧ (s.modRing k f).host = s.host ∧ (s.modRing k f).jobs = s.jobs ∧ (s.modRing k f).masters =
    s.masters ∧ (s.modRing k f).own = s.own ∧ (s.modRing k f).recov = s.recov ∧ (s.modRing k f).trust =
    s.trust ∧ (s.modRing k f).is0 = s.is0 ∧ (s.modRing k f).is1 = s.is1 ∧ (s.modRing k f).setAt = s.setAt := by
  simp only [State.modRing, and_self]

@[simp] theorem State.modMaster_master (s : State) (k j : Nat) (f : MasterState → MasterState) :
    (s.modMaster k f).master j = if j = k then f (s.master k) else s.master j := by
  simp only [State.master, State.modMaster, tget_tmod]

@[simp] theorem State.modMaster_frame (s : State) (k : Nat) (f : MasterState → MasterState) :
    (s.modMaster k f).pending = s.pending ∧ (s.modMaster k f).now = s.now ∧ (s.modMaster k f).freeIx =
    s.freeIx ∧ (s.modMaster k f).nextId = s.nextId ∧ (s.modMaster k f).sent = s.sent ∧ (s.modMaster k
    f).pins = s.pins ∧ (s.modMaster k f).float = s.float ∧ (s.modMaster k f).boot = s.boot ∧ (s.modMaster k
    f).rstCtl = s.rstCtl ∧ (s.modMaster k f).rstStatus = s.rstStatus ∧ (s.modMaster k f).therm = s.therm ∧
    (s.modMaster k f).vent = s.vent ∧ (s.modMaster k f).pkg = s.pkg ∧ (s.modMaster k f).dies = s.dies ∧
    (s.modMaster k f).laneDies = s.laneDies ∧ (s.modMaster k f).lanes = s.lanes ∧ (s.modMaster k f).ports =
    s.ports ∧ (s.modMaster k f).routing = s.routing ∧ (s.modMaster k f).inPkts = s.inPkts ∧ (s.modMaster k
    f).pktCnt = s.pktCnt ∧ (s.modMaster k f).portCfg = s.portCfg ∧ (s.modMaster k f).keys = s.keys ∧
    (s.modMaster k f).fabric = s.fabric ∧ (s.modMaster k f).tiles = s.tiles ∧ (s.modMaster k f).admitted =
    s.admitted ∧ (s.modMaster k f).hodPort = s.hodPort ∧ (s.modMaster k f).portCnt = s.portCnt ∧
    (s.modMaster k f).sched = s.sched ∧ (s.modMaster k f).fqCfg = s.fqCfg ∧ (s.modMaster k f).fqRun =
    s.fqRun ∧ (s.modMaster k f).calSh = s.calSh ∧ (s.modMaster k f).out = s.out ∧ (s.modMaster k f).calderas
    = s.calderas ∧ (s.modMaster k f).engines = s.engines ∧ (s.modMaster k f).engMap = s.engMap ∧
    (s.modMaster k f).copyMap = s.copyMap ∧ (s.modMaster k f).copyPlans = s.copyPlans ∧ (s.modMaster k
    f).groups = s.groups ∧ (s.modMaster k f).invs = s.invs ∧ (s.modMaster k f).counters = s.counters ∧
    (s.modMaster k f).xlat = s.xlat ∧ (s.modMaster k f).signals = s.signals ∧ (s.modMaster k f).ftc = s.ftc
    ∧ (s.modMaster k f).ndetSlice = s.ndetSlice ∧ (s.modMaster k f).mgmtIn = s.mgmtIn ∧ (s.modMaster k
    f).reports = s.reports ∧ (s.modMaster k f).host = s.host ∧ (s.modMaster k f).rings = s.rings ∧
    (s.modMaster k f).jobs = s.jobs ∧ (s.modMaster k f).own = s.own ∧ (s.modMaster k f).recov = s.recov ∧
    (s.modMaster k f).trust = s.trust ∧ (s.modMaster k f).is0 = s.is0 ∧ (s.modMaster k f).is1 = s.is1 ∧
    (s.modMaster k f).setAt = s.setAt := by
  simp only [State.modMaster, and_self]

@[simp] theorem State.modDie_entries (s : State) (k j : Nat) (f : Die → Die) :
    (s.modDie k f).laneDie j = s.laneDie j ∧ (s.modDie k f).lane j = s.lane j ∧ (s.modDie k f).port j =
    s.port j ∧ (s.modDie k f).inPkt j = s.inPkt j ∧ (s.modDie k f).pktCntOf j = s.pktCntOf j ∧ (s.modDie k
    f).cfg j = s.cfg j ∧ (s.modDie k f).portKeys j = s.portKeys j ∧ (s.modDie k f).tile j = s.tile j ∧
    (s.modDie k f).hodCfg j = s.hodCfg j ∧ (s.modDie k f).portCntOf j = s.portCntOf j ∧ (s.modDie k
    f).schedOf j = s.schedOf j ∧ (s.modDie k f).fq j = s.fq j ∧ (s.modDie k f).fqr j = s.fqr j ∧ (s.modDie k
    f).outPort j = s.outPort j ∧ (s.modDie k f).caldera j = s.caldera j ∧ (s.modDie k f).engine j = s.engine
    j ∧ (s.modDie k f).emap j = s.emap j ∧ (s.modDie k f).group j = s.group j ∧ (s.modDie k f).inv j = s.inv
    j ∧ (s.modDie k f).ctr j = s.ctr j ∧ (s.modDie k f).xl j = s.xl j ∧ (s.modDie k f).ring j = s.ring j ∧
    (s.modDie k f).master j = s.master j := by
  refine ⟨rfl, rfl, rfl, rfl, rfl, rfl, rfl, rfl, rfl, rfl, rfl, rfl, rfl, rfl, rfl, rfl, rfl, rfl, rfl, rfl, rfl, rfl, rfl⟩

@[simp] theorem State.modLaneDie_entries (s : State) (k j : Nat) (f : LaneDie → LaneDie) :
    (s.modLaneDie k f).die j = s.die j ∧ (s.modLaneDie k f).lane j = s.lane j ∧ (s.modLaneDie k f).port j =
    s.port j ∧ (s.modLaneDie k f).inPkt j = s.inPkt j ∧ (s.modLaneDie k f).pktCntOf j = s.pktCntOf j ∧
    (s.modLaneDie k f).cfg j = s.cfg j ∧ (s.modLaneDie k f).portKeys j = s.portKeys j ∧ (s.modLaneDie k
    f).tile j = s.tile j ∧ (s.modLaneDie k f).hodCfg j = s.hodCfg j ∧ (s.modLaneDie k f).portCntOf j =
    s.portCntOf j ∧ (s.modLaneDie k f).schedOf j = s.schedOf j ∧ (s.modLaneDie k f).fq j = s.fq j ∧
    (s.modLaneDie k f).fqr j = s.fqr j ∧ (s.modLaneDie k f).outPort j = s.outPort j ∧ (s.modLaneDie k
    f).caldera j = s.caldera j ∧ (s.modLaneDie k f).engine j = s.engine j ∧ (s.modLaneDie k f).emap j =
    s.emap j ∧ (s.modLaneDie k f).group j = s.group j ∧ (s.modLaneDie k f).inv j = s.inv j ∧ (s.modLaneDie k
    f).ctr j = s.ctr j ∧ (s.modLaneDie k f).xl j = s.xl j ∧ (s.modLaneDie k f).ring j = s.ring j ∧
    (s.modLaneDie k f).master j = s.master j := by
  refine ⟨rfl, rfl, rfl, rfl, rfl, rfl, rfl, rfl, rfl, rfl, rfl, rfl, rfl, rfl, rfl, rfl, rfl, rfl, rfl, rfl, rfl, rfl, rfl⟩

@[simp] theorem State.modLane_entries (s : State) (k j : Nat) (f : Lane → Lane) :
    (s.modLane k f).die j = s.die j ∧ (s.modLane k f).laneDie j = s.laneDie j ∧ (s.modLane k f).port j =
    s.port j ∧ (s.modLane k f).inPkt j = s.inPkt j ∧ (s.modLane k f).pktCntOf j = s.pktCntOf j ∧ (s.modLane
    k f).cfg j = s.cfg j ∧ (s.modLane k f).portKeys j = s.portKeys j ∧ (s.modLane k f).tile j = s.tile j ∧
    (s.modLane k f).hodCfg j = s.hodCfg j ∧ (s.modLane k f).portCntOf j = s.portCntOf j ∧ (s.modLane k
    f).schedOf j = s.schedOf j ∧ (s.modLane k f).fq j = s.fq j ∧ (s.modLane k f).fqr j = s.fqr j ∧
    (s.modLane k f).outPort j = s.outPort j ∧ (s.modLane k f).caldera j = s.caldera j ∧ (s.modLane k
    f).engine j = s.engine j ∧ (s.modLane k f).emap j = s.emap j ∧ (s.modLane k f).group j = s.group j ∧
    (s.modLane k f).inv j = s.inv j ∧ (s.modLane k f).ctr j = s.ctr j ∧ (s.modLane k f).xl j = s.xl j ∧
    (s.modLane k f).ring j = s.ring j ∧ (s.modLane k f).master j = s.master j := by
  refine ⟨rfl, rfl, rfl, rfl, rfl, rfl, rfl, rfl, rfl, rfl, rfl, rfl, rfl, rfl, rfl, rfl, rfl, rfl, rfl, rfl, rfl, rfl, rfl⟩

@[simp] theorem State.modPort_entries (s : State) (k j : Nat) (f : Port → Port) :
    (s.modPort k f).die j = s.die j ∧ (s.modPort k f).laneDie j = s.laneDie j ∧ (s.modPort k f).lane j =
    s.lane j ∧ (s.modPort k f).inPkt j = s.inPkt j ∧ (s.modPort k f).pktCntOf j = s.pktCntOf j ∧ (s.modPort
    k f).cfg j = s.cfg j ∧ (s.modPort k f).portKeys j = s.portKeys j ∧ (s.modPort k f).tile j = s.tile j ∧
    (s.modPort k f).hodCfg j = s.hodCfg j ∧ (s.modPort k f).portCntOf j = s.portCntOf j ∧ (s.modPort k
    f).schedOf j = s.schedOf j ∧ (s.modPort k f).fq j = s.fq j ∧ (s.modPort k f).fqr j = s.fqr j ∧
    (s.modPort k f).outPort j = s.outPort j ∧ (s.modPort k f).caldera j = s.caldera j ∧ (s.modPort k
    f).engine j = s.engine j ∧ (s.modPort k f).emap j = s.emap j ∧ (s.modPort k f).group j = s.group j ∧
    (s.modPort k f).inv j = s.inv j ∧ (s.modPort k f).ctr j = s.ctr j ∧ (s.modPort k f).xl j = s.xl j ∧
    (s.modPort k f).ring j = s.ring j ∧ (s.modPort k f).master j = s.master j := by
  refine ⟨rfl, rfl, rfl, rfl, rfl, rfl, rfl, rfl, rfl, rfl, rfl, rfl, rfl, rfl, rfl, rfl, rfl, rfl, rfl, rfl, rfl, rfl, rfl⟩

@[simp] theorem State.modInPkt_entries (s : State) (k j : Nat) (f : Option InPkt → Option InPkt) :
    (s.modInPkt k f).die j = s.die j ∧ (s.modInPkt k f).laneDie j = s.laneDie j ∧ (s.modInPkt k f).lane j =
    s.lane j ∧ (s.modInPkt k f).port j = s.port j ∧ (s.modInPkt k f).pktCntOf j = s.pktCntOf j ∧ (s.modInPkt
    k f).cfg j = s.cfg j ∧ (s.modInPkt k f).portKeys j = s.portKeys j ∧ (s.modInPkt k f).tile j = s.tile j ∧
    (s.modInPkt k f).hodCfg j = s.hodCfg j ∧ (s.modInPkt k f).portCntOf j = s.portCntOf j ∧ (s.modInPkt k
    f).schedOf j = s.schedOf j ∧ (s.modInPkt k f).fq j = s.fq j ∧ (s.modInPkt k f).fqr j = s.fqr j ∧
    (s.modInPkt k f).outPort j = s.outPort j ∧ (s.modInPkt k f).caldera j = s.caldera j ∧ (s.modInPkt k
    f).engine j = s.engine j ∧ (s.modInPkt k f).emap j = s.emap j ∧ (s.modInPkt k f).group j = s.group j ∧
    (s.modInPkt k f).inv j = s.inv j ∧ (s.modInPkt k f).ctr j = s.ctr j ∧ (s.modInPkt k f).xl j = s.xl j ∧
    (s.modInPkt k f).ring j = s.ring j ∧ (s.modInPkt k f).master j = s.master j := by
  refine ⟨rfl, rfl, rfl, rfl, rfl, rfl, rfl, rfl, rfl, rfl, rfl, rfl, rfl, rfl, rfl, rfl, rfl, rfl, rfl, rfl, rfl, rfl, rfl⟩

@[simp] theorem State.modPktCntOf_entries (s : State) (k j : Nat) (f : PktCnt → PktCnt) :
    (s.modPktCntOf k f).die j = s.die j ∧ (s.modPktCntOf k f).laneDie j = s.laneDie j ∧ (s.modPktCntOf k
    f).lane j = s.lane j ∧ (s.modPktCntOf k f).port j = s.port j ∧ (s.modPktCntOf k f).inPkt j = s.inPkt j ∧
    (s.modPktCntOf k f).cfg j = s.cfg j ∧ (s.modPktCntOf k f).portKeys j = s.portKeys j ∧ (s.modPktCntOf k
    f).tile j = s.tile j ∧ (s.modPktCntOf k f).hodCfg j = s.hodCfg j ∧ (s.modPktCntOf k f).portCntOf j =
    s.portCntOf j ∧ (s.modPktCntOf k f).schedOf j = s.schedOf j ∧ (s.modPktCntOf k f).fq j = s.fq j ∧
    (s.modPktCntOf k f).fqr j = s.fqr j ∧ (s.modPktCntOf k f).outPort j = s.outPort j ∧ (s.modPktCntOf k
    f).caldera j = s.caldera j ∧ (s.modPktCntOf k f).engine j = s.engine j ∧ (s.modPktCntOf k f).emap j =
    s.emap j ∧ (s.modPktCntOf k f).group j = s.group j ∧ (s.modPktCntOf k f).inv j = s.inv j ∧
    (s.modPktCntOf k f).ctr j = s.ctr j ∧ (s.modPktCntOf k f).xl j = s.xl j ∧ (s.modPktCntOf k f).ring j =
    s.ring j ∧ (s.modPktCntOf k f).master j = s.master j := by
  refine ⟨rfl, rfl, rfl, rfl, rfl, rfl, rfl, rfl, rfl, rfl, rfl, rfl, rfl, rfl, rfl, rfl, rfl, rfl, rfl, rfl, rfl, rfl, rfl⟩

@[simp] theorem State.modCfg_entries (s : State) (k j : Nat) (f : PortCfg → PortCfg) :
    (s.modCfg k f).die j = s.die j ∧ (s.modCfg k f).laneDie j = s.laneDie j ∧ (s.modCfg k f).lane j = s.lane
    j ∧ (s.modCfg k f).port j = s.port j ∧ (s.modCfg k f).inPkt j = s.inPkt j ∧ (s.modCfg k f).pktCntOf j =
    s.pktCntOf j ∧ (s.modCfg k f).portKeys j = s.portKeys j ∧ (s.modCfg k f).tile j = s.tile j ∧ (s.modCfg k
    f).hodCfg j = s.hodCfg j ∧ (s.modCfg k f).portCntOf j = s.portCntOf j ∧ (s.modCfg k f).schedOf j =
    s.schedOf j ∧ (s.modCfg k f).fq j = s.fq j ∧ (s.modCfg k f).fqr j = s.fqr j ∧ (s.modCfg k f).outPort j =
    s.outPort j ∧ (s.modCfg k f).caldera j = s.caldera j ∧ (s.modCfg k f).engine j = s.engine j ∧ (s.modCfg
    k f).emap j = s.emap j ∧ (s.modCfg k f).group j = s.group j ∧ (s.modCfg k f).inv j = s.inv j ∧ (s.modCfg
    k f).ctr j = s.ctr j ∧ (s.modCfg k f).xl j = s.xl j ∧ (s.modCfg k f).ring j = s.ring j ∧ (s.modCfg k
    f).master j = s.master j := by
  refine ⟨rfl, rfl, rfl, rfl, rfl, rfl, rfl, rfl, rfl, rfl, rfl, rfl, rfl, rfl, rfl, rfl, rfl, rfl, rfl, rfl, rfl, rfl, rfl⟩

@[simp] theorem State.modPortKeys_entries (s : State) (k j : Nat) (f : PortKeys → PortKeys) :
    (s.modPortKeys k f).die j = s.die j ∧ (s.modPortKeys k f).laneDie j = s.laneDie j ∧ (s.modPortKeys k
    f).lane j = s.lane j ∧ (s.modPortKeys k f).port j = s.port j ∧ (s.modPortKeys k f).inPkt j = s.inPkt j ∧
    (s.modPortKeys k f).pktCntOf j = s.pktCntOf j ∧ (s.modPortKeys k f).cfg j = s.cfg j ∧ (s.modPortKeys k
    f).tile j = s.tile j ∧ (s.modPortKeys k f).hodCfg j = s.hodCfg j ∧ (s.modPortKeys k f).portCntOf j =
    s.portCntOf j ∧ (s.modPortKeys k f).schedOf j = s.schedOf j ∧ (s.modPortKeys k f).fq j = s.fq j ∧
    (s.modPortKeys k f).fqr j = s.fqr j ∧ (s.modPortKeys k f).outPort j = s.outPort j ∧ (s.modPortKeys k
    f).caldera j = s.caldera j ∧ (s.modPortKeys k f).engine j = s.engine j ∧ (s.modPortKeys k f).emap j =
    s.emap j ∧ (s.modPortKeys k f).group j = s.group j ∧ (s.modPortKeys k f).inv j = s.inv j ∧
    (s.modPortKeys k f).ctr j = s.ctr j ∧ (s.modPortKeys k f).xl j = s.xl j ∧ (s.modPortKeys k f).ring j =
    s.ring j ∧ (s.modPortKeys k f).master j = s.master j := by
  refine ⟨rfl, rfl, rfl, rfl, rfl, rfl, rfl, rfl, rfl, rfl, rfl, rfl, rfl, rfl, rfl, rfl, rfl, rfl, rfl, rfl, rfl, rfl, rfl⟩

@[simp] theorem State.modTile_entries (s : State) (k j : Nat) (f : Tile → Tile) :
    (s.modTile k f).die j = s.die j ∧ (s.modTile k f).laneDie j = s.laneDie j ∧ (s.modTile k f).lane j =
    s.lane j ∧ (s.modTile k f).port j = s.port j ∧ (s.modTile k f).inPkt j = s.inPkt j ∧ (s.modTile k
    f).pktCntOf j = s.pktCntOf j ∧ (s.modTile k f).cfg j = s.cfg j ∧ (s.modTile k f).portKeys j = s.portKeys
    j ∧ (s.modTile k f).hodCfg j = s.hodCfg j ∧ (s.modTile k f).portCntOf j = s.portCntOf j ∧ (s.modTile k
    f).schedOf j = s.schedOf j ∧ (s.modTile k f).fq j = s.fq j ∧ (s.modTile k f).fqr j = s.fqr j ∧
    (s.modTile k f).outPort j = s.outPort j ∧ (s.modTile k f).caldera j = s.caldera j ∧ (s.modTile k
    f).engine j = s.engine j ∧ (s.modTile k f).emap j = s.emap j ∧ (s.modTile k f).group j = s.group j ∧
    (s.modTile k f).inv j = s.inv j ∧ (s.modTile k f).ctr j = s.ctr j ∧ (s.modTile k f).xl j = s.xl j ∧
    (s.modTile k f).ring j = s.ring j ∧ (s.modTile k f).master j = s.master j := by
  refine ⟨rfl, rfl, rfl, rfl, rfl, rfl, rfl, rfl, rfl, rfl, rfl, rfl, rfl, rfl, rfl, rfl, rfl, rfl, rfl, rfl, rfl, rfl, rfl⟩

@[simp] theorem State.modHodCfg_entries (s : State) (k j : Nat) (f : HodPortCfg → HodPortCfg) :
    (s.modHodCfg k f).die j = s.die j ∧ (s.modHodCfg k f).laneDie j = s.laneDie j ∧ (s.modHodCfg k f).lane j
    = s.lane j ∧ (s.modHodCfg k f).port j = s.port j ∧ (s.modHodCfg k f).inPkt j = s.inPkt j ∧ (s.modHodCfg
    k f).pktCntOf j = s.pktCntOf j ∧ (s.modHodCfg k f).cfg j = s.cfg j ∧ (s.modHodCfg k f).portKeys j =
    s.portKeys j ∧ (s.modHodCfg k f).tile j = s.tile j ∧ (s.modHodCfg k f).portCntOf j = s.portCntOf j ∧
    (s.modHodCfg k f).schedOf j = s.schedOf j ∧ (s.modHodCfg k f).fq j = s.fq j ∧ (s.modHodCfg k f).fqr j =
    s.fqr j ∧ (s.modHodCfg k f).outPort j = s.outPort j ∧ (s.modHodCfg k f).caldera j = s.caldera j ∧
    (s.modHodCfg k f).engine j = s.engine j ∧ (s.modHodCfg k f).emap j = s.emap j ∧ (s.modHodCfg k f).group
    j = s.group j ∧ (s.modHodCfg k f).inv j = s.inv j ∧ (s.modHodCfg k f).ctr j = s.ctr j ∧ (s.modHodCfg k
    f).xl j = s.xl j ∧ (s.modHodCfg k f).ring j = s.ring j ∧ (s.modHodCfg k f).master j = s.master j := by
  refine ⟨rfl, rfl, rfl, rfl, rfl, rfl, rfl, rfl, rfl, rfl, rfl, rfl, rfl, rfl, rfl, rfl, rfl, rfl, rfl, rfl, rfl, rfl, rfl⟩

@[simp] theorem State.modPortCntOf_entries (s : State) (k j : Nat) (f : PortCnt → PortCnt) :
    (s.modPortCntOf k f).die j = s.die j ∧ (s.modPortCntOf k f).laneDie j = s.laneDie j ∧ (s.modPortCntOf k
    f).lane j = s.lane j ∧ (s.modPortCntOf k f).port j = s.port j ∧ (s.modPortCntOf k f).inPkt j = s.inPkt j
    ∧ (s.modPortCntOf k f).pktCntOf j = s.pktCntOf j ∧ (s.modPortCntOf k f).cfg j = s.cfg j ∧
    (s.modPortCntOf k f).portKeys j = s.portKeys j ∧ (s.modPortCntOf k f).tile j = s.tile j ∧
    (s.modPortCntOf k f).hodCfg j = s.hodCfg j ∧ (s.modPortCntOf k f).schedOf j = s.schedOf j ∧
    (s.modPortCntOf k f).fq j = s.fq j ∧ (s.modPortCntOf k f).fqr j = s.fqr j ∧ (s.modPortCntOf k f).outPort
    j = s.outPort j ∧ (s.modPortCntOf k f).caldera j = s.caldera j ∧ (s.modPortCntOf k f).engine j =
    s.engine j ∧ (s.modPortCntOf k f).emap j = s.emap j ∧ (s.modPortCntOf k f).group j = s.group j ∧
    (s.modPortCntOf k f).inv j = s.inv j ∧ (s.modPortCntOf k f).ctr j = s.ctr j ∧ (s.modPortCntOf k f).xl j
    = s.xl j ∧ (s.modPortCntOf k f).ring j = s.ring j ∧ (s.modPortCntOf k f).master j = s.master j := by
  refine ⟨rfl, rfl, rfl, rfl, rfl, rfl, rfl, rfl, rfl, rfl, rfl, rfl, rfl, rfl, rfl, rfl, rfl, rfl, rfl, rfl, rfl, rfl, rfl⟩

@[simp] theorem State.modSchedOf_entries (s : State) (k j : Nat) (f : SchedCfg → SchedCfg) :
    (s.modSchedOf k f).die j = s.die j ∧ (s.modSchedOf k f).laneDie j = s.laneDie j ∧ (s.modSchedOf k
    f).lane j = s.lane j ∧ (s.modSchedOf k f).port j = s.port j ∧ (s.modSchedOf k f).inPkt j = s.inPkt j ∧
    (s.modSchedOf k f).pktCntOf j = s.pktCntOf j ∧ (s.modSchedOf k f).cfg j = s.cfg j ∧ (s.modSchedOf k
    f).portKeys j = s.portKeys j ∧ (s.modSchedOf k f).tile j = s.tile j ∧ (s.modSchedOf k f).hodCfg j =
    s.hodCfg j ∧ (s.modSchedOf k f).portCntOf j = s.portCntOf j ∧ (s.modSchedOf k f).fq j = s.fq j ∧
    (s.modSchedOf k f).fqr j = s.fqr j ∧ (s.modSchedOf k f).outPort j = s.outPort j ∧ (s.modSchedOf k
    f).caldera j = s.caldera j ∧ (s.modSchedOf k f).engine j = s.engine j ∧ (s.modSchedOf k f).emap j =
    s.emap j ∧ (s.modSchedOf k f).group j = s.group j ∧ (s.modSchedOf k f).inv j = s.inv j ∧ (s.modSchedOf k
    f).ctr j = s.ctr j ∧ (s.modSchedOf k f).xl j = s.xl j ∧ (s.modSchedOf k f).ring j = s.ring j ∧
    (s.modSchedOf k f).master j = s.master j := by
  refine ⟨rfl, rfl, rfl, rfl, rfl, rfl, rfl, rfl, rfl, rfl, rfl, rfl, rfl, rfl, rfl, rfl, rfl, rfl, rfl, rfl, rfl, rfl, rfl⟩

@[simp] theorem State.modFq_entries (s : State) (k j : Nat) (f : FqCfg → FqCfg) :
    (s.modFq k f).die j = s.die j ∧ (s.modFq k f).laneDie j = s.laneDie j ∧ (s.modFq k f).lane j = s.lane j
    ∧ (s.modFq k f).port j = s.port j ∧ (s.modFq k f).inPkt j = s.inPkt j ∧ (s.modFq k f).pktCntOf j =
    s.pktCntOf j ∧ (s.modFq k f).cfg j = s.cfg j ∧ (s.modFq k f).portKeys j = s.portKeys j ∧ (s.modFq k
    f).tile j = s.tile j ∧ (s.modFq k f).hodCfg j = s.hodCfg j ∧ (s.modFq k f).portCntOf j = s.portCntOf j ∧
    (s.modFq k f).schedOf j = s.schedOf j ∧ (s.modFq k f).fqr j = s.fqr j ∧ (s.modFq k f).outPort j =
    s.outPort j ∧ (s.modFq k f).caldera j = s.caldera j ∧ (s.modFq k f).engine j = s.engine j ∧ (s.modFq k
    f).emap j = s.emap j ∧ (s.modFq k f).group j = s.group j ∧ (s.modFq k f).inv j = s.inv j ∧ (s.modFq k
    f).ctr j = s.ctr j ∧ (s.modFq k f).xl j = s.xl j ∧ (s.modFq k f).ring j = s.ring j ∧ (s.modFq k
    f).master j = s.master j := by
  refine ⟨rfl, rfl, rfl, rfl, rfl, rfl, rfl, rfl, rfl, rfl, rfl, rfl, rfl, rfl, rfl, rfl, rfl, rfl, rfl, rfl, rfl, rfl, rfl⟩

@[simp] theorem State.modFqr_entries (s : State) (k j : Nat) (f : FqRun → FqRun) :
    (s.modFqr k f).die j = s.die j ∧ (s.modFqr k f).laneDie j = s.laneDie j ∧ (s.modFqr k f).lane j = s.lane
    j ∧ (s.modFqr k f).port j = s.port j ∧ (s.modFqr k f).inPkt j = s.inPkt j ∧ (s.modFqr k f).pktCntOf j =
    s.pktCntOf j ∧ (s.modFqr k f).cfg j = s.cfg j ∧ (s.modFqr k f).portKeys j = s.portKeys j ∧ (s.modFqr k
    f).tile j = s.tile j ∧ (s.modFqr k f).hodCfg j = s.hodCfg j ∧ (s.modFqr k f).portCntOf j = s.portCntOf j
    ∧ (s.modFqr k f).schedOf j = s.schedOf j ∧ (s.modFqr k f).fq j = s.fq j ∧ (s.modFqr k f).outPort j =
    s.outPort j ∧ (s.modFqr k f).caldera j = s.caldera j ∧ (s.modFqr k f).engine j = s.engine j ∧ (s.modFqr
    k f).emap j = s.emap j ∧ (s.modFqr k f).group j = s.group j ∧ (s.modFqr k f).inv j = s.inv j ∧ (s.modFqr
    k f).ctr j = s.ctr j ∧ (s.modFqr k f).xl j = s.xl j ∧ (s.modFqr k f).ring j = s.ring j ∧ (s.modFqr k
    f).master j = s.master j := by
  refine ⟨rfl, rfl, rfl, rfl, rfl, rfl, rfl, rfl, rfl, rfl, rfl, rfl, rfl, rfl, rfl, rfl, rfl, rfl, rfl, rfl, rfl, rfl, rfl⟩

@[simp] theorem State.modOutPort_entries (s : State) (k j : Nat) (f : OutPort → OutPort) :
    (s.modOutPort k f).die j = s.die j ∧ (s.modOutPort k f).laneDie j = s.laneDie j ∧ (s.modOutPort k
    f).lane j = s.lane j ∧ (s.modOutPort k f).port j = s.port j ∧ (s.modOutPort k f).inPkt j = s.inPkt j ∧
    (s.modOutPort k f).pktCntOf j = s.pktCntOf j ∧ (s.modOutPort k f).cfg j = s.cfg j ∧ (s.modOutPort k
    f).portKeys j = s.portKeys j ∧ (s.modOutPort k f).tile j = s.tile j ∧ (s.modOutPort k f).hodCfg j =
    s.hodCfg j ∧ (s.modOutPort k f).portCntOf j = s.portCntOf j ∧ (s.modOutPort k f).schedOf j = s.schedOf j
    ∧ (s.modOutPort k f).fq j = s.fq j ∧ (s.modOutPort k f).fqr j = s.fqr j ∧ (s.modOutPort k f).caldera j =
    s.caldera j ∧ (s.modOutPort k f).engine j = s.engine j ∧ (s.modOutPort k f).emap j = s.emap j ∧
    (s.modOutPort k f).group j = s.group j ∧ (s.modOutPort k f).inv j = s.inv j ∧ (s.modOutPort k f).ctr j =
    s.ctr j ∧ (s.modOutPort k f).xl j = s.xl j ∧ (s.modOutPort k f).ring j = s.ring j ∧ (s.modOutPort k
    f).master j = s.master j := by
  refine ⟨rfl, rfl, rfl, rfl, rfl, rfl, rfl, rfl, rfl, rfl, rfl, rfl, rfl, rfl, rfl, rfl, rfl, rfl, rfl, rfl, rfl, rfl, rfl⟩

@[simp] theorem State.modCaldera_entries (s : State) (k j : Nat) (f : Caldera → Caldera) :
    (s.modCaldera k f).die j = s.die j ∧ (s.modCaldera k f).laneDie j = s.laneDie j ∧ (s.modCaldera k
    f).lane j = s.lane j ∧ (s.modCaldera k f).port j = s.port j ∧ (s.modCaldera k f).inPkt j = s.inPkt j ∧
    (s.modCaldera k f).pktCntOf j = s.pktCntOf j ∧ (s.modCaldera k f).cfg j = s.cfg j ∧ (s.modCaldera k
    f).portKeys j = s.portKeys j ∧ (s.modCaldera k f).tile j = s.tile j ∧ (s.modCaldera k f).hodCfg j =
    s.hodCfg j ∧ (s.modCaldera k f).portCntOf j = s.portCntOf j ∧ (s.modCaldera k f).schedOf j = s.schedOf j
    ∧ (s.modCaldera k f).fq j = s.fq j ∧ (s.modCaldera k f).fqr j = s.fqr j ∧ (s.modCaldera k f).outPort j =
    s.outPort j ∧ (s.modCaldera k f).engine j = s.engine j ∧ (s.modCaldera k f).emap j = s.emap j ∧
    (s.modCaldera k f).group j = s.group j ∧ (s.modCaldera k f).inv j = s.inv j ∧ (s.modCaldera k f).ctr j =
    s.ctr j ∧ (s.modCaldera k f).xl j = s.xl j ∧ (s.modCaldera k f).ring j = s.ring j ∧ (s.modCaldera k
    f).master j = s.master j := by
  refine ⟨rfl, rfl, rfl, rfl, rfl, rfl, rfl, rfl, rfl, rfl, rfl, rfl, rfl, rfl, rfl, rfl, rfl, rfl, rfl, rfl, rfl, rfl, rfl⟩

@[simp] theorem State.modEngine_entries (s : State) (k j : Nat) (f : Engine → Engine) :
    (s.modEngine k f).die j = s.die j ∧ (s.modEngine k f).laneDie j = s.laneDie j ∧ (s.modEngine k f).lane j
    = s.lane j ∧ (s.modEngine k f).port j = s.port j ∧ (s.modEngine k f).inPkt j = s.inPkt j ∧ (s.modEngine
    k f).pktCntOf j = s.pktCntOf j ∧ (s.modEngine k f).cfg j = s.cfg j ∧ (s.modEngine k f).portKeys j =
    s.portKeys j ∧ (s.modEngine k f).tile j = s.tile j ∧ (s.modEngine k f).hodCfg j = s.hodCfg j ∧
    (s.modEngine k f).portCntOf j = s.portCntOf j ∧ (s.modEngine k f).schedOf j = s.schedOf j ∧ (s.modEngine
    k f).fq j = s.fq j ∧ (s.modEngine k f).fqr j = s.fqr j ∧ (s.modEngine k f).outPort j = s.outPort j ∧
    (s.modEngine k f).caldera j = s.caldera j ∧ (s.modEngine k f).emap j = s.emap j ∧ (s.modEngine k
    f).group j = s.group j ∧ (s.modEngine k f).inv j = s.inv j ∧ (s.modEngine k f).ctr j = s.ctr j ∧
    (s.modEngine k f).xl j = s.xl j ∧ (s.modEngine k f).ring j = s.ring j ∧ (s.modEngine k f).master j =
    s.master j := by
  refine ⟨rfl, rfl, rfl, rfl, rfl, rfl, rfl, rfl, rfl, rfl, rfl, rfl, rfl, rfl, rfl, rfl, rfl, rfl, rfl, rfl, rfl, rfl, rfl⟩

@[simp] theorem State.modEmap_entries (s : State) (k j : Nat) (f : EngMap → EngMap) :
    (s.modEmap k f).die j = s.die j ∧ (s.modEmap k f).laneDie j = s.laneDie j ∧ (s.modEmap k f).lane j =
    s.lane j ∧ (s.modEmap k f).port j = s.port j ∧ (s.modEmap k f).inPkt j = s.inPkt j ∧ (s.modEmap k
    f).pktCntOf j = s.pktCntOf j ∧ (s.modEmap k f).cfg j = s.cfg j ∧ (s.modEmap k f).portKeys j = s.portKeys
    j ∧ (s.modEmap k f).tile j = s.tile j ∧ (s.modEmap k f).hodCfg j = s.hodCfg j ∧ (s.modEmap k
    f).portCntOf j = s.portCntOf j ∧ (s.modEmap k f).schedOf j = s.schedOf j ∧ (s.modEmap k f).fq j = s.fq j
    ∧ (s.modEmap k f).fqr j = s.fqr j ∧ (s.modEmap k f).outPort j = s.outPort j ∧ (s.modEmap k f).caldera j
    = s.caldera j ∧ (s.modEmap k f).engine j = s.engine j ∧ (s.modEmap k f).group j = s.group j ∧ (s.modEmap
    k f).inv j = s.inv j ∧ (s.modEmap k f).ctr j = s.ctr j ∧ (s.modEmap k f).xl j = s.xl j ∧ (s.modEmap k
    f).ring j = s.ring j ∧ (s.modEmap k f).master j = s.master j := by
  refine ⟨rfl, rfl, rfl, rfl, rfl, rfl, rfl, rfl, rfl, rfl, rfl, rfl, rfl, rfl, rfl, rfl, rfl, rfl, rfl, rfl, rfl, rfl, rfl⟩

@[simp] theorem State.modGroup_entries (s : State) (k j : Nat) (f : Group → Group) :
    (s.modGroup k f).die j = s.die j ∧ (s.modGroup k f).laneDie j = s.laneDie j ∧ (s.modGroup k f).lane j =
    s.lane j ∧ (s.modGroup k f).port j = s.port j ∧ (s.modGroup k f).inPkt j = s.inPkt j ∧ (s.modGroup k
    f).pktCntOf j = s.pktCntOf j ∧ (s.modGroup k f).cfg j = s.cfg j ∧ (s.modGroup k f).portKeys j =
    s.portKeys j ∧ (s.modGroup k f).tile j = s.tile j ∧ (s.modGroup k f).hodCfg j = s.hodCfg j ∧ (s.modGroup
    k f).portCntOf j = s.portCntOf j ∧ (s.modGroup k f).schedOf j = s.schedOf j ∧ (s.modGroup k f).fq j =
    s.fq j ∧ (s.modGroup k f).fqr j = s.fqr j ∧ (s.modGroup k f).outPort j = s.outPort j ∧ (s.modGroup k
    f).caldera j = s.caldera j ∧ (s.modGroup k f).engine j = s.engine j ∧ (s.modGroup k f).emap j = s.emap j
    ∧ (s.modGroup k f).inv j = s.inv j ∧ (s.modGroup k f).ctr j = s.ctr j ∧ (s.modGroup k f).xl j = s.xl j ∧
    (s.modGroup k f).ring j = s.ring j ∧ (s.modGroup k f).master j = s.master j := by
  refine ⟨rfl, rfl, rfl, rfl, rfl, rfl, rfl, rfl, rfl, rfl, rfl, rfl, rfl, rfl, rfl, rfl, rfl, rfl, rfl, rfl, rfl, rfl, rfl⟩

@[simp] theorem State.modInv_entries (s : State) (k j : Nat) (f : Option Inv → Option Inv) :
    (s.modInv k f).die j = s.die j ∧ (s.modInv k f).laneDie j = s.laneDie j ∧ (s.modInv k f).lane j = s.lane
    j ∧ (s.modInv k f).port j = s.port j ∧ (s.modInv k f).inPkt j = s.inPkt j ∧ (s.modInv k f).pktCntOf j =
    s.pktCntOf j ∧ (s.modInv k f).cfg j = s.cfg j ∧ (s.modInv k f).portKeys j = s.portKeys j ∧ (s.modInv k
    f).tile j = s.tile j ∧ (s.modInv k f).hodCfg j = s.hodCfg j ∧ (s.modInv k f).portCntOf j = s.portCntOf j
    ∧ (s.modInv k f).schedOf j = s.schedOf j ∧ (s.modInv k f).fq j = s.fq j ∧ (s.modInv k f).fqr j = s.fqr j
    ∧ (s.modInv k f).outPort j = s.outPort j ∧ (s.modInv k f).caldera j = s.caldera j ∧ (s.modInv k
    f).engine j = s.engine j ∧ (s.modInv k f).emap j = s.emap j ∧ (s.modInv k f).group j = s.group j ∧
    (s.modInv k f).ctr j = s.ctr j ∧ (s.modInv k f).xl j = s.xl j ∧ (s.modInv k f).ring j = s.ring j ∧
    (s.modInv k f).master j = s.master j := by
  refine ⟨rfl, rfl, rfl, rfl, rfl, rfl, rfl, rfl, rfl, rfl, rfl, rfl, rfl, rfl, rfl, rfl, rfl, rfl, rfl, rfl, rfl, rfl, rfl⟩

@[simp] theorem State.modCtr_entries (s : State) (k j : Nat) (f : Counter → Counter) :
    (s.modCtr k f).die j = s.die j ∧ (s.modCtr k f).laneDie j = s.laneDie j ∧ (s.modCtr k f).lane j = s.lane
    j ∧ (s.modCtr k f).port j = s.port j ∧ (s.modCtr k f).inPkt j = s.inPkt j ∧ (s.modCtr k f).pktCntOf j =
    s.pktCntOf j ∧ (s.modCtr k f).cfg j = s.cfg j ∧ (s.modCtr k f).portKeys j = s.portKeys j ∧ (s.modCtr k
    f).tile j = s.tile j ∧ (s.modCtr k f).hodCfg j = s.hodCfg j ∧ (s.modCtr k f).portCntOf j = s.portCntOf j
    ∧ (s.modCtr k f).schedOf j = s.schedOf j ∧ (s.modCtr k f).fq j = s.fq j ∧ (s.modCtr k f).fqr j = s.fqr j
    ∧ (s.modCtr k f).outPort j = s.outPort j ∧ (s.modCtr k f).caldera j = s.caldera j ∧ (s.modCtr k
    f).engine j = s.engine j ∧ (s.modCtr k f).emap j = s.emap j ∧ (s.modCtr k f).group j = s.group j ∧
    (s.modCtr k f).inv j = s.inv j ∧ (s.modCtr k f).xl j = s.xl j ∧ (s.modCtr k f).ring j = s.ring j ∧
    (s.modCtr k f).master j = s.master j := by
  refine ⟨rfl, rfl, rfl, rfl, rfl, rfl, rfl, rfl, rfl, rfl, rfl, rfl, rfl, rfl, rfl, rfl, rfl, rfl, rfl, rfl, rfl, rfl, rfl⟩

@[simp] theorem State.modXl_entries (s : State) (k j : Nat) (f : Xlat → Xlat) :
    (s.modXl k f).die j = s.die j ∧ (s.modXl k f).laneDie j = s.laneDie j ∧ (s.modXl k f).lane j = s.lane j
    ∧ (s.modXl k f).port j = s.port j ∧ (s.modXl k f).inPkt j = s.inPkt j ∧ (s.modXl k f).pktCntOf j =
    s.pktCntOf j ∧ (s.modXl k f).cfg j = s.cfg j ∧ (s.modXl k f).portKeys j = s.portKeys j ∧ (s.modXl k
    f).tile j = s.tile j ∧ (s.modXl k f).hodCfg j = s.hodCfg j ∧ (s.modXl k f).portCntOf j = s.portCntOf j ∧
    (s.modXl k f).schedOf j = s.schedOf j ∧ (s.modXl k f).fq j = s.fq j ∧ (s.modXl k f).fqr j = s.fqr j ∧
    (s.modXl k f).outPort j = s.outPort j ∧ (s.modXl k f).caldera j = s.caldera j ∧ (s.modXl k f).engine j =
    s.engine j ∧ (s.modXl k f).emap j = s.emap j ∧ (s.modXl k f).group j = s.group j ∧ (s.modXl k f).inv j =
    s.inv j ∧ (s.modXl k f).ctr j = s.ctr j ∧ (s.modXl k f).ring j = s.ring j ∧ (s.modXl k f).master j =
    s.master j := by
  refine ⟨rfl, rfl, rfl, rfl, rfl, rfl, rfl, rfl, rfl, rfl, rfl, rfl, rfl, rfl, rfl, rfl, rfl, rfl, rfl, rfl, rfl, rfl, rfl⟩

@[simp] theorem State.modRing_entries (s : State) (k j : Nat) (f : Ring → Ring) :
    (s.modRing k f).die j = s.die j ∧ (s.modRing k f).laneDie j = s.laneDie j ∧ (s.modRing k f).lane j =
    s.lane j ∧ (s.modRing k f).port j = s.port j ∧ (s.modRing k f).inPkt j = s.inPkt j ∧ (s.modRing k
    f).pktCntOf j = s.pktCntOf j ∧ (s.modRing k f).cfg j = s.cfg j ∧ (s.modRing k f).portKeys j = s.portKeys
    j ∧ (s.modRing k f).tile j = s.tile j ∧ (s.modRing k f).hodCfg j = s.hodCfg j ∧ (s.modRing k
    f).portCntOf j = s.portCntOf j ∧ (s.modRing k f).schedOf j = s.schedOf j ∧ (s.modRing k f).fq j = s.fq j
    ∧ (s.modRing k f).fqr j = s.fqr j ∧ (s.modRing k f).outPort j = s.outPort j ∧ (s.modRing k f).caldera j
    = s.caldera j ∧ (s.modRing k f).engine j = s.engine j ∧ (s.modRing k f).emap j = s.emap j ∧ (s.modRing k
    f).group j = s.group j ∧ (s.modRing k f).inv j = s.inv j ∧ (s.modRing k f).ctr j = s.ctr j ∧ (s.modRing
    k f).xl j = s.xl j ∧ (s.modRing k f).master j = s.master j := by
  refine ⟨rfl, rfl, rfl, rfl, rfl, rfl, rfl, rfl, rfl, rfl, rfl, rfl, rfl, rfl, rfl, rfl, rfl, rfl, rfl, rfl, rfl, rfl, rfl⟩

@[simp] theorem State.modMaster_entries (s : State) (k j : Nat) (f : MasterState → MasterState) :
    (s.modMaster k f).die j = s.die j ∧ (s.modMaster k f).laneDie j = s.laneDie j ∧ (s.modMaster k f).lane j
    = s.lane j ∧ (s.modMaster k f).port j = s.port j ∧ (s.modMaster k f).inPkt j = s.inPkt j ∧ (s.modMaster
    k f).pktCntOf j = s.pktCntOf j ∧ (s.modMaster k f).cfg j = s.cfg j ∧ (s.modMaster k f).portKeys j =
    s.portKeys j ∧ (s.modMaster k f).tile j = s.tile j ∧ (s.modMaster k f).hodCfg j = s.hodCfg j ∧
    (s.modMaster k f).portCntOf j = s.portCntOf j ∧ (s.modMaster k f).schedOf j = s.schedOf j ∧ (s.modMaster
    k f).fq j = s.fq j ∧ (s.modMaster k f).fqr j = s.fqr j ∧ (s.modMaster k f).outPort j = s.outPort j ∧
    (s.modMaster k f).caldera j = s.caldera j ∧ (s.modMaster k f).engine j = s.engine j ∧ (s.modMaster k
    f).emap j = s.emap j ∧ (s.modMaster k f).group j = s.group j ∧ (s.modMaster k f).inv j = s.inv j ∧
    (s.modMaster k f).ctr j = s.ctr j ∧ (s.modMaster k f).xl j = s.xl j ∧ (s.modMaster k f).ring j = s.ring
    j := by
  refine ⟨rfl, rfl, rfl, rfl, rfl, rfl, rfl, rfl, rfl, rfl, rfl, rfl, rfl, rfl, rfl, rfl, rfl, rfl, rfl, rfl, rfl, rfl, rfl⟩

@[simp] theorem State.tick_frame (s : State) (t : Nat) :
    (s.tick t).pending = s.pending ∧ (s.tick t).freeIx = s.freeIx ∧ (s.tick t).nextId = s.nextId ∧ (s.tick
    t).sent = s.sent ∧ (s.tick t).pins = s.pins ∧ (s.tick t).float = s.float ∧ (s.tick t).boot = s.boot ∧
    (s.tick t).rstCtl = s.rstCtl ∧ (s.tick t).rstStatus = s.rstStatus ∧ (s.tick t).therm = s.therm ∧ (s.tick
    t).vent = s.vent ∧ (s.tick t).pkg = s.pkg ∧ (s.tick t).dies = s.dies ∧ (s.tick t).laneDies = s.laneDies
    ∧ (s.tick t).lanes = s.lanes ∧ (s.tick t).ports = s.ports ∧ (s.tick t).routing = s.routing ∧ (s.tick
    t).inPkts = s.inPkts ∧ (s.tick t).pktCnt = s.pktCnt ∧ (s.tick t).portCfg = s.portCfg ∧ (s.tick t).keys =
    s.keys ∧ (s.tick t).fabric = s.fabric ∧ (s.tick t).tiles = s.tiles ∧ (s.tick t).admitted = s.admitted ∧
    (s.tick t).hodPort = s.hodPort ∧ (s.tick t).portCnt = s.portCnt ∧ (s.tick t).sched = s.sched ∧ (s.tick
    t).fqCfg = s.fqCfg ∧ (s.tick t).fqRun = s.fqRun ∧ (s.tick t).calSh = s.calSh ∧ (s.tick t).out = s.out ∧
    (s.tick t).calderas = s.calderas ∧ (s.tick t).engines = s.engines ∧ (s.tick t).engMap = s.engMap ∧
    (s.tick t).copyMap = s.copyMap ∧ (s.tick t).copyPlans = s.copyPlans ∧ (s.tick t).groups = s.groups ∧
    (s.tick t).invs = s.invs ∧ (s.tick t).counters = s.counters ∧ (s.tick t).xlat = s.xlat ∧ (s.tick
    t).signals = s.signals ∧ (s.tick t).ftc = s.ftc ∧ (s.tick t).ndetSlice = s.ndetSlice ∧ (s.tick t).mgmtIn
    = s.mgmtIn ∧ (s.tick t).reports = s.reports ∧ (s.tick t).host = s.host ∧ (s.tick t).rings = s.rings ∧
    (s.tick t).jobs = s.jobs ∧ (s.tick t).masters = s.masters ∧ (s.tick t).own = s.own ∧ (s.tick t).recov =
    s.recov ∧ (s.tick t).trust = s.trust ∧ (s.tick t).is0 = s.is0 ∧ (s.tick t).is1 = s.is1 ∧ (s.tick
    t).setAt = s.setAt := by
  refine ⟨rfl, rfl, rfl, rfl, rfl, rfl, rfl, rfl, rfl, rfl, rfl, rfl, rfl, rfl, rfl, rfl, rfl, rfl, rfl, rfl, rfl, rfl, rfl, rfl, rfl, rfl, rfl, rfl, rfl, rfl, rfl, rfl, rfl, rfl, rfl, rfl, rfl, rfl, rfl, rfl, rfl, rfl, rfl, rfl, rfl, rfl, rfl, rfl, rfl, rfl, rfl, rfl, rfl, rfl, rfl⟩

@[simp] theorem State.tick_now (s : State) (t : Nat) : (s.tick t).now = max s.now t := rfl

@[simp] theorem State.emit_frame (s : State) (x : Sent) :
    (s.emit x).pending = s.pending ∧ (s.emit x).now = s.now ∧ (s.emit x).freeIx = s.freeIx ∧ (s.emit
    x).nextId = s.nextId ∧ (s.emit x).pins = s.pins ∧ (s.emit x).float = s.float ∧ (s.emit x).boot = s.boot
    ∧ (s.emit x).rstCtl = s.rstCtl ∧ (s.emit x).rstStatus = s.rstStatus ∧ (s.emit x).therm = s.therm ∧
    (s.emit x).vent = s.vent ∧ (s.emit x).pkg = s.pkg ∧ (s.emit x).dies = s.dies ∧ (s.emit x).laneDies =
    s.laneDies ∧ (s.emit x).lanes = s.lanes ∧ (s.emit x).ports = s.ports ∧ (s.emit x).routing = s.routing ∧
    (s.emit x).inPkts = s.inPkts ∧ (s.emit x).pktCnt = s.pktCnt ∧ (s.emit x).portCfg = s.portCfg ∧ (s.emit
    x).keys = s.keys ∧ (s.emit x).fabric = s.fabric ∧ (s.emit x).tiles = s.tiles ∧ (s.emit x).admitted =
    s.admitted ∧ (s.emit x).hodPort = s.hodPort ∧ (s.emit x).portCnt = s.portCnt ∧ (s.emit x).sched =
    s.sched ∧ (s.emit x).fqCfg = s.fqCfg ∧ (s.emit x).fqRun = s.fqRun ∧ (s.emit x).calSh = s.calSh ∧ (s.emit
    x).out = s.out ∧ (s.emit x).calderas = s.calderas ∧ (s.emit x).engines = s.engines ∧ (s.emit x).engMap =
    s.engMap ∧ (s.emit x).copyMap = s.copyMap ∧ (s.emit x).copyPlans = s.copyPlans ∧ (s.emit x).groups =
    s.groups ∧ (s.emit x).invs = s.invs ∧ (s.emit x).counters = s.counters ∧ (s.emit x).xlat = s.xlat ∧
    (s.emit x).signals = s.signals ∧ (s.emit x).ftc = s.ftc ∧ (s.emit x).ndetSlice = s.ndetSlice ∧ (s.emit
    x).mgmtIn = s.mgmtIn ∧ (s.emit x).reports = s.reports ∧ (s.emit x).host = s.host ∧ (s.emit x).rings =
    s.rings ∧ (s.emit x).jobs = s.jobs ∧ (s.emit x).masters = s.masters ∧ (s.emit x).own = s.own ∧ (s.emit
    x).recov = s.recov ∧ (s.emit x).trust = s.trust ∧ (s.emit x).is0 = s.is0 ∧ (s.emit x).is1 = s.is1 ∧
    (s.emit x).setAt = s.setAt := by
  refine ⟨rfl, rfl, rfl, rfl, rfl, rfl, rfl, rfl, rfl, rfl, rfl, rfl, rfl, rfl, rfl, rfl, rfl, rfl, rfl, rfl, rfl, rfl, rfl, rfl, rfl, rfl, rfl, rfl, rfl, rfl, rfl, rfl, rfl, rfl, rfl, rfl, rfl, rfl, rfl, rfl, rfl, rfl, rfl, rfl, rfl, rfl, rfl, rfl, rfl, rfl, rfl, rfl, rfl, rfl, rfl⟩

@[simp] theorem State.emit_sent (s : State) (x : Sent) : (s.emit x).sent = x :: s.sent := rfl

@[simp] theorem State.refuseWrite_frame (s : State) (m : Nat) :
    (s.refuseWrite m).pending = s.pending ∧ (s.refuseWrite m).now = s.now ∧ (s.refuseWrite m).freeIx =
    s.freeIx ∧ (s.refuseWrite m).nextId = s.nextId ∧ (s.refuseWrite m).sent = s.sent ∧ (s.refuseWrite
    m).pins = s.pins ∧ (s.refuseWrite m).float = s.float ∧ (s.refuseWrite m).boot = s.boot ∧ (s.refuseWrite
    m).rstCtl = s.rstCtl ∧ (s.refuseWrite m).rstStatus = s.rstStatus ∧ (s.refuseWrite m).therm = s.therm ∧
    (s.refuseWrite m).vent = s.vent ∧ (s.refuseWrite m).pkg = s.pkg ∧ (s.refuseWrite m).dies = s.dies ∧
    (s.refuseWrite m).laneDies = s.laneDies ∧ (s.refuseWrite m).lanes = s.lanes ∧ (s.refuseWrite m).ports =
    s.ports ∧ (s.refuseWrite m).routing = s.routing ∧ (s.refuseWrite m).inPkts = s.inPkts ∧ (s.refuseWrite
    m).pktCnt = s.pktCnt ∧ (s.refuseWrite m).portCfg = s.portCfg ∧ (s.refuseWrite m).keys = s.keys ∧
    (s.refuseWrite m).fabric = s.fabric ∧ (s.refuseWrite m).tiles = s.tiles ∧ (s.refuseWrite m).admitted =
    s.admitted ∧ (s.refuseWrite m).hodPort = s.hodPort ∧ (s.refuseWrite m).portCnt = s.portCnt ∧
    (s.refuseWrite m).sched = s.sched ∧ (s.refuseWrite m).fqCfg = s.fqCfg ∧ (s.refuseWrite m).fqRun =
    s.fqRun ∧ (s.refuseWrite m).calSh = s.calSh ∧ (s.refuseWrite m).out = s.out ∧ (s.refuseWrite m).calderas
    = s.calderas ∧ (s.refuseWrite m).engines = s.engines ∧ (s.refuseWrite m).engMap = s.engMap ∧
    (s.refuseWrite m).copyMap = s.copyMap ∧ (s.refuseWrite m).copyPlans = s.copyPlans ∧ (s.refuseWrite
    m).groups = s.groups ∧ (s.refuseWrite m).invs = s.invs ∧ (s.refuseWrite m).counters = s.counters ∧
    (s.refuseWrite m).xlat = s.xlat ∧ (s.refuseWrite m).signals = s.signals ∧ (s.refuseWrite m).ftc = s.ftc
    ∧ (s.refuseWrite m).ndetSlice = s.ndetSlice ∧ (s.refuseWrite m).mgmtIn = s.mgmtIn ∧ (s.refuseWrite
    m).reports = s.reports ∧ (s.refuseWrite m).host = s.host ∧ (s.refuseWrite m).rings = s.rings ∧
    (s.refuseWrite m).jobs = s.jobs ∧ (s.refuseWrite m).own = s.own ∧ (s.refuseWrite m).recov = s.recov ∧
    (s.refuseWrite m).trust = s.trust ∧ (s.refuseWrite m).is0 = s.is0 ∧ (s.refuseWrite m).is1 = s.is1 ∧
    (s.refuseWrite m).setAt = s.setAt := by
  refine ⟨rfl, rfl, rfl, rfl, rfl, rfl, rfl, rfl, rfl, rfl, rfl, rfl, rfl, rfl, rfl, rfl, rfl, rfl, rfl, rfl, rfl, rfl, rfl, rfl, rfl, rfl, rfl, rfl, rfl, rfl, rfl, rfl, rfl, rfl, rfl, rfl, rfl, rfl, rfl, rfl, rfl, rfl, rfl, rfl, rfl, rfl, rfl, rfl, rfl, rfl, rfl, rfl, rfl, rfl, rfl⟩

@[simp] theorem State.tick_entries (s : State) (t : Nat) :
    (s.tick t).die = s.die ∧ (s.tick t).laneDie = s.laneDie ∧ (s.tick t).lane = s.lane ∧ (s.tick t).port =
    s.port ∧ (s.tick t).inPkt = s.inPkt ∧ (s.tick t).pktCntOf = s.pktCntOf ∧ (s.tick t).cfg = s.cfg ∧
    (s.tick t).portKeys = s.portKeys ∧ (s.tick t).tile = s.tile ∧ (s.tick t).hodCfg = s.hodCfg ∧ (s.tick
    t).portCntOf = s.portCntOf ∧ (s.tick t).schedOf = s.schedOf ∧ (s.tick t).fq = s.fq ∧ (s.tick t).fqr =
    s.fqr ∧ (s.tick t).outPort = s.outPort ∧ (s.tick t).caldera = s.caldera ∧ (s.tick t).engine = s.engine ∧
    (s.tick t).emap = s.emap ∧ (s.tick t).group = s.group ∧ (s.tick t).inv = s.inv ∧ (s.tick t).ctr = s.ctr
    ∧ (s.tick t).xl = s.xl ∧ (s.tick t).ring = s.ring ∧ (s.tick t).master = s.master := by
  refine ⟨rfl, rfl, rfl, rfl, rfl, rfl, rfl, rfl, rfl, rfl, rfl, rfl, rfl, rfl, rfl, rfl, rfl, rfl, rfl, rfl, rfl, rfl, rfl, rfl⟩

end Sys2Proof.Machine
end

