-- ==== Sys2Proof/Laws/Run.lean ====
section
/-! SUPPORT. What the shared operations can do, said once for each: running a command, doing something for
each element, writes that only the owner makes, accesses to a die, and what posts to the outside: host writes,
ring records, events, interrupts, completions and responses touch the host attach, the rings, the masters'
areas and what has been sent, and nothing else. -/

namespace Sys2Proof.Machine

/-! ## Running a command -/

theorem runPin_next {ok : Bool} (h : ok = true) (t : Nat) (f : State → State) (s : State) :
    runPin ok t f s = .next { f (s.tick t) with pending := s.pending, now := max s.now t } := by simp [runPin, h]

/-- A command out of reset answers what its effect gives. -/
theorem run_next {ok : Bool} (h : ok = true) (t : Nat) (f : State → State) (s : State) (r : s.boot.row ≠ .held) :
    run ok t f s = .next { f (s.tick t) with pending := s.pending, now := max s.now t } := by
  have g : ((s.tick t).boot.row != Row.held) = true := by simpa using r
  rw [run, runPin_next h]
  simp only [State.when, g, if_true]

/-- While the package is held in reset a command changes nothing but the time. -/
theorem run_held {ok : Bool} (h : ok = true) (t : Nat) (f : State → State) (s : State) (r : s.boot.row = .held) :
    run ok t f s = .next (s.tick t) := by
  have g : ((s.tick t).boot.row != Row.held) = false := by simpa using r
  rw [run, runPin_next h]
  simp only [State.when, g, Bool.false_eq_true, if_false]
  rfl

theorem runPin_fault {ok : Bool} (h : ok = false) (t : Nat) (f : State → State) (s : State) :
    runPin ok t f s = .fault .illFormed := by simp [runPin, h]

theorem run_fault {ok : Bool} (h : ok = false) (t : Nat) (f : State → State) (s : State) :
    run ok t f s = .fault .illFormed := runPin_fault h t _ s

/-- A command whose operands are in range answers what its effect gives, held in reset or not. -/
theorem answers_runPin {i : Instr} {s : State} {P : State → Prop} {ok : Bool} {t : Nat} {f : State → State}
    (e : exec i s = runPin ok t f s) (h : ok = true)
    (hp : P { f (s.tick t) with pending := s.pending, now := max s.now t }) : Answers i s P :=
  ⟨_, e.trans (runPin_next h t f s), hp⟩

/-- A command whose operands are in range answers what its effect gives, out of reset. -/
theorem runs_run {i : Instr} {s : State} {P : State → Prop} {ok : Bool} {t : Nat} {f : State → State}
    (e : exec i s = run ok t f s) (h : ok = true)
    (hp : P { f (s.tick t) with pending := s.pending, now := max s.now t }) : Runs i s P :=
  fun r => ⟨_, e.trans (run_next h t f s r), hp⟩

/-- A command that acts on one die where the die runs. -/
theorem onDie_runs {d : Nat} {s : State} (h : s.dieRuns d = true) (f : State → State) : onDie d f s = f s := by
  simp [onDie, State.when, h]

theorem onDie_stands {d : Nat} {s : State} (h : s.dieRuns d = false) (f : State → State) : onDie d f s = s := by
  simp [onDie, State.when, h]

/-- An answer has any property that follows from one it has. -/
theorem Answers.imp {i : Instr} {s : State} {P Q : State → Prop} (h : Answers i s P) (pq : ∀ s', P s' → Q s') :
    Answers i s Q := by
  obtain ⟨s', e, hp⟩ := h
  exact ⟨s', e, pq s' hp⟩

theorem Runs.imp {i : Instr} {s : State} {P Q : State → Prop} (h : Runs i s P) (pq : ∀ s', P s' → Q s') : Runs i s Q :=
  fun r => (h r).imp pq

/-- A property that one pass keeps holds after all of them. -/
theorem forEach_ind {α : Type} (P : State → Prop) (l : List α) (f : State → α → State) (s : State)
    (h0 : P s) (hs : ∀ x a, a ∈ l → P x → P (f x a)) : P (s.forEach l f) := by
  unfold State.forEach
  induction l generalizing s with
  | nil => exact h0
  | cons a l ih => exact ih _ (hs s a (by simp) h0) (fun x b hb => hs x b (by simp [hb]))

theorem forEach_nil {α : Type} (f : State → α → State) (s : State) : s.forEach ([] : List α) f = s := rfl

theorem forEach_cons {α : Type} (f : State → α → State) (s : State) (a : α) (l : List α) :
    s.forEach (a :: l) f = (f s a).forEach l f := rfl

/-! ## What posts to the outside -/

/-- s' is s but for the host attach, the rings, the masters' areas and what has been sent. -/
def State.PostsOnly (s s' : State) : Prop :=
  s' = { s with host := s'.host, rings := s'.rings, sent := s'.sent, masters := s'.masters }

theorem State.PostsOnly.refl (s : State) : s.PostsOnly s := rfl

theorem State.PostsOnly.trans {s t u : State} (h : s.PostsOnly t) (k : t.PostsOnly u) : s.PostsOnly u := by
  unfold State.PostsOnly at *
  rw [k, h]

theorem State.PostsOnly.fields {s s' : State} (h : s.PostsOnly s') :
    s'.pins = s.pins ∧ s'.vent = s.vent ∧ s'.boot = s.boot ∧ s'.own = s.own ∧ s'.dies = s.dies ∧ s'.jobs = s.jobs ∧
    s'.recov = s.recov ∧ s'.trust = s.trust ∧ s'.invs = s.invs ∧ s'.groups = s.groups ∧ s'.now = s.now ∧
    s'.freeIx = s.freeIx ∧ s'.pkg = s.pkg ∧ s'.is0 = s.is0 ∧ s'.is1 = s.is1 := by
  rw [h]
  exact ⟨rfl, rfl, rfl, rfl, rfl, rfl, rfl, rfl, rfl, rfl, rfl, rfl, rfl, rfl, rfl⟩

theorem when_posts (s : State) (c : Bool) (f : State → State) (h : s.PostsOnly (f s)) : s.PostsOnly (s.when c f) := by
  unfold State.when
  split
  · exact h
  · exact State.PostsOnly.refl s

theorem emit_posts (s : State) (x : Sent) : s.PostsOnly (s.emit x) := rfl

/-- What goes to the host goes out at once while the link is up. -/
theorem hostPut_up {s : State} (h : s.hostUp = true) (x : Sent) : s.hostPut x = s.emit x := by
  simp [State.hostPut, h]

theorem hostPut_posts (s : State) (x : Sent) : s.PostsOnly (s.hostPut x) := by
  unfold State.hostPut
  split
  · rfl
  · split <;> rfl

theorem host_posts (s : State) (h : HostAttach) : s.PostsOnly { s with host := h } := rfl

theorem modRing_posts (s : State) (r : Nat) (f : Ring → Ring) : s.PostsOnly (s.modRing r f) := rfl

theorem modMaster_posts (s : State) (m : Nat) (f : MasterState → MasterState) : s.PostsOnly (s.modMaster m f) := rfl

theorem hostWrite_posts (s : State) (a : Nat) (b : List Byte) : s.PostsOnly (s.hostWrite a b) := hostPut_posts s _

theorem hostRead_posts (s : State) (a n : Nat) (l : Bool) : s.PostsOnly (s.hostRead a n l) := hostPut_posts s _

theorem msix_posts (s : State) (v : Nat) : s.PostsOnly (s.msix v) := by
  unfold State.msix
  split
  · rfl
  · exact hostPut_posts s _

theorem packageVector_posts (s : State) (c : Nat) : s.PostsOnly (s.packageVector c) :=
  State.PostsOnly.trans (hostWrite_posts s _ _) (msix_posts _ _)

theorem signalRecord_posts (s : State) (r : Nat) : s.PostsOnly (s.signalRecord r) := by
  unfold State.signalRecord
  simp only []
  split
  · exact State.PostsOnly.refl s
  · split
    · exact State.PostsOnly.trans (modRing_posts s _ _) (msix_posts _ _)
    · rfl

theorem putTail_posts (s : State) (r n : Nat) : s.PostsOnly (s.putTail r n) :=
  (hostWrite_posts s _ _).trans (hostRead_posts _ _ _ _)

theorem putNow_posts (s : State) (w : RingWrite) : s.PostsOnly (s.putNow w) := by
  unfold State.putNow
  exact (hostWrite_posts s _ _).trans ((putTail_posts _ _ _).trans ((host_posts _ _).trans
    (when_posts _ _ _ (signalRecord_posts _ _))))

theorem putOrWait_posts (s : State) (w : RingWrite) : s.PostsOnly (s.putOrWait w) := by
  unfold State.putOrWait
  split
  · exact putNow_posts s w
  · rfl

theorem putRecord_posts (s : State) (r : Nat) (b : List Byte) : s.PostsOnly (s.putRecord r b) := by
  unfold State.putRecord
  simp only []
  refine State.PostsOnly.trans (State.PostsOnly.trans ?_ (putOrWait_posts _ _)) (modRing_posts _ _ _)
  split
  · exact State.PostsOnly.refl s
  · exact putOrWait_posts s _

theorem lostRecord_posts (s : State) : s.PostsOnly s.lostRecord := rfl

theorem putEvent_posts (s : State) (r : Nat) (b : List Byte) : s.PostsOnly (s.putEvent r b) := by
  unfold State.putEvent
  simp only []
  split
  · exact putRecord_posts s r b
  · exact lostRecord_posts s

theorem event_posts (s : State) (c d u a b : Nat) : s.PostsOnly (s.event c d u a b) :=
  when_posts s _ _ (putEvent_posts s _ _)

/-- s' is s but for the host attach, the rings, the masters' areas, what has been sent, and a packet that the fold
unit of a Caldera die sends. -/
def State.AnswersOnly (s s' : State) : Prop :=
  s' = { s with host := s'.host, rings := s'.rings, sent := s'.sent, masters := s'.masters
                calderas := s'.calderas, fabric := s'.fabric, nextId := s'.nextId }

theorem State.AnswersOnly.refl (s : State) : s.AnswersOnly s := rfl

theorem State.AnswersOnly.trans {s t u : State} (h : s.AnswersOnly t) (k : t.AnswersOnly u) : s.AnswersOnly u := by
  unfold State.AnswersOnly at *
  rw [k, h]

theorem State.PostsOnly.answers {s s' : State} (h : s.PostsOnly s') : s.AnswersOnly s' := by
  unfold State.AnswersOnly
  rw [h]

theorem State.AnswersOnly.fields {s s' : State} (h : s.AnswersOnly s') :
    s'.pins = s.pins ∧ s'.vent = s.vent ∧ s'.boot = s.boot ∧ s'.own = s.own ∧ s'.dies = s.dies ∧ s'.jobs = s.jobs ∧
    s'.recov = s.recov ∧ s'.trust = s.trust ∧ s'.invs = s.invs ∧ s'.groups = s.groups ∧ s'.now = s.now ∧
    s'.freeIx = s.freeIx ∧ s'.pkg = s.pkg ∧ s'.is0 = s.is0 ∧ s'.is1 = s.is1 ∧ s'.routing = s.routing ∧
    s'.tiles = s.tiles ∧ s'.ports = s.ports ∧ s'.engines = s.engines := by
  rw [h]
  exact ⟨rfl, rfl, rfl, rfl, rfl, rfl, rfl, rfl, rfl, rfl, rfl, rfl, rfl, rfl, rfl, rfl, rfl, rfl, rfl⟩

/-- A packet that frees no segment, sent by the fold unit. -/
theorem sendFrom_answers (s : State) (die u : Nat) (h : PktHdr) (c p : List Byte) (w : BitVec 32) (hu : 8 ≤ u) :
    s.AnswersOnly (sendFrom die u h c p w none s) := by
  have hn : ¬ u < 8 := by omega
  unfold sendFrom
  simp only [hn, if_false]
  split
  · rfl
  · split
    · rfl
    · rfl

theorem respond_answers (s : State) (m req ep sl : Nat) (st : Byte) (d : Nat) (b : List Byte) :
    s.AnswersOnly (s.respond m req ep sl st d b) := by
  unfold State.respond
  exact State.AnswersOnly.trans (modMaster_posts s _ _).answers (sendFrom_answers _ _ 8 _ _ _ _ (by omega))

theorem complete_answers (s : State) (src : JobSrc) (d : List Byte) (st : Byte) (n : Nat) (r : List Byte) :
    s.AnswersOnly (s.complete src d st n r) := by
  unfold State.complete
  cases src with
  | ring k slot =>
    simp only []
    split
    · exact (State.PostsOnly.trans (modRing_posts s _ _) (putRecord_posts _ _ _)).answers
    · exact (State.PostsOnly.trans (modRing_posts s _ _) (lostRecord_posts _)).answers
  | mbox m => exact (modMaster_posts s m _).answers
  | mgmt m req ep sl => exact respond_answers s m req ep sl st n _
  | commit m t b => exact State.AnswersOnly.refl s

/-! ## Writes and accesses -/

theorem refuseWrite_posts (s : State) (m : Nat) : s.PostsOnly (s.refuseWrite m) := rfl

/-- A write that only the owner may make is made, or dropped and counted. -/
theorem ownerWrite_owner {s : State} {m : Nat} (h : s.isOwner m = true) (f : State → State) : s.ownerWrite m f = f s := by
  simp [State.ownerWrite, h]

theorem ownerWrite_other {s : State} {m : Nat} (h : s.mayWrite m = false) (f : State → State) :
    s.ownerWrite m f = s.refuseWrite m := by
  simp only [State.mayWrite, Bool.or_eq_false_iff] at h
  simp [State.ownerWrite, h.1, h.2]

/-- One that was the owner until this cycle still writes, and its pending values are discarded behind the write. -/
theorem ownerWrite_late {s : State} {m : Nat} (h : s.isOwner m = false) (l : s.stillOwner m = true) (f : State → State) :
    s.ownerWrite m f = (f s).discardShadow m := by simp [State.ownerWrite, h, l]

/-- What the hub does for a master that has a path, and for one that has none. -/
theorem onPath_runs {s : State} {m : Nat} (h : s.hasPath m = true) (f : State → State) : onPath m f s = f s := by
  simp [onPath, State.when, h]

theorem onPath_stands {s : State} {m : Nat} (h : s.hasPath m = false) (f : State → State) : onPath m f s = s := by
  simp [onPath, State.when, h]

/-- A master other than HOST has a path while the hub is clocked; outside BOOT_HALT so has HOST (15 R456). -/
theorem hasPath_iff (s : State) (m : Nat) :
    s.hasPath m = true ↔ s.clkStopped dieTD = false ∧ ¬ (m = mHost ∧ s.boot.phase = .bootHalt) := by
  by_cases h : m = mHost <;> by_cases p : s.boot.phase = .bootHalt <;> simp [State.hasPath, h, p]

/-- An access is made where the die can be reached, and recorded as refused where it cannot. -/
theorem accessDie_reachable {s : State} {m w : Nat} (c : s.hasPath m = true) (h : s.reachable w = true) (f : State → State) :
    accessDie m w f s = f s := by simp [accessDie, h, c]

theorem accessDie_unreachable {s : State} {m w : Nat} (c : s.hasPath m = true) (h : s.reachable w = false) (f : State → State) :
    accessDie m w f s = accessRefused m (some w) s := by simp [accessDie, h, c]

/-- A descriptor in hand first, that may start and that the operation accepts, is the one that runs. -/
theorem takeJobFrom_first (p : Job → Bool) (j : Job) (js : List Job) (h : p j = true) :
    takeJobFrom p [] (j :: js) = some (j, js) := by
  simp [takeJobFrom, h, jobMayStart]

/-- In the safe state no descriptor runs. -/
theorem runJobIf_safe {s : State} (h : s.vent.inSafe = true) (k op : Nat) (r : Job → Bool)
    (f : Job → State → Byte × Nat × List Byte × State) : s.runJobIf k op r f = s := by
  simp [State.runJobIf, h]

/-- Handing over a descriptor queues it where R364 checks 1 to 3 pass, and completes it otherwise. -/
theorem handOver_cases (s : State) (src : JobSrc) (d : List Byte) :
    s.handOver src d = { s with jobs := s.jobs ++ [{ src := src, desc := d }] } ∨
    ∃ st n, s.handOver src d = s.complete src d st n [] := by
  unfold State.handOver
  split
  · exact Or.inr ⟨_, _, rfl⟩
  · split
    · exact Or.inr ⟨_, _, rfl⟩
    · split
      · exact Or.inr ⟨_, _, rfl⟩
      · exact Or.inl rfl

/-! ## Faults -/

/-- Raising a source changes dies alone, beside what it posts. -/
theorem startVentTimer_dies (s : State) (d src : Nat) : s.startVentTimer d src = { s with dies := (s.startVentTimer d src).dies } := by
  unfold State.startVentTimer
  simp only []
  split <;> split <;> rfl

theorem hwSet_dies (s : State) (k : Nat) : s.hwSet k = { s with setAt := (s.hwSet k).setAt } := rfl

theorem raise_frame (s : State) (d src idx : Nat) :
    (s.raise d src idx).vent = s.vent ∧ (s.raise d src idx).pins = s.pins ∧ (s.raise d src idx).boot = s.boot ∧
    (s.raise d src idx).own = s.own ∧ (s.raise d src idx).jobs = s.jobs := by
  unfold State.raise
  split
  · exact ⟨rfl, rfl, rfl, rfl, rfl⟩
  · split
    · exact ⟨rfl, rfl, rfl, rfl, rfl⟩
    · have k : ∀ x : State, ((x.startVentTimer d src).ventEvent d src 1 0).vent = x.vent ∧
          ((x.startVentTimer d src).ventEvent d src 1 0).pins = x.pins ∧
          ((x.startVentTimer d src).ventEvent d src 1 0).boot = x.boot ∧
          ((x.startVentTimer d src).ventEvent d src 1 0).own = x.own ∧
          ((x.startVentTimer d src).ventEvent d src 1 0).jobs = x.jobs := by
        intro x
        have h := (event_posts (x.startVentTimer d src) evVent d src 1 0).fields
        rw [startVentTimer_dies] at h
        unfold State.ventEvent
        rw [startVentTimer_dies]
        exact ⟨h.2.1, h.1, h.2.2.1, h.2.2.2.1, h.2.2.2.2.2.1⟩
      have q : ∀ (x : State) (c : Bool), ((x.startVentTimer d src).when c (fun s => s.ventEvent d src 1 0)).vent = x.vent ∧
          ((x.startVentTimer d src).when c (fun s => s.ventEvent d src 1 0)).pins = x.pins ∧
          ((x.startVentTimer d src).when c (fun s => s.ventEvent d src 1 0)).boot = x.boot ∧
          ((x.startVentTimer d src).when c (fun s => s.ventEvent d src 1 0)).own = x.own ∧
          ((x.startVentTimer d src).when c (fun s => s.ventEvent d src 1 0)).jobs = x.jobs := by
        intro x c
        cases c
        · rw [State.when, startVentTimer_dies]
          exact ⟨rfl, rfl, rfl, rfl, rfl⟩
        · exact k x
      exact q _ _

end Sys2Proof.Machine
end

