-- ==== Sys2Proof/Tests/Slice0.lean ====
section
/-! SUPPORT. The model's own tests: for each statement a state and operands that meet its hypotheses, clause by
clause at boundary values, with what the command answers there; and an ill-formed command for each check of
WellFormed. Expected values are worked out by hand from the rules that the statements cite. -/

namespace Sys2Proof.Tests
open Sys2Proof Sys2Proof.Machine

set_option maxRecDepth 1000000
set_option Elab.async false

/-- The command answers a next state with the property p. -/
def gives (i : Instr) (s : State) (p : State → Bool) : Bool :=
  match exec i s with
  | .next s' => p s'
  | _ => false

/-- The machine after reset with HOST as owner in phase READY, every die reachable. -/
def ready : State :=
  { State.reset with
    boot := { row := .readyOk, phase := .ready }
    own := { owner := 1 }
    dies := (List.range 67).map (fun k => (k + 1, { released := true, present := true })) }

theorem test_ready : ready.reachable 30 = true ∧ ready.isOwner 1 = true ∧ ready.reachable 67 = true := by decide +kernel

/-- Ring 3 submits into completion ring 4. -/
def ringed : State := { ready with
  host := { aTrained := true, wbBase := 1, dbBase := 2 }
  rings := [(3, { base := 1, cmplRing := 4, kind := 0 }), (4, { base := 2, kind := 1, enable := true })] }

theorem test_ring_enable : gives (.ringEnable 5 1 3 7) ringed (fun s => (s.ring 3).enable && (s.ring 3).tail == 7 && s.now == 5) = true := by decide +kernel
theorem test_ring_enable2 : gives (.ringEnable 5 1 4 7) { ringed with rings := [(4, { base := 2, kind := 1 })] }
  (fun s => (s.ring 4).enable && (s.ring 4).tail == 7 && s.sent == [.hostRead 0x1020 8 false, .hostWrite 0x1020 [7,0,0,0,0,0,0,0], .hostRead 0x2000 64 false]) = true := by decide +kernel

/-! ## Bring-up, resets, Float and sensors -/

/-- The bring-up stands behind a row. -/
def atRow (r : Row) (p : Phase) : State := { State.reset with boot := { row := r, phase := p } }

theorem test_bring_up_start : gives (.bringUpStart 9) State.reset (fun s => s.boot.row == .started && (s.die 1).released && s.boot.zeroAt == 9) = true := by decide +kernel
theorem test_td_pll_lock : gives (.tdPllLock 9) (atRow .started .rom) (fun s => s.boot.row == .pllLocked && s.boot.tdPll) = true := by decide +kernel
theorem test_images_verified : gives (.imagesVerified 9 none 0 0xFFFFFFFF) (atRow .pllLocked .rom)
    (fun s => s.boot.phase == .bootHalt && s.is0.ready && !s.trust.identityOk) = true ∧
  (atRow .pllLocked .rom).bootHeaderOk false = false ∧ (atRow .pllLocked .rom).bootHeaderOk true = false := by decide +kernel
theorem test_dies_released : [7].all (fun n => assignedDies.contains n) = true ∧
  gives (.diesReleased 9 [7]) (atRow .imagesOk .images)
    (fun s => s.boot.phase == .dies && (s.die 4).released && !(s.die 7).released && (s.die 67).present) = true := by decide +kernel
theorem test_records_verified : [(4, zeros 2)].all (fun p => assignedDies.contains p.1) = true ∧
  gives (.dieRecordsVerified 9 [(4, zeros 2)]) (atRow .diesOut .dies) (fun s => s.boot.row == .recordsOk && s.pkg.serial == 0) = true ∧
  (let w : State := { atRow .diesOut .dies with float := { waiting := [{ change := .dieClock, up := true, die := 4, unit := 1, raisedAt := 0 }] } }
   gives (.dieRecordsVerified 9 []) w (fun s => s == { w with now := 9 }) = true) := by decide +kernel
theorem test_config_applied : gives (.configApplied 9) (atRow .recordsOk .dies)
    (fun s => s.boot.phase == .config && !s.pins.hRstLow && s.boot.defaultCfg) = true ∧
  (let warm : State := { State.reset with boot := { row := .recordsOk, phase := .dies, cause := 3 } }
   (warm.tick 999999).hRstMayRise = false ∧ gives (.configApplied 999999) warm (fun s => s == { warm with now := 999999 }) = true ∧
   (warm.tick 1000000).hRstMayRise = true ∧ gives (.configApplied 1000000) warm (fun s => !s.pins.hRstLow) = true) := by decide +kernel
theorem test_memory_trained : [31].all (fun m => decide (m < 32)) = true ∧ gives (.memoryTrained 9 [31]) (atRow .configOk .config)
    (fun s => s.boot.row == .memoryOk && (tget ({} : MemCtl) (s.caldera 7).mc 2).trained && !(tget ({} : MemCtl) (s.caldera 7).mc 3).trained) = true := by decide +kernel
theorem test_phase_ready : gives (.phaseReady 7000000) (atRow .memoryOk .memory) (fun s => s.boot.phase == .ready && s.boot.bootMs == 7) = true := by decide +kernel
theorem test_package_reset : gives (.packageReset 9 true) ready (fun s => s.own.owner == 0 && s.dies == [] && s.boot.cause == 2 && !s.pins.pkgRstN) = true ∧
  gives (.packageReset 9 false) ready (fun s => s.own.owner == 0 && s.boot.cause == 1 && s.is0.flash == ready.is0.flash) = true := by decide +kernel
theorem test_pwr_ok_fall : gives (.pwrOkFall 9 1) ready (fun s => s.own.owner == 0 && !s.pins.pwrOk.getLsbD 1) = true ∧
  gives (.pwrOkFall 9 8) ready (fun s => s.dies == [] && !s.pins.pwrOk.getLsbD 8) = true ∧
  gives (.pwrOk0Fall 9) ready (fun s => s.dies == [] && !s.pins.pwrOk.getLsbD 0 && s.sent == []) = true := by decide +kernel
theorem test_ramp : (let busy : State := { ready with engines := [(63, { running := true })], lanes := [(511, { enabled := true })] }
   let ramp : State := { busy with float := { stopped := true, rampFrom := some 9, waiting := [{ change := .lane, up := false, die := 67, unit := 15, raisedAt := 9 }] } }
   gives (.pwrOkFall 9 8) busy (fun s => s.float.stopped && s.float.rampFrom == some 9 && s.float.waiting.length == 2 && s.engines == busy.engines) = true ∧
   gives (.pwrOkFall 9 1) ramp (fun s => s == { ramp with now := 9, pins := s.pins } && !s.pins.pwrOk.getLsbD 1) = true ∧
   gives (.floatGrant 5009) ramp (fun s => s.dies == [] && s.boot.cause == 1) = true ∧
   gives (.floatGrant 5008) ramp (fun s => s.float.rampFrom == none && s.dies == []) = true ∧
   gives (.pwrOkFall 9 1) State.reset (fun s => s.boot.cause == 1 && s.boot.row == .held) = true) := by decide +kernel

/-- Port 0 of lane die L0 is wired and carries cells; nothing else is enabled. -/
def wired : State := { ready with
  laneDies := [(0, { startMap := 1, enable := 1, pendStart := 1, pendEnable := 1 })], ports := [(0, { state := .active })] }

theorem test_reset_requests : isMaster 0x13 = true ∧ ready.isOwner 0x13 = false ∧
  gives (.dieReset 9 0x13 255) ready (fun s => s == { ready.refuseWrite 0x13 with now := 9 }) = true ∧
  (let busy : State := { ready with rstCtl := { kind := 5, go := true } }
   busy.rstCtl.go = true ∧ gives (.portReset 9 1 67 511) busy (fun s => s == { busy with now := 9, rstStatus := { dropped := true }, setAt := [(wbReset, 10)] }) = true) ∧
  ready.resetRefused 3 255 0 = some 3 ∧ gives (.dieReset 9 1 255) ready (fun s => s.rstStatus.result == 3 && !s.rstCtl.go) = true ∧
  dieKind 255 = .none ∧ dieKind 1 = .td ∧ gives (.portGroupReset 9 1 1) ready (fun s => s.rstStatus.result == 3) = true := by decide +kernel
theorem test_resets_start : ready.resetRefused 1 0 0 = none ∧
  gives (.warmPackageReset 9 1 true true) ready (fun s => s.boot.cause == 3 && s.own.owner == 0 && !s.pins.hRstLow && s.rstCtl.go) = ready.pins.hRstLow.not ∧
  ready.resetRefused 2 0 0 = none ∧ gives (.hostSiteReset 9 1) ready (fun s => s.pins.hRstLow && s.rstCtl.kind == 2 && s.own.owner == 1) = true ∧
  ready.resetRefused 3 67 0 = none ∧ gives (.dieReset 9 1 67) ready (fun s => (s.die 67).inReset) = true ∧
  ready.resetRefused 4 67 0 = none ∧ gives (.portGroupReset 9 1 67) ready (fun s => (s.laneDie 31).startMap == (ready.laneDie 31).pendStart) = true := by decide +kernel
theorem test_resets_start_small : wired.resetRefused 5 36 0 = none ∧ wired.portIsolated 0 = false ∧ (wired.port 0).state.up = true ∧
  gives (.portReset 9 1 36 0) wired (fun s => (s.port 0).state == .detect && (s.port 0).linkDown && (s.port 0).reason == .portReset) = true ∧
  ready.resetRefused 6 35 7 = none ∧
  gives (.engineReset 9 1 35 7) ready (fun s => (s.engine 63).inReset && !(s.engine 63).inService) = true := by decide +kernel
theorem test_reset_completes :
  (let s6 : State := { ready with rstCtl := { kind := 6, go := true, die := 35, index := 7 }, engines := [(63, { inReset := true, inService := false })] }
   (s6.tick 9000).resetReady = true ∧ gives (.resetComplete 9000) s6 (fun s => !s.rstCtl.go && s.rstStatus.result == 1 && s.engine 63 == {} && s.rstStatus.elapsedUs == 9) = true) ∧
  (let s2 : State := { ready with rstCtl := { kind := 2, go := true }, pins := { ready.pins with hRstLow := true } }
   (s2.tick 1000000).resetReady = true ∧ gives (.resetComplete 1000000) s2 (fun s => !s.pins.hRstLow) = true ∧
   (s2.tick 999999).resetReady = false ∧ gives (.resetComplete 999999) s2 (fun s => s == { s2 with now := 999999 }) = true) := by decide +kernel

/-- Float has one lane change waiting. -/
def laneAsked : State := { ready with float := { ready.float with waiting := [{ change := .lane, up := true, die := 36, unit := 15, raisedAt := 0 }] } }

theorem test_float_grant : laneAsked.float.starts = [] ∧ laneAsked.float.stopped = false ∧
  (laneAsked.tick 9).bucketsHold true [(4, 1400), (5, 700)] = true ∧
  gives (.floatGrant 9) laneAsked (fun s => s.float.waiting.isEmpty && (s.lane 15).enabled && (s.bucket 4).rise == 1000 && (s.bucket 5).rise == 1700) = true ∧
  (let low : State := { laneAsked with float := { laneAsked.float with buckets := [(4, { rise := 0, at_ := 9 })] } }
   (low.tick 9).bucketsHold true [(4, 1400), (5, 700)] = false ∧ gives (.floatGrant 9) low (fun s => s == { low with now := 9 }) = true) := by decide +kernel

/-- Engine 63 waits for its start. -/
def startAsked (last : Option Nat) : State := { ready with
  float := { ready.float with starts := [{ launchAt := 0, raisedAt := 0, group := 1, step := 0, engine := 63 }], lastStart := last } }

theorem test_engine_start : (startAsked (some 1)).vent.inSafe = false ∧ ((startAsked (some 1)).engine 63).inService = true ∧
  ((startAsked (some 1)).engine 63).running = false ∧ ((startAsked (some 1)).tick 9).bucketsHold true [(3, 2400)] = true ∧
  gives (.engineStart 9) (startAsked (some 1)) (fun s => (s.engine 63).running && s.float.starts.isEmpty && s.float.engineStarts == 1 && (s.bucket 3).rise == 0) = true ∧
  gives (.engineStart 9) (startAsked (some 2)) (fun s => s == { startAsked (some 2) with now := 9 }) = true := by decide +kernel
theorem test_engine_stop : (let s1 : State := { ready with engines := [(63, { running := true })], float := { ready.float with waiting := [{ change := .engine, up := false, die := 35, unit := 7, raisedAt := 0 }] } }
    (s1.engine 63).running = true ∧ s1.engineAdds 63 = false ∧ (s1.tick 9).bucketsHold false [(3, 2400)] = true ∧
    gives (.engineStop 9 63) s1 (fun s => !(s.engine 63).running && (s.bucket 3).fall == 0) = true ∧
    (let s2 : State := { s1 with invs := [(0, some { group := 1, step := 0, createdAt := 0, launch := none, strict := false, reserved := 0, engines := [63], launched := true, state := .reduce })] }
     s2.engineAdds 63 = true ∧ gives (.engineStop 9 63) s2 (fun s => s == { s2 with now := 9 }) = true) ∧
    (let s3 : State := { s1 with float := { s1.float with waiting := { change := .dieClock, up := true, die := 35, unit := 1, raisedAt := 0 } :: s1.float.waiting } }
     gives (.engineStop 9 63) s3 (fun s => s == { s3 with now := 9 }) = true) ∧
    gives (.engineStop 9 63) ready (fun s => s == { ready with now := 9 }) = true) := by decide +kernel
theorem test_admission_step : ready.float.waiting = [] ∧ (ready.tick 9).bucketsHold true [(1, 600), (2, 200)] = true ∧
  gives (.admissionStep 9 15 true) ready (fun s => tget 0 s.admitted 15 == 1 && (s.bucket 1).rise == 1800) = true ∧
  gives (.admissionStep 9 15 false) ready (fun s => s == { ready with now := 9 }) = true ∧
  (let full : State := { ready with admitted := [(15, 32)] }
   gives (.admissionStep 9 15 true) full (fun s => s == { full with now := 9 }) = true ∧
   gives (.admissionStep 9 15 false) full (fun s => tget 0 s.admitted 15 == 31) = true) ∧
  (let low : State := { ready with float := { ready.float with buckets := [(1, { rise := 0, at_ := 9 })] } }
   (low.tick 9).bucketsHold true [(1, 600), (2, 200)] = false ∧
   gives (.admissionStep 9 15 true) low (fun s => s.admitted == [] && s.float.waiting.length == 1) = true) := by decide +kernel
theorem test_clock_check : ready.collects 30 = true ∧ ready.collects 1 = true ∧
  gives (.clockCheckWindow 9 30 [1, 27] true) ready (fun s => (s.die 30).clockBad == [1, 27] && s.stickyBit 30 1 && s.stickyBit 30 2) = true ∧
  gives (.clockCheckWindow 9 30 [] false) ready (fun s => (s.die 30).clockBad == [] && !s.stickyBit 30 1) = true ∧
  gives (.clockCheckWindow 9 1 [27] false) ready (fun s => s.ftc.stopped) = true ∧ gives (.clockCheckWindow 9 1 [1] false) ready (fun s => !s.ftc.stopped) = true := by decide +kernel
theorem test_thermal_sample : ready.boot.row = .readyOk ∧ (List.range 104).all (fun k => !(ready.die k).tempValid) = true ∧
  (ready.therm.assertC.toNat : Int) * 16 ≤ 105 * 16 - 1 ∧
  gives (.thermalSample 9 [(103, some (105 * 16 - 1))]) ready (fun s => (s.die 103).tempValid && s.pins.thermLow && (s.die 103).temp == 1679) = true := by decide +kernel
theorem test_h_therm : gives (.hThermNChange 9 true) ready (fun s => s.pins.thermLow && !s.pins.hThermN) = true ∧
  gives (.hThermNChange 9 true) State.reset (fun s => !s.pins.thermLow && !s.pins.hThermN) = true := by decide +kernel

/-! ## Vent and skim -/

/-- One die in a given state, the rest as in ready. -/
def withDie (d : Nat) (x : Die) : State := ready.modDie d (fun _ => { x with released := true })

theorem test_sticky_clear : (let s0 := withDie 67 { sticky := 0x108 }
  isMaster 1 = true ∧ s0.isOwner 1 = true ∧ dieKind 67 ≠ .none ∧ s0.reachable 67 = true ∧ (List.range 64).all (fun i => ((s0.tick 9).persisting 67 i).isNone) = true ∧
  gives (.stickyClear 9 1 67 (2 ^ 64 - 1 - 8)) s0 (fun s => (s.die 67).sticky == 8 && s.vent == s0.vent) = true) := by decide +kernel
theorem test_vent_enable : ready.reachable 30 = true ∧ sourceWritable 30 30 = true ∧ sourceWritable 30 0 = false ∧
  gives (.ventEnableWrite 9 1 30 false 0xFFFFFFFF) ready (fun s => s.sourceEnabled 30 30 && s.sourceEnabled 30 8) = true ∧
  gives (.ventEnableWrite 9 1 30 true 0) ready (fun s => s.die 30 == ready.die 30) = true ∧
  gives (.ventEnableWrite 9 1 30 false 0) ready (fun s => !s.sourceEnabled 30 8 && s.sourceEnabled 30 0) = true := by decide +kernel
theorem test_vent_inject : ready.trust.scope.getLsbD 1 = false ∧ sourceListed 30 30 = true ∧
  gives (.ventInject 9 1 30 (2 ^ 64 - 1)) ready (fun s => s.stickyBit 30 30 && !s.stickyBit 30 0 && !s.stickyBit 30 31 && s.vent == ready.vent) = true := by decide +kernel
theorem test_vent_guarded : (let s0 := withDie 67 { path := false }
  s0.reachable 67 = false ∧ gives (.ventInject 9 2 67 0) s0 (fun s => (s.master 2).unreachable && (s.master 2).accDie == 67) = true ∧
  ready.isOwner 2 = false ∧ gives (.ventInject 9 2 67 0) ready (fun s => s == { ready.refuseWrite 2 with now := 9 }) = true ∧
  gives (.stickyClear 9 2 67 0) ready (fun s => s == { ready.refuseWrite 2 with now := 9 }) = true ∧
  gives (.ventEnableWrite 9 2 67 true 0) ready (fun s => s == { ready.refuseWrite 2 with now := 9 }) = true) := by decide +kernel

/-- A timer of source src runs on die d. -/
def timed (d src : Nat) : State := withDie d { sticky := BitVec.ofNat 64 (2 ^ src), timers := [(src, some { startedAt := 0, windowUs := 10 })] }

theorem test_vent_timer : ((timed 27 8).tick 9800).ventDue 27 0 10 = true ∧ ((timed 27 8).tick 9799).ventDue 27 0 10 = false ∧
  dieKind 27 = .plane ∧ (timed 27 8).unitIsolated { kind := .plane, die := 27, idx := 0xFF } = false ∧
  (timed 27 8).unitIsolating { kind := .plane, die := 27, idx := 0xFF } = false ∧ ((timed 27 8).plane 7).inService = true ∧
  gives (.ventTimerExpiry 9800 27 8) (timed 27 8) (fun s => !(s.plane 7).inService && (s.plane 7).cause == 2 && s.vent.isolating.length == 1 && !s.vent.inSafe) = true ∧
  gives (.ventTimerExpiry 9799 27 8) (timed 27 8) (fun s => s == { timed 27 8 with now := 9799 }) = true ∧
  (timed 27 8).unitsOf 1 1 = none ∧ gives (.ventTimerExpiry 9800 1 1) (timed 1 1) (fun s => s.vent.inSafe && s.vent.cause == 4 && s.vent.die == 1 && (s.die 1).alertLow) = true ∧
  (let safe : State := { timed 27 8 with vent := { ready.vent with inSafe := true } }
   gives (.ventTimerExpiry 9800 27 8) safe (fun s => s == { safe.modDie 27 (fun x => { x with timers := tset none x.timers 8 none }) with now := 9800 }) = true) ∧
  (timed 27 4).unitsOf 27 4 = some [] ∧ gives (.ventTimerExpiry 9800 27 4) (timed 27 4) (fun s => s == { (timed 27 4).modDie 27 (fun x => { x with timers := tset none x.timers 4 none }) with now := 9800 }) = true ∧
  ((timed 27 8).unitsOf 27 8).isSome = true ∧ ((timed 27 8).tick 9800).clearComes 27 8 = false ∧
  (let c : State := { timed 27 8 with pending := [.stickyClear 9800 1 27 256] }
   (c.tick 9800).clearComes 27 8 = true ∧ gives (.ventTimerExpiry 9800 27 8) c (fun s => s == { c with now := 9800 }) = true) ∧
  gives (.ventTimerExpiry 9800 67 0) (timed 67 0) (fun s => s.vent.inSafe && s.vent.cause == 4 && s.vent.die == 67) = true := by decide +kernel

/-- Plane P7 is being isolated. -/
def isolating : State := { ready with vent := { ready.vent with
  isolating := [{ unit := { kind := .plane, die := 27, idx := 0xFF }, srcDie := 27, src := 8, startedAt := 0, isoUs := 10 }] } }

theorem test_isolation : (isolating.isolatingAt 27 255).isSome = true ∧ (isolating.tick 9800).ventDue 27 0 10 = true ∧
  isolating.isolatingAt 28 0 = none ∧ gives (.isolationAck 9 28 0) isolating (fun s => s == { isolating with now := 9 }) = true ∧
  gives (.isolationTimeout 9800 28 0) isolating (fun s => s == { isolating with now := 9800 }) = true ∧
  gives (.isolationAck 9 27 255) isolating (fun s => s.unitIsolated { kind := .plane, die := 27, idx := 0xFF } && s.vent.isolating.isEmpty) = true ∧
  ({ isolating with now := 9 }).mayAck { kind := .plane, die := 27, idx := 0xFF } = true ∧
  (let tile : State := { ready with now := 500, fabric := { ready.fabric with takenAt := [(15, 9)] }, vent := { ready.vent with
     isolating := [{ unit := { kind := .tile, die := 19, idx := 0xFF }, srcDie := 19, src := 8, startedAt := 0, isoUs := 10 }] } }
   ({ tile with now := 1008 }).mayAck { kind := .tile, die := 19, idx := 0xFF } = false ∧
   gives (.isolationAck 1008 19 255) tile (fun s => s == { tile with now := 1008 }) = true ∧
   gives (.isolationAck 1009 19 255) tile (fun s => s.unitIsolated { kind := .tile, die := 19, idx := 0xFF } && s.vent.isolating.isEmpty) = true) ∧
  gives (.isolationTimeout 9800 27 255) isolating (fun s => s.vent.inSafe && s.vent.cause == 1 && s.vent.die == 27 && s.vent.source == 8) = true ∧
  gives (.isolationTimeout 9799 27 255) isolating (fun s => s == { isolating with now := 9799 }) = true := by decide +kernel

/-- The safe state. -/
def inSafe (written waits : Bool) : State := { ready with
  vent := { ready.vent with inSafe := true, recordWritten := written, warmWaits := waits }, boot := { ready.boot with phase := .safe }
  pins := { ready.pins with vtSafe := true, safeLow := true } }

theorem test_enter_safe : gives (.enterSafe 9 1) ready (fun s => s.vent.inSafe && s.vent.cause == 5 && s.boot.phase == .safe && s.pins.safeLow) = true ∧
  gives (.vtSelf 9 67 5) ready (fun s => s.vent.inSafe && s.vent.cause == 2 && s.stickyBit 67 0) = true ∧ ready.collects 67 = true ∧
  gives (.enterSafe 9 1) (inSafe true false) (fun s => s == { inSafe true false with now := 9 }) = true ∧
  gives (.enterSafe 9 2) ready (fun s => s == { ready.refuseWrite 2 with now := 9 }) = true := by decide +kernel
theorem test_safe_record : gives (.safeRecordWrite 9 true false) (inSafe false false) (fun s => s.vent.recordWritten && s.own.owner == 1) = true ∧
  gives (.safeRecordWrite 9 false false) (inSafe false true) (fun s => !s.vent.inSafe && s.boot.cause == 3 && s.rstCtl.go) = true ∧
  gives (.safeRecordWrite 9 false false) (inSafe true false) (fun s => s == { inSafe true false with now := 9 }) = true := by decide +kernel
theorem test_collectors : (let low := withDie 67 { alertLow := true }
  gives (.ventHeartbeat 9 67) low (fun s => s == { low with now := 9 }) = true) ∧ gives (.ventHeartbeat 9 67) ready (fun s => (s.die 67).heartbeatAt == 9 && s.sent == [.heartbeat 67]) = true ∧
  gives (.vtOscCalibration 9 67 (some 5)) ready (fun s => (s.die 67).calCount == 5) = true ∧
  gives (.vtOscCalibration 9 67 none) ready (fun s => (s.die 67).calHeld) = true ∧
  gives (.aggLost 100000 67) ready (fun s => s.stickyBit 1 11 && tget 0 (s.die 1).unitIdx 11 == 67) = true ∧
  gives (.aggLost 99999 67) ready (fun s => !s.stickyBit 1 11) = true ∧ (ready.modDie 67 (fun d => { d with released := false })).collects 67 = false ∧
  gives (.vtSelf 9 67 5) (ready.modDie 67 (fun d => { d with released := false })) (fun s => s == { ready.modDie 67 (fun d => { d with released := false }) with now := 9 }) = true := by decide +kernel
theorem test_skim_read : (let last : State := ready.modDie 30 (fun d => { d with skimRow := [(0, (8, 196607)), (1, (0, 4))] })
  skimSource 30 9 = some srcMemUe ∧ ready.skims 30 = true ∧ (ready.skimMems 30 0)[8]? = some (8, 196608) ∧
  gives (.skimRead 9 30 8 196607 .none false 0) last (fun s => (s.die 30).skimPasses == 1 && tget (0, 0) (s.die 30).skimRow 0 == (0, 0)) = true ∧
  gives (.skimRead 9 30 0 0 .corrected false 0) last (fun s => s == { last with now := 9 }) = true ∧
  gives (.skimRead 9 30 8 0 .corrected false 0) last (fun s => s == { last with now := 9 }) = true ∧
  gives (.skimRead 9 30 0 0 .corrected false 0) ready (fun s => (s.die 30).symCe == 1 && s.stickyBit 30 4 && tget (0, 0) (s.die 30).skimRow 0 == (0, 1)) = true ∧
  gives (.skimRead 9 30 0 0 .corrected true 0) ready (fun s => (s.die 30).symCe == 0 && !s.stickyBit 30 4 && tget (0, 0) (s.die 30).skimRow 0 == (0, 1)) = true ∧
  ready.rowHolders 2 (skimBank 0 0).1 (skimBank 0 0).2 = [] ∧ gives (.skimRead 9 30 0 0 .uncorrectable false 0) ready (fun s => (s.die 30).symUe == 1 && s.stickyBit 30 (srcEngUe 0)) = true) := by decide +kernel
theorem test_skim_gddr : (let s0 : State := { ready with pkg := { ready.pkg with partA := 1 } }
  (s0.skimMems 30 1)[0]? = some (9, s0.shareRows.foldl (· + ·) 0) ∧
  gives (.skimRead 9 30 9 0 .corrected false 3) s0 (fun s => (s.die 30).aux0 == 3 && !s.stickyBit 30 28 && (s.die 30).symCe == 1) = true ∧
  gives (.skimRead 9 30 9 0 .corrected false 4) s0 (fun s => (s.die 30).aux0 == 3 && s.stickyBit 30 28 && s.stickyBit 30 srcMemUe &&
    (tget ({} : MemCtl) (s.caldera 2).mc (rowDevice (partOfRow s0.shareRows 0).2)).retrains == 1) = true) := by decide +kernel

/-! ## Links -/

/-- Port 496 of L31, 16 lanes wide, in a state, with lane 511 as given. -/
def link (st : LinkState) (x : Lane) : State := { ready with
  laneDies := [(31, { startMap := 1, enable := 1, pendStart := 1, pendEnable := 1, inUse := true })], ports := [(496, { state := st })], lanes := [(511, x)] }

/-- A slot of 264 bytes with its CRC. -/
def mkSlot (b : List Byte) : List Byte :=
  let p := padTo 260 b
  p ++ leBytes 4 (crc32c p).toNat

theorem test_port_enable : (let s0 := { link .off {} with ports := [] }
  s0.portEnabled 496 = true ∧ (s0.port 496).state = .off ∧ s0.portIsolated 496 = false ∧ (s0.die 67).clockBad = [] ∧
  (s0.laneDie 31).failed = 0 ∧ laneDieOf 496 = 31 ∧
  gives (.portEnable 9 496) s0 (fun s => (s.port 496).state == .detect && (s.lane 511).since == 9 && (s.lane 511).state == .detect) = true) := by decide +kernel
theorem test_signal_detect : (link .detect { state := .detect, enabled := true }).laneMode 511 = .detect ∧
  gives (.signalDetect 9 511) (link .detect { state := .detect, enabled := true }) (fun s => (s.lane 511).state == .coarse) = true ∧
  (link .detect { state := .coarse }).laneMode 511 = .coarse ∧
  gives (.coarseConverged 9 511) (link .detect { state := .coarse, locked := true }) (fun s => (s.lane 511).state == .align && !(s.lane 511).locked) = true := by decide +kernel
theorem test_no_signal : (let s0 := link .detect { state := .detect }
  (s0.portLanes 496).any (fun k => (s0.lane k).state == .detect && decide ((s0.lane k).since + 100000000 ≤ 100000000)) = true ∧
  gives (.noSignalTimeout 100000000 496) s0 (fun s => (s.port 496).reason == .noSignal) = true) := by decide +kernel
theorem test_frame_lock : (let s0 := link .detect { state := .align, markerAt := some 0 }
  let b := mkSlot ([1] ++ zeros 35 ++ frameMarker ++ [7])
  b.length = 264 ∧ s0.framed 511 = true ∧ (s0.port 496).state.up = false ∧ sliceOf b 36 16 = frameMarker ∧ osCrcOk b = true ∧
  gives (.frameReceived 9 511 2872320 65535 true b 2 1) s0 (fun s => (s.lane 511).locked && (s.lane 511).markerAt == some 2872320 && (s.lane 511).inverted && (s.lane 511).fecCorrected == 2) = true) := by decide +kernel
theorem test_frame_missed : (let up (n : Nat) := link .active { state := .active, locked := true, missed := n }
  (up 2).framed 511 = true ∧ sliceOf (zeros 264) 36 16 ≠ frameMarker ∧ (zeros 264).length = 264 ∧
  gives (.frameReceived 9 511 0 0 false (zeros 264) 2 1) (up 2) (fun s => !(s.lane 511).locked && (s.port 496).state == .detect && (s.port 496).reason == .lockLost) = true ∧
  gives (.frameReceived 9 511 0 0 false (zeros 264) 2 1) (up 1) (fun s => (s.lane 511).locked && (s.lane 511).missed == 2 && s.ports == (up 1).ports && (s.lane 511).osCrc == 1 && (s.lane 511).fecUncorrectable == 1) = true ∧
  gives (.lockLost 9 511) (up 0) (fun s => !(s.lane 511).locked && (s.lane 511).lostAt == some 9 && (s.port 496).linkDown) = true) := by decide +kernel
theorem test_ts1 : (let b := mkSlot ([3] ++ zeros 37 ++ [4])
  let at_ (st : LinkState) (n : Nat) := link .detect { state := st, locked := true, goodTs := n }
  osCrcOk b = true ∧ byteAt b 38 = 4 ∧ (at_ .align 0).laneMode 511 = .align ∧ ((at_ .align 0).lane 511).cm1 = -8 ∧
  gives (.ts1Received 9 511 b false 5 2 1) (at_ .align 0) (fun s => (s.lane 511).goodTs == 1 && (s.lane 511).cm1 == -7 && (s.lane 511).coeffStatus == 4 && (s.lane 511).fecCorrected == 2) = true ∧
  (let c := mkSlot ([3] ++ zeros 37 ++ [0x10])
   osCrcOk c = true ∧ byteAt c 38 = 0x10 ∧ gives (.ts1Received 9 511 c false 5 2 1) (at_ .align 0) (fun s => (s.lane 511).cm1 == -8 && (s.lane 511).coeffStatus == 0x20) = true) ∧
  gives (.ts1Received 9 511 b false 5 2 1) (at_ .align 7) (fun s => (s.lane 511).state == .equalize && (s.lane 511).goodTs == 0) = true ∧
  gives (.ts1Received 9 511 b false 5 2 1) (at_ .equalize 0) (fun s => (s.lane 511).coeffReq == 5 && !(s.lane 511).eqDone) = true ∧
  gives (.ts1Received 9 511 b true 5 2 1) (at_ .equalize 0) (fun s => (s.lane 511).coeffReq == 0 && (s.lane 511).eqDone) = true ∧
  osCrcOk (zeros 264) = false ∧ gives (.ts1Received 9 511 (zeros 264) true 5 2 1) (at_ .align 3) (fun s => (s.lane 511).goodTs == 0 && (s.lane 511).osCrc == 1) = true) := by decide +kernel
theorem test_ts2_ident : (let b := mkSlot ([4] ++ zeros 47 ++ [9, 1])
  let s0 := link .detect { state := .config, locked := true }
  osCrcOk b = true ∧ s0.laneMode 511 = .config ∧
  gives (.ts2Received 9 511 b 2 1) s0 (fun s => (s.lane 511).goodTs == 1 && (s.lane 511).fecUncorrectable == 1 && ((s.port 496).pair 0).granted == 265 && (s.lane 511).ts2.isSome) = true ∧
  (let c := mkSlot ([5] ++ zeros 35 ++ [7])
   osCrcOk c = true ∧ byteAt c 64 ≠ 3 ∧ gives (.identReceived 9 496 c 2 1) (link .identify {}) (fun s => (s.port 496).state == .down && (s.port 496).reason == .versionRefused) = true ∧
   gives (.identReceived 9 496 c 2 1) (link .active {}) (fun s => s.ports == (link .active {}).ports && s.sent == []) = true) ∧
  (let d := mkSlot ([5] ++ zeros 35 ++ [7, 0, 0, 0, 0, 0, 0, 0, 9] ++ zeros 19 ++ [3, 2, 3])
   let at_ (mode : BitVec 2) (serial : BitVec 64) : State := { link .identify {} with ports := [(496, { state := .identify, wireMode := mode, wireSerial := serial, wirePort := 9 })] }
   osCrcOk d = true ∧ byteAt d 64 = 3 ∧ fieldOf d 36 8 = 7 ∧ fieldOf d 44 2 = 9 ∧
   gives (.identReceived 9 496 d 2 1) (at_ 0 8) (fun s => (s.port 496).state == .active && (s.port 496).flpMinor == 2 && (s.port 496).features == 3) = true ∧
   gives (.identReceived 9 496 d 2 1) (at_ 1 8) (fun s => (s.port 496).state == .quarantine) = true ∧
   gives (.identReceived 9 496 d 2 1) (at_ 1 7) (fun s => (s.port 496).state == .active) = true ∧
   gives (.identReceived 9 496 d 2 1) (at_ 2 7) (fun s => (s.port 496).state == .down) = true ∧
   gives (.identReceived 9 496 (zeros 264) 2 1) (at_ 0 8) (fun s => s.ports == (at_ 0 8).ports && (s.lane 496).osCrc == 1 && (s.lane 496).fecCorrected == 2) = true)) := by decide +kernel
theorem test_training_timers : (let at_ (n : Nat) : State := { link .identify {} with ports := [(496, { state := .identify, attempts := n })] }
  gives (.trainingTimeout 10000000 496) (at_ 2) (fun s => (s.port 496).state == .holdoff && (s.port 496).attempts == 3) = true ∧
  gives (.trainingTimeout 10000000 496) (at_ 0) (fun s => (s.port 496).state == .detect && (s.lane 511).state == .detect && (s.port 496).reason == .trainTimeout) = true) ∧
  (let s0 := link .config { state := .config }
   511 ∈ s0.portLanes 496 ∧ (s0.lane 511).state = .config ∧ s0.laneMapOk 496 = false ∧
   gives (.trainingTimeout 10000000 496) s0 (fun s => (s.port 496).reason == .laneMap && (s.port 496).attempts == 1) = true) ∧
  gives (.holdoffExpiry 1000000000 496) (link .holdoff {}) (fun s => (s.port 496).state == .detect) = true ∧
  gives (.holdoffExpiry 999999999 496) (link .holdoff {}) (fun s => (s.port 496).state == .holdoff) = true := by decide +kernel
theorem test_partner_restart : (let s0 : State := { link .down { lostAt := some 0 } with ports := [(496, { state := .down, reason := .versionRefused })] }
  511 ∈ s0.portLanes 496 ∧ (s0.lane 511).lostAt = some 0 ∧ gives (.partnerRestart 1000000 496) s0 (fun s => (s.port 496).state == .detect) = true) := by decide +kernel
theorem test_quiesce : gives (.quiesceReceived 9 496) (link .active {}) (fun s => (s.port 496).state == .quiesced && (s.port 496).quiescedFrom == .active) = true ∧
  (let q (f : LinkState) : State := { link .active {} with ports := [(496, { state := .quiesced, quiescedFrom := f })] }
   gives (.quiesceEnd 9 496) (q .quarantine) (fun s => (s.port 496).state == .quarantine) = true ∧
   gives (.quiesceEnd 9 496) (q .active) (fun s => (s.port 496).state == .active) = true) ∧
  gives (.linkDownReceived 9 511) (link .active {}) (fun s => (s.port 496).state == .detect && (s.port 496).reason == .partnerDown && (s.port 496).linkDown) = true ∧
  gives (.linkDownReceived 9 511) (link .holdoff {}) (fun s => s == { link .holdoff {} with now := 9 }) = true := by decide +kernel

/-- A cell: type, seq and its body, with its CRC. -/
def mkCell (hd seq : Nat) (body : List Byte) : List Byte :=
  let h := leBytes 1 hd ++ leBytes 2 seq ++ [0]
  let p := padTo 256 body
  h ++ leBytes 4 (crc32c (h ++ p)).toNat ++ p

/-- Port 511 of L31, one lane wide, carries cells. -/
def narrow : State := { ready with
  laneDies := [(31, { startMap := 0xFFFF, enable := 0xFFFF, pendStart := 0xFFFF, pendEnable := 0xFFFF, inUse := true })]
  ports := [(511, { state := .active })], lanes := [(511, { rxSlot := 1 })] }

theorem test_cell_received : (let b := mkCell 4 0 [1, 2]
  b.length = 264 ∧ narrow.framed 511 = true ∧ narrow.portLanes 511 = [511] ∧ narrow.isIndex0 511 = false ∧ narrow.dieRuns 19 = true ∧
  crc32c (sliceOf b 0 4 ++ sliceOf b 8 256) = BitVec.ofNat 32 (fieldOf b 4 4) ∧ (BitVec.ofNat 12 (fieldOf b 1 2) - (narrow.port 511).expected).toNat = 0 ∧
  gives (.cellReceived 9 511 b 3 ⟨0, false⟩) narrow (fun s => (s.port 511).expected == 1 && (s.inPkt narrow.nextId).isSome && (s.lane 511).fecCorrected == 3) = true ∧
  gives (.cellReceived 9 511 b 0 ⟨1, true⟩) narrow (fun s => (s.port 511).rxError && (s.port 511).expected == 0 && (s.lane 511).cellCrc == 0) = true ∧
  crc32c (sliceOf (zeros 264) 0 4 ++ sliceOf (zeros 264) 8 256) ≠ BitVec.ofNat 32 (fieldOf (zeros 264) 4 4) ∧
  gives (.cellReceived 9 511 (zeros 264) 0 ⟨1, true⟩) narrow (fun s => (s.port 511).rxError && (s.port 511).nakId == 1 && (s.lane 511).cellCrc == 1) = true) := by decide +kernel
theorem test_cell_taken_already : (let b := mkCell 4 2048 [1, 2]
  (BitVec.ofNat 12 (fieldOf b 1 2) - (narrow.port 511).expected).toNat = 2048 ∧
  gives (.cellReceived 9 511 b 0 ⟨0, false⟩) narrow (fun s => s.ports == narrow.ports && s.inPkts == narrow.inPkts) = true) := by decide +kernel
/-- The second lane of a port of two receives its cell of a slot last, and then both are read, the lower lane first. -/
theorem test_cell_waits : (let a := mkCell 4 0 [1]
  let b := mkCell 4 1 [2]
  let s0 : State := { narrow with laneDies := [(31, { startMap := 0x5555, enable := 0x5555, inUse := true })], ports := [(510, { state := .active })], lanes := [(510, { rxSlot := 1 }), (511, { rxSlot := 1 })] }
  s0.portLanes 510 = [510, 511] ∧ s0.framed 511 = true ∧
  (match exec (.cellReceived 9 511 b 0 ⟨0, false⟩) s0 with
   | .next s1 => s1.ports == s0.ports && (s1.lane 511).rxSlot == 2 && (s1.lane 511).rxCells == [(1, b, false)] &&
       gives (.cellReceived 10 510 a 0 ⟨0, false⟩) s1 (fun s => (s.port 510).expected == 2 && (s.lane 511).rxCells == [] && s.inPkts.length == 2)
   | _ => false) = true) := by decide +kernel
theorem test_control_slot_received : (let os (ty hd : Nat) := mkSlot ([BitVec.ofNat 8 ty, BitVec.ofNat 8 hd])
  let s0 : State := link .active { ts2 := some (0, 0, 16, 0) }
  let s1 : State := { s0 with ports := [(496, { state := .active, replay := [{ seq := 0, ctype := 2, vc := 0, sub := false, body := [] }] })] }
  (link .off {}).framed 511 = false ∧ gives (.controlSlotReceived 9 511 (zeros 264) 1 1) (link .off {}) (fun s => s == { link .off {} with now := 9 }) = true ∧
  s0.framed 511 = true ∧ s0.isIndex0 511 = true ∧ (zeros 264).length = 264 ∧ osCrcOk (zeros 264) = false ∧
  gives (.controlSlotReceived 9 511 (zeros 264) 1 1) s0 (fun s => (s.lane 511).osCrc == 1 && (s.lane 511).fecUncorrectable == 1 && s.ports == s0.ports) = true ∧
  osCrcOk (os 7 0) = true ∧ gives (.controlSlotReceived 9 511 (os 7 0) 2 0) s0 (fun s => (s.port 496).state == .detect && (s.port 496).reason == .partnerDown && (s.lane 511).fecCorrected == 2) = true ∧
  gives (.controlSlotReceived 9 511 (os 6 0) 0 0) s0 (fun s => (s.port 496).state == .quiesced && (s.port 496).quiescedFrom == .active) = true ∧
  gives (.controlSlotReceived 9 511 (os 5 0) 0 0) s0 (fun s => s.ports == s0.ports && (s.lane 511).osCrc == 0) = true ∧
  osCrcOk (os 2 32) = true ∧ gives (.controlSlotReceived 9 511 (os 2 32) 0 0) s1 (fun s => (s.port 496).replay == [] && (s.port 496).ackAt == 9 && (s.port 496).state == .active) = true) := by decide +kernel
theorem test_control_slot_send : (let at_ (st : LinkState) (n : Nat) := link st { state := st, txSlot := n }
  (at_ .active 0).framed 511 = true ∧ gives (.controlSlotSend 9 511 65535) (at_ .active 0) (fun s => (s.lane 511).txSlot == 1 && (s.lane 511).txFrame == 1 && s.sent.length == 1) = true ∧
  (let s0 := { at_ .active 1260 with vent := { ready.vent with inSafe := true } }
   s0.framed 511 = true ∧ controlSlot 1260 = true ∧ gives (.controlSlotSend 9 511 0) s0 (fun s => (s.lane 511).txSlot == 1261 && s.sent.length == 1) = true) ∧
  (at_ .off 0).framed 511 = false ∧ gives (.controlSlotSend 9 511 0) (at_ .off 0) (fun s => s == { at_ .off 0 with now := 9 }) = true ∧
  controlSlot 1284 = false ∧ gives (.controlSlotSend 9 511 0) (at_ .active 1284) (fun s => s == { at_ .active 1284 with now := 9 }) = true) := by decide +kernel

/-- One cell of port 496 waits for its acknowledgement. -/
def unacked (n : Nat) : State := { link .active {} with
  ports := [(496, { state := .active, replay := [{ seq := 5, ctype := 2, vc := 0, sub := false, body := [] }], resendRun := some (5, n) })] }

theorem test_retry_timeout : (unacked 7).portOfLane 511 = 496 ∧ ((unacked 7).port 496).state.up = true ∧
  gives (.retryTimeout 9999 496) (unacked 7) (fun s => s == { unacked 7 with now := 9999 }) = true ∧
  (let q : State := { unacked 7 with ports := [(496, { (unacked 7).port 496 with state := .quiesced })] }
   gives (.retryTimeout 10000 496) q (fun s => s == { q with now := 10000 }) = true) ∧
  gives (.retryTimeout 10000 496) (unacked 7) (fun s => (s.port 496).resend.length == 1 && (s.port 496).resendRun == some (5, 8) && (s.port 496).cTimeouts == 1) = true ∧
  gives (.retryTimeout 10000 496) (unacked 8) (fun s => (s.port 496).state == .detect && (s.port 496).reason == .retryExhausted && (s.port 496).replay.isEmpty) = true := by decide +kernel
theorem test_module_failure : (let s0 := link .active {}
  moduleExists 67 3 = true ∧ (s0.laneDie 31).failed.getLsbD 3 = false ∧
  gives (.moduleFailure 9 67 3) s0 (fun s => (s.laneDie 31).failed.getLsbD 3 && (s.port 496).state == .off && s.stickyBit 67 3) = true ∧
  moduleExists 27 47 = true ∧ gives (.moduleFailure 9 27 47) s0 (fun s => !(s.plane 7).inService && (s.plane 7).moduleFailed && (s.plane 7).cause == 1) = true) := by decide +kernel
theorem test_ln_commit : (let pend (v : W32) : State := { ready with laneDies := [(31, { pending := [(248, v)] })] }
  ((pend 0x10001).laneDie 31).pending = [(16 * 15 + 8, 0x10001)] ∧ ((pend 0x10001).port 511).state = .off ∧
  (List.range 16).all (fun i => (ready.port (496 + i)).wireMode != 3) = true ∧
  gives (.lnCommit 9 1 31) (pend 0x10001) (fun s => (s.port 511).wirePort == 1 && (s.port 511).wireMode == 1 && (s.laneDie 31).pending.isEmpty) = true ∧
  gives (.lnCommit 9 1 31) (pend 0x30001) (fun s => s.ports.isEmpty && (s.laneDie 31).pending.isEmpty) = true ∧
  (let same : State := { pend 0x10001 with laneDies := [(31, { pending := [(248, 0x10001)], pendAt := (mgCycle 9 + 1, 1) })] }
   pendKept 9 (same.laneDie 31).pendAt = 1 ∧ gives (.lnCommit 9 1 31) same (fun s => s.ports.isEmpty && (s.laneDie 31).pending == [(248, 0x10001)]) = true ∧
   gives (.lnCommit 9000 1 31) same (fun s => (s.port 511).wirePort == 1 && (s.laneDie 31).pending == []) = true) ∧
  gives (.lnCommit 9 2 31) ready (fun s => s == { ready.refuseWrite 2 with now := 9 }) = true ∧
  (let far := ready.modDie 67 (fun d => { d with released := false })
   far.reachable 67 = false ∧ gives (.lnCommit 9 2 31) far (fun s => s == accessRefused 2 (some 67) (far.tick 9)) = true)) := by decide +kernel

/-! ## Descriptors, routes and tile commits -/

/-- A descriptor of a kind with a body, from the mailbox of HOST, stands first in hand. -/
def withJob (kind : Nat) (body : List Byte) (s : State) : State := { s with
  jobs := [{ src := .mbox 1, desc := padTo 64 (leBytes 8 kind ++ body) }], masters := [(1, { mboxBusy := true })] }

/-- State.NextJob as a test. -/
def nextJob (kind op : Nat) (s : State) : Bool :=
  !s.clkStopped dieTD && !s.vent.inSafe && (match s.jobs with
    | j :: js => jobIs kind op j && !j.started && s.isOwner (jobMaster j.src) && js == []
    | [] => false)

/-- The mailbox shows the status and nothing is in hand. -/
def reports (st : Nat) (s : State) : Bool :=
  s.jobs == [] && !(s.master 1).mboxBusy && (tget 0 (s.master 1).mboxCmpl 2).toNat == st

/-- The body of a ROUTE_UPDATE. -/
def routeBody (op sl x n y : Nat) : List Byte := leBytes 1 op ++ leBytes 1 sl ++ zeros 2 ++ leBytes 4 x ++ leBytes 4 n ++ leBytes 4 y

/-- Slice 3 holds a region of 2 entries at index 8. -/
def sliced : State := { ready with
  routing := { ready.routing with
    slices := [(3, { valid := true, hopLimit := 4, routeBase := 8, epCount := 1, mcCount := 1, version := 6 })]
    sets := [(9, { members := 1, slice := 2, valid := true })]
    routes := [(8, 0x03000902), (9, 0x03000903), (20, 0x02000000)] }
  portCfg := [(0, { slices := 4 })] }

theorem test_write_entries :
  (let s0 := withJob 3 (routeBody 1 2 5 2 0) sliced
   let data := leBytes 4 0xF8 ++ leBytes 4 0xFF0000F9
   nextJob 3 1 s0 = true ∧ s0.prevHolds 5 2 = false ∧ s0.rangeCommitted 5 2 = false ∧ (s0.slice 2).conf = false ∧
   (List.range 2).all (fun i => s0.entryBreach 2 false none (entryFor 2 (fieldOf data (4 * i) 4)) == none) = true ∧
   gives (.writeEntries 9 data) s0 (fun s => s.route 5 == 0x02000000 && s.route 6 == 0x02000001 && s.route 8 == sliced.route 8 && reports 0 s) = true) ∧
  (let s0 := withJob 3 (routeBody 1 2 7 2 0) sliced
   nextJob 3 1 s0 = true ∧ s0.rangeCommitted 7 2 = true ∧
   gives (.writeEntries 9 (zeros 8)) s0 (fun s => s.routing == sliced.routing && reports 0x30 s) = true) := by decide +kernel
theorem test_write_set :
  (let s0 := withJob 3 (routeBody 2 2 4095 0 0) sliced
   nextJob 3 2 s0 = true ∧ s0.setInUse 4095 = false ∧ portBreach (s0.cfg 0) 2 false = none ∧
   gives (.writeSet 9 [1]) s0 (fun s => s.rset 4095 == { members := 1, slice := 2, valid := true } && s.rset 9 == sliced.rset 9 && reports 0 s) = true) ∧
  (let s0 := withJob 3 (routeBody 2 2 9 0 0) sliced
   nextJob 3 2 s0 = true ∧ s0.setInUse 9 = true ∧
   gives (.writeSet 9 [1]) s0 (fun s => s.routing == sliced.routing && reports 0x30 s) = true) := by decide +kernel
theorem test_copy_region : (let s0 := withJob 3 (routeBody 3 2 20 2 1048574) sliced
  nextJob 3 3 s0 = true ∧ s0.prevHolds 1048574 2 = false ∧ s0.rangeCommitted 1048574 2 = false ∧
  s0.routing.routes.all (fun e => !(decide (20 ≤ e.1 ∧ e.1 < 22)) || entryKind e.2 == 0 || entrySlice e.2 == 2) = true ∧
  gives (.copyRegion 9) s0 (fun s => s.route 1048574 == 0x02000000 && s.route 1048575 == 0x02000000 && s.route 8 == s0.route 8 && reports 0 s) = true) := by decide +kernel
theorem test_commit_slice :
  (let s0 := withJob 3 (routeBody 4 2 0 0 0) sliced
   let image := [1, 5, 0, 0] ++ leBytes 4 20 ++ leBytes 4 1
   let d := { parseSlice (padTo 16 image) with version := 1 }
   nextJob 3 4 s0 = true ∧ d.len = 1 ∧ regionsOverlap d (s0.slice 3) = false ∧ entrySlice (s0.route 20) = 2 ∧
   s0.entryBreach 2 d.conf (some false) (s0.route 20) = none ∧
   gives (.commitSlice 9 image) s0 (fun s => s.slice 2 == d && s.slice 3 == s0.slice 3 && tget none s.routing.prev 2 == some ({}, 9) && reports 0 s) = true ∧
   gives (.commitSlice 9 [1]) s0 (fun s => s.routing == s0.routing && reports 0x30 s) = true) ∧
  (let s0 := withJob 3 (routeBody 5 3 0 0 0) sliced
   nextJob 3 5 s0 = true ∧ gives (.clearSlice 9) s0 (fun s => s.slice 3 == { s0.slice 3 with valid := false } && s.routing.routes == s0.routing.routes && reports 0 s) = true) := by decide +kernel
theorem test_prev_expiry : (let s0 : State := { sliced with routing := { sliced.routing with prev := [(3, some ({}, 5))] } }
  tget none s0.routing.prev 3 = some ({}, 5) ∧
  gives (.prevDescriptorExpiry 10005 3) s0 (fun s => tget none s.routing.prev 3 == none && s.routing.slices == s0.routing.slices) = true ∧
  gives (.prevDescriptorExpiry 10004 3) s0 (fun s => s == { s0 with now := 10004 }) = true) := by decide +kernel
theorem test_pt_commit :
  (let pend (v : W32) : State := { ready with laneDies := [(0, { startMap := 1, enable := 1 })], tiles := [(0, { pending := [(0x10000, v)] })] }
   (pend 4).isOwner 1 = true ∧ (pend 4).reachable 4 = true ∧ ((pend 4).shadowTile 0).commitBreach 0 = none ∧
   gives (.ptCommit 9 1 0) (pend 4) (fun s => (s.tile 0).pending == [] && !(s.tile 0).refused && (s.cfg 0).enc) = true ∧
   (((pend 3).shadowTile 0).commitBreach 0).isSome = true ∧
   gives (.ptCommit 9 1 0) (pend 3) (fun s => (s.tile 0).pending == [] && (s.tile 0).refused && s.portCfg == []) = true ∧
   (let same : State := { pend 4 with tiles := [(0, { pending := [(0x10000, 4)], pendAt := (mgCycle 9 + 1, 1) })] }
    pendKept 9 (same.tile 0).pendAt = 1 ∧
    gives (.ptCommit 9 1 0) same (fun s => (s.tile 0).pending == [(0x10000, 4)] && !(s.tile 0).refused && !(s.cfg 0).enc) = true) ∧
   (let busy : State := { pend 4 with jobs := [{ src := .ring 3 0, desc := padTo 64 (leBytes 8 3 ++ [1]) }] }
    busy.jobs.any Job.ordered = true ∧
    gives (.ptCommit 9 1 0) busy (fun s => s == { busy with now := 9, jobs := busy.jobs ++ [{ src := .commit 1 0 1, desc := [] }] }) = true)) := by decide +kernel
theorem test_port_set :
  (let s0 := withJob 5 ([0, 0, 3] ++ zeros 29) { ready with laneDies := [(0, { startMap := 1, enable := 1 })] }
   let c (h : List Byte) := (stageImage 0 0x10000 (padTo 512 h) s0).shadowTile 0
   nextJob 5 3 s0 = true ∧ s0.startsPort 0 = true ∧ (c [4]).commitBreach 0 = none ∧
   gives (.portSet 9 [4]) s0 (fun s => (s.cfg 0).enc && s.cfg 0 == (c [4]).cfg 0 && (s.tile 0).pending == [] && reports 0 s) = true ∧
   ((c [3]).commitBreach 0).isSome = true ∧
   gives (.portSet 9 [3]) s0 (fun s => s.portCfg == [] && (s.tile 0).pending == [] &&
     reports (((c [3]).commitBreach 0).map (fun b => b.1.toNat)).get! s) = true) ∧
  (let s0 := withJob 5 ([1, 0, 3] ++ zeros 29) { ready with laneDies := [(0, { startMap := 1, enable := 1 })] }
   s0.startsPort 1 = false ∧ gives (.portSet 9 [4]) s0 (fun s => s.portCfg == [] && s.tiles == [] && reports 0x76 s) = true) := by decide +kernel
theorem test_shaper_set : (let s0 := withJob 4 ([15, 1] ++ leBytes 2 4095) ready
  let image := [1]
  let c := (stageImage 15 (0x100000 + 0x20 * 4095) (padTo 32 image) s0).shadowTile 15
  nextJob 4 1 s0 = true ∧ c.commitBreach 15 = none ∧
  gives (.shaperSet 9 image) s0 (fun s => s.fq 65535 == c.fq 65535 && (s.fq 65535).valid && (s.tile 15).pending == [] && reports 0 s) = true) := by decide +kernel
theorem test_port_ctl :
  (let s1 : State := { wired with ports := [(0, { state := .active, partner := leBytes 8 77 ++ leBytes 2 5 })] }
   let wire := withJob 5 ([0, 0, 2, 0] ++ leBytes 4 1 ++ leBytes 8 77 ++ leBytes 2 5) s1
   nextJob 5 2 wire = true ∧ wire.startsPort 0 = true ∧ (wire.laneDie 0).pending = [] ∧
   gives (.portCtlWire 9) wire (fun s => (s.port 0).wireSerial == 77 && (s.port 0).wirePort == 5 && (s.port 0).wireMode == 1 && reports 0 s) = true ∧
   (let acc := withJob 6 [0, 0] s1
    nextJob 6 0 acc = true ∧ (acc.port 0).partner.any (fun b => b != 0) = true ∧
    gives (.wiringAccept 9) acc (fun s => (s.port 0).wireSerial == 77 && (s.port 0).wirePort == 5 && (s.port 0).wireMode == 1 && reports 0 s) = true) ∧
   (let rst := withJob 5 [0, 0, 1] s1
    nextJob 5 1 rst = true ∧ rst.portIsolated 0 = false ∧
    gives (.portCtlReset 9) rst (fun s => (s.port 0).state == .detect && (s.port 0).reason == .portReset && reports 0 s) = true) ∧
   (let wd := withJob 5 ([0, 0, 4, 0] ++ leBytes 4 0x10001) s1
    nextJob 5 4 wd = true ∧ mapValid 1 = true ∧
    gives (.portCtlWidth 9) wd (fun s => (s.laneDie 0).startMap == 1 && (s.laneDie 0).enable == 1 && s.rstStatus == wd.rstStatus && reports 0 s) = true) ∧
   (let bad := withJob 5 [1, 0, 1] s1
    bad.startsPort 1 = false ∧ gives (.portCtlReset 9) bad (fun s => s.ports == s1.ports && reports 0x76 s) = true)) := by decide +kernel

/-! ## Ingress and fabric -/

/-- A packet header with its CRC. -/
def mkHdr (b : List Byte) : List Byte :=
  let p := padTo 62 b
  p ++ leBytes 2 (crc16 p).toNat

/-- A packet of virtual channel 2 and class D, in slice 2, of n bytes of payload, to endpoint d. -/
def plainHdr (d n : Nat) : List Byte := mkHdr ([0x21, 0] ++ leBytes 2 d ++ leBytes 2 7 ++ [2, 0] ++ zeros 8 ++ leBytes 2 n)

/-- Packet 4 arrives on port 0, of one cell; slice 2 has a route of endpoint 5 to port 40. -/
def arrived (bytes : List Byte) (v : Verdict) (perm : BitVec 256) : State := { ready with
  pkg := { ready.pkg with selfEp := 9 }
  portCfg := [(0, { slices := perm }), (40, { slices := 4 })]
  routing := { ready.routing with
    slices := [(2, { valid := true, hopLimit := 4, routeBase := 8, epLo := 5, epCount := 1 })]
    routes := [(8, 0x02002801)] }
  inPkts := [(4, some { port := 0, pair := 4, bytes := padTo 256 bytes, cells := 1, whole := true, verdict := v, streams := [], final := 0 })]
  laneDies := [(2, { startMap := 0x101, enable := 0x101 })]
  ports := [(40, { state := .active })]
  nextId := 5 }

theorem test_ingress_decides :
  (let bad := arrived (zeros 64) .pending 4
   (bad.inPkt 4).isSome = true ∧ (bad.inPkt 4).map (fun p => bad.headerCheck p (parseHdr p.bytes)) = some 1 ∧
   gives (.ingressLookup 9 4 .none) bad (fun s => (s.inPkt 4).map (fun p => p.verdict) == some (.dropped 0) && (s.pktCntOf 0).hdrCrc == 1 && s.sent == []) = true) ∧
  (let good (d : Nat) (perm : BitVec 256) := arrived (plainHdr d 8) .pending perm
   ((good 5 4).inPkt 4).map (fun p => (good 5 4).headerCheck p (parseHdr p.bytes)) = some 0 ∧
   gives (.ingressLookup 9 4 .none) (good 5 0) (fun s => (s.inPkt 4).map (fun p => p.verdict) == some (.dropped 7) && s.pktCnt == []) = true ∧
   gives (.ingressLookup 9 4 .none) (good 6 4) (fun s => (s.inPkt 4).map (fun p => p.verdict) == some (.dropped 8)) = true ∧
   gives (.ingressLookup 9 4 .none) (good 5 4) (fun s => (s.inPkt 4).map (fun p => (p.verdict, p.streams)) ==
     some (.sending, [{ dst := 1, mask := 0x100, relSeq := 0, sentCells := 0 }])) = true) ∧
  (let mgmt := arrived (mkHdr ([1, 2] ++ leBytes 2 9 ++ leBytes 2 7 ++ [2])) .pending 4
   let m : State := { mgmt with inPkts := [(4, some { port := 0, pair := 0, bytes := padTo 256 (mkHdr ([1, 0] ++ leBytes 2 9 ++ leBytes 2 7 ++ [2])), cells := 1, whole := true, verdict := .pending, streams := [], final := 0 })] }
   (m.inPkt 4).map (fun p => m.headerCheck p (parseHdr p.bytes)) = some 0 ∧
   gives (.ingressLookup 9 4 .none) m (fun s => (s.inPkt 4).map (fun p => p.verdict) == some .toMgmt) = true) := by decide +kernel
/-- A packet that the port expects encrypted, and one for every member of set 3, none of which permits its slice. -/
def unencrypted : State := { arrived (plainHdr 5 8) .pending 4 with portCfg := [(0, { slices := 4, enc := true }), (40, { slices := 4 })] }
def forAll : State := { arrived (mkHdr ([0x21, 0x10] ++ leBytes 2 0 ++ leBytes 2 7 ++ [2, 0] ++ zeros 8 ++ leBytes 2 8)) .pending 4 with
  portCfg := [(0, { slices := 4 })]
  routing := { ready.routing with
    slices := [(2, { valid := true, hopLimit := 4, routeBase := 8, epLo := 5, epCount := 1, mcCount := 1 })]
    routes := [(9, 0x02000303)], sets := [(3, { members := 0x10000000000, slice := 2, valid := true })] } }
theorem test_ingress_checks : (unencrypted.inPkt 4).map (fun p => unencrypted.headerCheck p (parseHdr p.bytes)) = some 4 ∧
  gives (.ingressLookup 9 4 .none) unencrypted (fun s => (s.inPkt 4).map (fun p => p.verdict) == some (.dropped 4) && s.pktCnt == []) = true ∧
  (forAll.inPkt 4).map (fun p => ((forAll.ingressDecision p (parseHdr p.bytes)).fail, (forAll.ingressDecision p (parseHdr p.bytes)).silent)) = some (0, true) ∧
  gives (.ingressLookup 9 4 .none) forAll (fun s => (s.inPkt 4).map (fun p => p.verdict) == some (.noCopy 1)) = true := by decide +kernel
theorem test_ingress_settled :
  (let d := arrived (plainHdr 6 8) (.dropped 8) 4
   (d.inPkt 4).map (fun p => d.lateCheck p) = some 1 ∧
   gives (.ingressFinalCheck 9 4) d (fun s => (s.inPkt 4).isNone && (s.pktCntOf 0).noRoute == 1 && (s.pktCntOf 0).lenErr == 0) = true) ∧
  (let d := arrived (plainHdr 6 800) (.dropped 8) 4
   (d.inPkt 4).map (fun p => d.lateCheck p) = some 3 ∧
   gives (.ingressFinalCheck 9 4) d (fun s => (s.inPkt 4).isNone && (s.pktCntOf 0).noRoute == 0 && (s.pktCntOf 0).lenErr == 1) = true) ∧
  (let d := arrived (plainHdr 6 800) (.dropped 4) 4
   (d.inPkt 4).map (fun p => d.lateCheck p) = some 3 ∧
   gives (.ingressFinalCheck 9 4) d (fun s => (s.inPkt 4).isNone && (s.pktCntOf 0).encMismatch == 0 && (s.pktCntOf 0).lenErr == 1) = true) ∧
  (let d := arrived (plainHdr 6 8) (.dropped 4) 4
   gives (.ingressFinalCheck 9 4) d (fun s => (s.inPkt 4).isNone && (s.pktCntOf 0).encMismatch == 1 && (s.pktCntOf 0).lenErr == 0) = true) ∧
  (let d := arrived (plainHdr 5 8) .sending 4
   gives (.ingressFinalCheck 9 4) d (fun s => (s.inPkt 4).map (fun p => (p.final, p.verdict)) == some (1, .sending)) = true ∧
   gives (.ingressFinalCheck 9 4) (arrived (plainHdr 5 8) .pending 4) (fun s => s == { arrived (plainHdr 5 8) .pending 4 with now := 9 }) = true) := by decide +kernel

/-- Fabric port 15 has one cell of packet 4 staged for tile 1. -/
def stagedCell : State := { arrived (plainHdr 5 8) .sending 4 with
  inPkts := [(4, some { port := 480, pair := 4, bytes := padTo 256 (plainHdr 5 8), cells := 1, whole := true, verdict := .sending, streams := [{ dst := 1, mask := 0x100, relSeq := 3, sentCells := 0 }], final := 1 })]
  fabric := { ready.fabric with staged := [(15, [{ pkt := 4, dst := 1, index := 0 }])] } }

theorem test_fabric_slot :
  stagedCell.vent.inSafe = false ∧ (stagedCell.plane 7).inService = true ∧ stagedCell.dieOut 19 = false ∧
  (tget [] stagedCell.fabric.staged 15).find? (fun c => decide (0 < stagedCell.credit 15 7 c.dst) && stagedCell.eligible 15 c) = some { pkt := 4, dst := 1, index := 0 } ∧
  gives (.fabricSlot 9 15) stagedCell (fun s => tget 0 s.fabric.slot 15 == 1 && s.credit 15 7 1 == 1 && tget [] s.fabric.staged 15 == [] &&
    (tget [] s.fabric.toPlane 7).map (fun c => (c.data, c.src, c.dst, c.relSeq, c.verdict, c.via, c.fcrc == c.crcOf)) == [(true, 15, 1, 0, 1, 30, true)]) = true ∧
  stagedCell.dieRuns 19 = true ∧ (stagedCell.inPkt 4).map (fun x => tileOf x.port) = some 15 ∧
  gives (.fabricSlot 9 0) stagedCell (fun s => s == { stagedCell with now := 9, fabric := { stagedCell.fabric with slot := [(0, 1)] } }) = true ∧
  (let held : State := { ready with fabric := { ready.fabric with
     staged := [(18, [{ pkt := 1, dst := 1, index := 0 }, { pkt := 2, dst := 3, index := 0 }])], credits := [((18 * 8 + 2) * 24 + 1, 0)] } }
   held.dieRuns 30 = true ∧ held.credit 18 ((16 + 2 + 0) % 8) 1 = 0 ∧
   gives (.fabricSlot 9 18) held (fun s => s == { held with now := 9, fabric := { held.fabric with slot := [(18, 1)] } }) = true) := by decide +kernel

/-- A fabric cell. -/
def fcell (data : Bool) (cr : List Nat) (rel : BitVec 16) : FabCell := FabCell.crcSet { data := data, vc := 2, mcast := false, src := 16, dst := 3, pool := 0, index := 0, count := 1, verdict := 1, relSeq := rel, mask := 0, payCrc := 77, crcPresent := false, credits := cr, body := padTo 256 (plainHdr 5 8) }

theorem test_plane_cells :
  (let at_ (n : Nat) : State := { ready with fabric := { ready.fabric with
     toPlane := [(7, [fcell true [] 0])], latches := if n = 0 then [] else [((7 * 24 + 16) * 24 + 3, List.replicate n (fcell true [] 5))] } }
   ((at_ 1).plane 7).inService = true ∧
   gives (.planeCellReceive 9 7) (at_ 1) (fun s => tget [] s.fabric.toPlane 7 == [] && tget [] s.fabric.latches ((7 * 24 + 16) * 24 + 3) == [fcell true [] 5, fcell true [] 0]) = true ∧
   gives (.planeCellReceive 9 7) (at_ 2) (fun s => tget [] s.fabric.toPlane 7 == [] && s.fabric.latches == (at_ 2).fabric.latches && s.stickyBit 27 8) = true ∧
   (let one : State := { at_ 1 with fabric := { (at_ 1).fabric with toPlane := [], returning := [] } }
    gives (.planeSlot 9 7) one (fun s => (s.plane 7).slot == 1 && tget [] s.fabric.latches ((7 * 24 + 16) * 24 + 3) == [] &&
      (tget [] s.fabric.toPort 3).map (fun c => (c.1, c.2.relSeq, c.2.src)) == [(7, 5, 16)]) = true) ∧
   (let out : State := { at_ 1 with fabric := { (at_ 1).fabric with planes := [(7, { inService := false })] } }
    (out.plane 7).rejoining = false ∧ gives (.planeSlot 9 7) out (fun s => (s.plane 7).slot == 1 && s.fabric.latches == out.fabric.latches && s.fabric.toPort == []) = true)) := by decide +kernel
theorem test_plane_retire : ready.reachable 27 = true ∧ ready.isOwner 1 = true ∧ (ready.plane 7).inService = true ∧
  gives (.planeRetire 9 1 7) ready (fun s => !(s.plane 7).inService && (s.plane 7).cause == 3 && (s.tile 15).planesOut == 0x80 && (s.plane 6).inService) = true ∧
  (let out (r m : Bool) : State := { ready with fabric := { ready.fabric with planes := [(7, { inService := false, resetSince := r, moduleFailed := m })] } }
   gives (.planeRejoin 9 1 7) (out true false) (fun s => (s.plane 7).rejoining && !(s.plane 7).rejoinRefused) = true ∧
   gives (.planeRejoin 9 1 7) (out false false) (fun s => !(s.plane 7).rejoining && (s.plane 7).rejoinRefused) = true ∧
   gives (.planeRejoin 9 1 7) (out true true) (fun s => !(s.plane 7).rejoining && (s.plane 7).rejoinRefused) = true) ∧
  gives (.planeRetire 9 2 7) ready (fun s => s == { ready.refuseWrite 2 with now := 9 }) = true ∧
  (let far := ready.modDie 27 (fun d => { d with released := false })
   far.reachable 27 = false ∧ gives (.planeRejoin 9 2 7) far (fun s => s == accessRefused 2 (some 27) (far.tick 9)) = true) := by decide +kernel
theorem test_fabric_arrival :
  (let at_ (c : FabCell) : State := { ready with fabric := { ready.fabric with toPort := [(15, [(7, c)])], credits := [((15 * 8 + 7) * 24 + 23, 1)] } }
   gives (.fabricCellArrival 9 15 false .none) (at_ (fcell false [23] 0)) (fun s => tget [] s.fabric.toPort 15 == [] && s.credit 15 7 23 == 2 && s.tiles == []) = true ∧
   (at_ (fcell true [] 0)).dieOut 19 = false ∧ ((at_ (fcell true [] 0)).tile 15).expected 16 2 = 0 ∧
   gives (.fabricCellArrival 9 15 false .none) (at_ (fcell true [] 0)) (fun s => tget [] s.fabric.toPort 15 == [] &&
     ((s.tile 15).find 16 2 0).map (fun r => (r.complete, r.failed, r.verdict, r.payCrc)) == some (true, false, 1, 77)) = true ∧
   gives (.fabricCellArrival 9 15 true .none) (at_ (fcell true [] (0 - 1))) (fun s => (s.tile 15).fabCrc == 1 && s.stickyBit 19 14 && (s.tile 15).seqSkip == 1 && (s.tile 15).reasmTimeout == 0 && (s.tile 15).reasm == []) = true ∧
   gives (.fabricCellArrival 9 15 true .none) (at_ (fcell false [23] 0)) (fun s => tget [] s.fabric.toPort 15 == [] && (s.tile 15).fabCrc == 1 && s.stickyBit 19 14 && (s.tile 15).reasm == []) = true ∧
   gives (.fabricCellArrival 9 15 true .none) { at_ (fcell true [] (0 - 1)) with tiles := [(15, { resolved := [(130, [65535])] })] }
     (fun s => (s.tile 15).seqSkip == 0 && (s.tile 15).reasmTimeout == 1 && (s.tile 15).reasm == []) = true) := by decide +kernel

/-- A packet under reassembly at tile 15, from fabric port 16 on virtual channel 2. -/
def reasm (rel : BitVec 16) (done : Bool) (d : Nat) : State := { arrived [] .pending 4 with
  inPkts := []
  now := 9
  tiles := [(15, { gaps := (if rel = 0 then [] else [(16 * 8 + 2, [(0, 1)])]), reasm := [{ src := 16, vc := 2, relSeq := rel, firstAt := 1, count := 1, mcast := false, got := [(0, padTo 256 (plainHdr d 8))], mask := 0, bufs := [], failed := false, verdict := 1, payCrc := 0, crcPresent := false, complete := done }] })] }

theorem test_reassembly :
  ((reasm 0 true 5).tile 15).expected 16 2 = 0 ∧
  gives (.packetRelease 9 15 16 2 .none) (reasm 0 true 5) (fun s => (s.tile 15).expected 16 2 == 1 && (s.tile 15).reasm == [] && s.sent == [] && s.dies == ready.dies) = true ∧
  gives (.packetRelease 9 15 16 2 .none) (reasm 0 true 6) (fun s => (s.tile 15).expected 16 2 == 1 && (s.tile 15).reasm == [] && s.stickyBit 28 30 && (s.die 19).aux1 == 1) = true ∧
  gives (.reassemblyTimeout 2001 15 16 2 0) (reasm 0 false 5) (fun s => (s.tile 15).reasm == [] && (s.tile 15).reasmTimeout == 1 && (s.tile 15).expected 16 2 == 1) = true ∧
  tget [] ((reasm 1 false 5).tile 15).gaps (16 * 8 + 2) = [(0, 1)] ∧
  gives (.seqGapTimeout 2001 15 16 2) (reasm 1 false 5) (fun s => (s.tile 15).expected 16 2 == 1 && (s.tile 15).seqSkip == 1 && tget [] (s.tile 15).gaps 130 == [] && (s.tile 15).reasm.length == 1) = true ∧
  gives (.seqGapTimeout 2000 15 16 2) (reasm 1 false 5) (fun s => s == { reasm 1 false 5 with now := 2000 }) = true := by decide +kernel
/-- The same packet with a buffer at port 488, which the entry of endpoint 5 names; its class and trailer CRC. -/
def queuedFor (cls : Byte) (crc : BitVec 32) : State := { reasm 0 true 5 with
  routing := { (reasm 0 true 5).routing with routes := [(8, 0x0201E801)] }
  tiles := [(15, { reasm := [{ src := 16, vc := 2, relSeq := 0, firstAt := 1, count := 1, mcast := false, got := [(0, padTo 256 (mkHdr ([0x21, cls] ++ leBytes 2 5 ++ leBytes 2 7 ++ [2, 0] ++ zeros 8 ++ leBytes 2 8)))], mask := 0x100, bufs := [{ j := 8, vc := 2, pool := 0, addr := 0, stride := 320, cat := .shared }], failed := false, verdict := 1, payCrc := crc, crcPresent := true, complete := true }] })] }
theorem test_packet_release : (queuedFor 0 7).dieRuns 19 = true ∧
  (((queuedFor 0 7).tile 15).find 16 2 0).map (fun r => (r.complete, ((queuedFor 0 7).tick 9).confirms (slotHdr r.bytes) [488])) = some (true, true) ∧
  gives (.packetRelease 9 15 16 2 .none) (queuedFor 0 7) (fun s => ((s.tile 15).find 16 2 0).isNone && (s.tile 15).expected 16 2 == 1 &&
    (s.outPort 488).queue.map (fun q => (q.buf.addr, q.hdr.dst, q.hdr.src, q.payload.length)) == [(0, 5, 7, 8)]) = true ∧
  gives (.packetRelease 9 15 16 2 .none) (queuedFor 2 7) (fun s => ((s.tile 15).find 16 2 0).isNone && s.stickyBit 19 srcGcrcRel && (s.die 19).aux0 == 1 && (s.outPort 488).queue == []) = true ∧
  gives (.packetRelease 9 15 16 2 .none) (queuedFor 2 (crc32c (zeros 8))) (fun s => (s.outPort 488).queue.length == 1 && (s.die 19).aux0 == 0) = true ∧
  (((reasm 0 false 5).tile 15).find 16 2 0).map (fun r => r.complete) = some false ∧
  gives (.packetRelease 9 15 16 2 .none) (reasm 0 false 5) (fun s => s == reasm 0 false 5) = true := by decide +kernel
theorem test_pools : ready.reachable 19 = true ∧ (ready.tile 15).rebuild = false ∧
  gives (.poolRebuild 9 1 15 3) ready (fun s => (s.tile 15).rebuild && !(s.tile 15).rebuildRefused && (s.tile 15).ctlPool == 3) = true ∧
  (let used : State := { ready with tiles := [(15, { pools := [(3, { base := 0, count := 4, used := 1 })], hwmPool := [(3, 2)] })] }
   gives (.poolRebuild 9 1 15 3) used (fun s => !(s.tile 15).rebuild && (s.tile 15).rebuildRefused) = true ∧
   gives (.hwmRead 9 2 15 0 3) used (fun s => s.sent == [.value 2 (19 * 0x800000 + 0xB10C) 2] && tget 0 (s.tile 15).hwmPool 3 == 1) = true) ∧
  (let run : State := { ready with tiles := [(15, { rebuild := true, ctlPool := 3, pools := [(3, { base := 4096, count := 4, quarantined := true, lost := [8], fresh := 2, back := [4096] })] })] }
   gives (.poolRebuildDone 9 15) run (fun s => !(s.tile 15).rebuild && !((s.tile 15).pool 3).quarantined && ((s.tile 15).pool 3).lost == [] && ((s.tile 15).pool 3).head 3 == 4096) = true) := by decide +kernel

/-! ## Egress, Fumarole, fences and time -/

/-- Port 496 of tile 15 carries cells. -/
def up1 (x : Port) (o : OutPort) : State := { ready with
  laneDies := [(31, { startMap := 1, enable := 1, inUse := true })]
  lanes := [(496, { txSlot := 3 })]
  ports := [(496, { x with state := if x.state = .off then .active else x.state })]
  out := [(496, o)] }

theorem test_credit_free :
  (let at_ (n u : Nat) : State := { up1 { pairs := [(15, { held := [{ cells := 3, pkt := 4, users := [u], known := true }] })] } {} with admitted := [(15, n)] }
   ((at_ 1 100).port 496).state = .active ∧ (at_ 1 100).float.stopped = false ∧ [100].any (at_ 1 100).userOver = false ∧
   gives (.creditFree 9 496 15) (at_ 1 100) (fun s => ((s.port 496).pair 15).held == [] && ((s.port 496).pair 15).freed == 3 && s.sent == []) = true ∧
   gives (.creditFree 9 496 15) (at_ 0 100) (fun s => s == { at_ 0 100 with now := 9 }) = true ∧
   (let ov : State := { at_ 1 4100 with calderas := [(0, { landing := [{ id := 1, src := 0, vc := 1, relSeq := 0, user := 4, firstAt := 0, count := 9, got := (List.range 1536).map (fun i => (i, [])), failed := false, verdict := 1, payCrc := 0, crcPresent := true, inPort := 0, phase := .receiving }] })] }
    [4100].any ov.userOver = true ∧ gives (.creditFree 9 496 15) ov (fun s => ((s.port 496).pair 15).held.length == 1 && ((s.port 496).pair 15).freed == 0) = true) ∧
   (let fast : State := { at_ 1 100 with tiles := [(15, { arrivals := (0, 26) })] }
    (fast.tick 9).overAdmitted 15 = true ∧ gives (.creditFree 9 496 15) fast (fun s => s == { fast with now := 9 }) = true) ∧
   (let full : State := { at_ 1 100 with fabric := { ready.fabric with staged := [(15, (List.range 64).map (fun i => { pkt := 4, dst := 1, index := i }))] }
                                         inPkts := [(4, some { port := 496, pair := 4, bytes := [], cells := 9, whole := false, verdict := .sending, streams := [], final := 0 })] }
    full.stageRoom 496 = false ∧ gives (.creditFree 9 496 15) full (fun s => s == { full with now := 9 }) = true) ∧
   (let q : State := { at_ 1 100 with ports := [(496, { state := .quarantine, pairs := [(15, { held := [{ cells := 3, pkt := 4, users := [100], known := true }] })] })] }
    gives (.creditFree 9 496 15) q (fun s => s == { q with now := 9 }) = true)) := by decide +kernel

/-- A packet queued for port 496. -/
def qpkt (h : PktHdr) (coll : List Byte) (l : Bool) : QPkt := { hdr := h, coll := coll, payload := zeros 8, payCrc := 0, crcPresent := false, buf := { j := 16, vc := 2, pool := 0, addr := 0, stride := 320, cat := .reserve }, sub := true, fq := none, joinedAt := 5, launched := l }

/-- The cell that lane 496 sends in its slot 3. -/
def onLine (b : List Byte) : Sent := .cell 496 3 b (slotLine 3 (BitVec.allOnes 31) b).1

theorem test_cell_opportunity :
  (let down := up1 { state := .identify } {}
   down.startsPort 496 = true ∧ down.framed 496 = true ∧ (down.port 496).state.up = false ∧
   gives (.cellOpportunity 9 496 .none) down (fun s => s.sent == [onLine (cellBytes 0 0 false 0 0 0 (zeros 256))] && (s.lane 496).txSlot == 4 && (s.port 496).nextReport == 1 && (s.port 496).replay == []) = true ∧
   gives (.cellOpportunity 9 496 .none) (down.modLane 496 (fun x => { x with txSlot := 28 })) (fun s => s == { down.modLane 496 (fun x => { x with txSlot := 28 }) with now := 9 }) = true) ∧
  (let off := up1 { state := .detect } {}
   off.framed 496 = false ∧ gives (.cellOpportunity 9 496 .none) off (fun s => s.sent == [] && (s.lane 496).txSlot == 3) = true) ∧
  (let re := up1 { resend := [{ seq := 5, ctype := 2, vc := 3, sub := true, body := [7] }], txSeq := 8 } {}
   re.framed 496 = true ∧ (re.port 496).state = .active ∧
   gives (.cellOpportunity 9 496 .none) re (fun s => s.sent == [onLine (cellBytes 2 3 true 5 0 0 [7])] && (s.port 496).resend == [] && (s.port 496).txSeq == 8) = true) ∧
  (let g : Prog := { pkt := qpkt { vc := 2 } [] true, wire := zeros 600, cells := 3, sentCells := 1, rank := 1 }
   let run := up1 { pairs := [(5, { granted := 1 })], txSeq := 0xFFF } { prog := [g] }
   run.framed 496 = true ∧ g.pkt.pair = 5 ∧
   gives (.cellOpportunity 9 496 .none) run (fun s => s.sent == [onLine (cellBytes 2 2 true 0xFFF 0 0 (zeros 256))] &&
     (s.port 496).txSeq == 0 && ((s.port 496).pair 5).sentCells == 1 && (s.port 496).replay.length == 1 && (s.outPort 496).prog == [{ g with sentCells := 2 }]) = true) := by decide +kernel
theorem test_egress_timers :
  (let wheel : State := { ready with fqRun := [(65535, { wheel := some (0, 3, 16) })] }
   (wheel.fqr 65535).wheel = some (0, 3, 16) ∧
   gives (.wheelSlotDue 16 15) wheel (fun s => (s.fqr 65535).wheel == none) = true ∧
   gives (.wheelSlotDue 15 15) wheel (fun s => (s.fqr 65535).wheel == some (0, 3, 16)) = true) ∧
  (let held (l : BitVec 64) := up1 {} { queue := [qpkt { lc := true, launch := l } [] false] }
   ((held 1).tick 9).launchDue 496 { lc := true, launch := 0 } = true ∧
   gives (.launchHoldEnd 9 496) (held 0) (fun s => (s.outPort 496).queue.map (fun x => x.launched) == [true] && s.ftc.launchFar == 0) = true ∧
   gives (.launchHoldEnd 1000000005 496) (held (2 ^ 63)) (fun s => (s.outPort 496).queue.map (fun x => x.launched) == [true] && s.ftc.launchFar == 1) = true ∧
   gives (.launchHoldEnd 1000000004 496) (held (2 ^ 63)) (fun s => (s.outPort 496).queue.map (fun x => x.launched) == [false] && s.ftc.launchFar == 0) = true) ∧
  (let out := up1 { state := .down } { queue := [qpkt {} [] true], holdFrom := some 5 }
   out.portOut 496 = true ∧
   gives (.portHoldExpiry 10000005 496) out (fun s => (s.outPort 496).queue == [] && (s.outPort 496).holdOut && (s.pktCntOf 496).holdDrop == 1) = true ∧
   gives (.portHoldExpiry 10000004 496) out (fun s => s == { out with now := 10000004 }) = true) := by decide +kernel
theorem test_fumarole :
  (let at_ (m : Fumarole) : State := { ready with tiles := [(15, { fm := m })], fqCfg := [(65535, { valid := true, sampleClass := 3 })], fqRun := [(65535, { txBytes := 77 })] }
   gives (.fumarolePeriod 50000000 15 3) (at_ { due := [(3, [1, 2])] }) (fun s => (s.tile 15).fm.skipped == 2 && tget [] (s.tile 15).fm.due 3 == [] &&
     tget none (s.tile 15).fm.inForce 3 == some (50000, false, false, 0) && s.fqRun == (at_ {}).fqRun && (s.tile 15).fm.records == 0) = true ∧
   ((at_ { enable := true, history := true }).fqCfg.filter (fun e => e.1 / 4096 == 15 && e.2.valid && e.2.sampleClass.toNat == 3)).map Prod.fst = [65535] ∧
   gives (.fumarolePeriod 50000000 15 3) (at_ { enable := true, history := true }) (fun s => (s.fqr 65535).txBytes == 0 && (s.tile 15).fm.records == 1 && (s.tile 15).fm.nextRecord == 1 &&
     (tget {} s.pkg.history (15 * 2 ^ 32)).bytes == ((at_ {}).tick 50000000).sampleBytes 65535) = true ∧
   (let full (en : Bool) : State := { at_ { enable := true, ring := 5 } with rings := [(5, { enable := en, kind := 2, tail := 64 })] }
    ((full true).ring 5).room 1 false = false ∧
    gives (.fumarolePeriod 50000000 15 3) (full true) (fun s => (s.tile 15).fm.ringDrops == 1 && (s.tile 15).fm.records == 0 && s.host.lostRecords == 0 && s.sent == []) = true ∧
    gives (.fumarolePeriod 50000000 15 3) (full false) (fun s => (s.tile 15).fm.ringDrops == 0 && s.host.lostRecords == 1 && (s.fqr 65535).txBytes == 0) = true)) ∧
  (let snap (sh n : Nat) : State := { ready with pkg := { ready.pkg with history := [(15 * 2 ^ 32 + 6, { bytes := [1, 2] })] }, masters := [(2, { mboxBusy := true })], jobs := [{ src := .mbox 2, desc := padTo 64 (leBytes 8 11 ++ leBytes 4 sh ++ leBytes 4 6 ++ leBytes 4 n ++ zeros 4 ++ leBytes 8 64) }] }
   jobIs 11 0 ((snap 15 1).jobs.headD { src := .mbox 1, desc := [] }) = true ∧
   gives (.telemSnap 9 .none) (snap 15 1) (fun s => memRead 0 (s.master 2).stage 64 3 == [1, 2, 0] && s.jobs == [] && tget 0 (s.master 2).mboxCmpl 2 == 0) = true ∧
   gives (.telemSnap 9 .none) (snap 16 1) (fun s => (s.master 2).stage == [] && s.jobs == [] && tget 0 (s.master 2).mboxCmpl 2 == 0x76) = true ∧
   (let lost : State := { snap 15 1 with calderas := [(7, { lost := true })] }
    gives (.telemSnap 9 .none) lost (fun s => (s.master 2).stage == [] && tget 0 (s.master 2).mboxCmpl 2 == 0x22) = true) ∧
   gives (.telemSnap 9 .none) (snap 15 0) (fun s => (s.master 2).stage == [] && tget 0 (s.master 2).mboxCmpl 2 == 0x76) = true) := by decide +kernel
theorem test_fences :
  (let coll (f : Nat) := padTo 32 (zeros 24 ++ leBytes 8 (4 * 2 ^ 16 + f * 2 ^ 20))
   let at_ (st : LinkState) (t : Tile) : State := { up1 { state := st } {} with tiles := [(15, t)] }
   let q (f : Nat) := qpkt { src := 7, vc := 7 } (coll f) true
   sigVc (coll 6) = 4 ∧ sigFence (coll 6) = 6 ∧
   gives (.fenceSignalArrival 9 15) (at_ .active { atFence := [(496, q 0)] }) (fun s => (s.tile 15).atFence == [] && (s.tile 15).heldSignals == [] && (s.outPort 496).queue.map (fun x => x.coll) == [coll 0]) = true ∧
   gives (.fenceSignalArrival 9 15) (at_ .quarantine { atFence := [(496, q 6)] }) (fun s => (s.tile 15).fBroken == 1 && (s.outPort 496).queue.map (fun x => byteAt x.coll 20) == [2]) = true ∧
   ((at_ .active {}).hodCfg 496).trackVcs.getLsbD 4 = true ∧
   gives (.fenceSignalArrival 9 15) (at_ .active { atFence := [(496, q 6)] }) (fun s => (s.tile 15).fences == [(16, 7, 4, 0, 9)] && (s.tile 15).heldSignals == [(16, 7, 4, 6, 9, q 6)] && (s.outPort 496).queue == []) = true ∧
   (let held := at_ .active { heldSignals := [(16, 7, 4, 6, 5, q 6)] }
    gives (.fenceTimeout 100005 496) held (fun s => (s.tile 15).heldSignals == [] && (s.tile 15).fBroken == 1 && (s.outPort 496).queue.length == 1) = true ∧
    gives (.fenceTimeout 100004 496) held (fun s => s == { held with now := 100004 }) = true) ∧
   gives (.fenceEvict 1000005 496 7 4) (at_ .active { fences := [(16, 7, 4, 2, 5)] }) (fun s => (s.tile 15).fences == [] && (s.tile 15).fEvicted == 1) = true) := by decide +kernel
theorem test_fabric_time :
  (let at_ (f : Ftc) : State := { ready with ftc := f }
   gives (.sourceReevaluation 9) (at_ { state := .locked, rate := 900, integral := -7 }) (fun s => s.ftc.state == .holdover && s.ftc.hops == 255 && s.ftc.rate == -7 && s.ftc.holdFrom == 9) = true ∧
   gives (.sourceReevaluation 9) (at_ { root := true }) (fun s => s.ftc.state == .root && s.ftc.hops == 0 && s.ftc.source == none) = true ∧
   (let src : State := { at_ {} with ports := [(496, { state := .active, partner := zeros 11 ++ [1], timeOk := true, timeAdvert := some (3, 8, true, none) })] }
    src.bestSource src.timeSources = some 496 ∧
    gives (.sourceReevaluation 9) src (fun s => s.ftc.state == .acquire && s.ftc.source == some 496 && s.ftc.shownSource == 496) = true) ∧
   gives (.ftcSyncEdge 9) (at_ { root := true, state := .root, syncEn := true, loadPending := true, loadValue := 7 }) (fun s => s.ftc.count == 7 * 2 ^ 32 && s.ftc.base == 9 && !s.ftc.loadPending && s.ftc.steps == 1) = true ∧
   gives (.ftcSyncEdge 9) (at_ { state := .root, loadPending := true }) (fun s => s == { at_ { state := .root, loadPending := true } with now := 9 }) = true ∧
   gives (.holdoverExpiry 100000005) (at_ { state := .holdover, holdFrom := 5, hops := 3 }) (fun s => s.ftc.state == .free && s.ftc.hops == 255) = true ∧
   gives (.holdoverExpiry 100000004) (at_ { state := .holdover, holdFrom := 5 }) (fun s => s.ftc.state == .holdover) = true ∧
   gives (.ftcCopyCompare 9 103 (-64)) ready (fun s => (s.die 103).ftcOffset == -64 && s.sent == []) = true ∧
   gives (.ftcNowRead 9 0x13) (at_ { count := 0x123456789 * 2 ^ 32, base := 9 }) (fun s => s.sent == [.value 0x13 0x2800 0x23456789] && s.ftc.latched == 1) = true) := by decide +kernel
theorem test_determinism :
  (let at_ : State := { ready with ftc := { detPending := some true } }
   gives (.pkDetCommit 9 1) at_ (fun s => s.ftc.detStrict && s.ftc.detPending == none) = true ∧
   (let now_ : State := { ready with ftc := { detPending := some true, detAt := mgCycle 9 + 1 } }
    gives (.pkDetCommit 9 1) now_ (fun s => !s.ftc.detStrict && s.ftc.detPending == some true) = true) ∧
   gives (.pkDetCommit 9 2) at_ (fun s => s == { at_.refuseWrite 2 with now := 9 }) = true) ∧
  (let rep : State := { ready with reports := [(2, 3, 255)] }
   rep.openInv 2 3 = none ∧ gives (.adaptiveReport 9) rep (fun s => s.reports == [] && tget 0 s.ndetSlice 255 == 1) = true ∧
   (let i : Inv := { group := 2, step := 3, engines := [], createdAt := 0, launch := none, strict := false, reserved := 0, state := .reduce }
    let op : State := { rep with invs := [(5, some i)] }
    op.openInv 2 3 = some 5 ∧ gives (.adaptiveReport 9) op (fun s => s.reports == [] && (s.inv 5).map (fun v => v.adaptive) == some 1 && s.ndetSlice == []) = true)) := by decide +kernel

/-! ## Collectives -/

/-- A group of INT32 SUM with a count. -/
def grec (mode : BitVec 2) (ab : Bool) : GroupRec := { group := 7, slice := 2, op := 1, etype := 3, rtype := 3, countMode := mode, ovfInf := false, sr := false, exactUp := false, abortPolicy := ab, purpose := 0, creditWindow := 2, count := 2, scaleExp := 0, members := 3, timeoutUs := 10, ring := 20, extEntries := 0, seedId := 0, k0 := 0, k1 := 0, auditExt := 0, modes := 0 }

/-- A plan with one local member (endpoint 40, rank 0) and one child switch (endpoint 50), below the parent 60. -/
def gplan (parent : BitVec 16) : Plan := { planVer := 1, tier := 1, parentEp := parent, mcId := 0, rootEp := 40, engineFirst := 63, engineCount := 1, subtree := 3, steps := [{ kind := 1, variant := 0, counter := 0, targetEp := 0 }], locals_ := [{ rank := 0, ep := 40, weight := 1 }], children := [{ ep := 50, count := 2 }] }

/-- An invocation of the group. -/
def ginv (st : InvState) : Inv := { group := 7, step := 5, state := st, createdAt := 0, launch := none, launched := true, engines := [63], strict := false, reserved := 2, count := some 2 }

/-- A packet checked in landing of die 7. -/
def inLanding (m : Coll) (src : BitVec 16) (payload : List Byte) : Landed :=
  { id := 4, src := 0, vc := 1, relSeq := 0, user := 7, firstAt := 0, count := 1, failed := false, verdict := 1, payCrc := 0, crcPresent := false, inPort := 0, phase := .checked, got := [(0, padTo 256 (fabricForm { src := src, vc := msgVc m.msg, payLen := BitVec.ofNat 15 payload.length } (collBytes m) payload))] }

/-- The group and its invocation, with a message in landing. -/
def coll (r : GroupRec) (p : Plan) (v : Option Inv) (m : Coll) (src : BitVec 16) (payload : List Byte) : State := { ready with
  groups := [(7, { record := some r, plan := some p, expected := 5 })]
  invs := (match v with
    | some i => [(1023, some i)]
    | none => [])
  engines := [(63, { running := true, slots := [(0, some 1023), (1, some 1023)] })]
  calderas := [(7, { landing := [inLanding m src payload] })] }

/-- A header of a message of the group. -/
def msg (n : Nat) : Coll := { group := 7, step := 5, op := 1, etype := 3, count := 2, rank := 0, msg := n }

/-- What the packet reads as. -/
def admitted (s : State) (n i : Nat) : Bool :=
  match s.checkedMsg 7 4 n, s.runOf 1023 with
  | some m, some x => s.findInv m.coll.group m.coll.step == some 1023 && x.v.group == m.coll.group && x.v.step == m.coll.step &&
    (s.group m.coll.group).suspended == none && x.p.childOf m.hdr.src.toNat m.coll == some i && !x.v.reserving && x.v.launch == m.launch &&
    (x.v.child i).dropped == none && rows47 x.r x.p i m == none
  | _, _ => false

def invIs (s : State) (p : Inv → Bool) : Bool :=
  match s.inv 1023 with
  | some v => p v
  | none => false

theorem test_landing :
  (let at_ : State := { ready with fabric := { ready.fabric with toPort := [(23, [(7, { fcell true [] 0 with count := 2, vc := 4 })])] } }
   (at_.caldera 7).landing = [] ∧ gives (.calderaCellLanding 9 7 false) at_ (fun s => tget [] s.fabric.toPort 23 == [] && s.nextId == at_.nextId + 1 &&
     (s.caldera 7).landing.map (fun l => (l.id, l.user, l.firstAt, l.phase == .receiving)) == [(at_.nextId, 8, 9, true)]) = true) ∧
  (let land (vd : BitVec 4) (f : Bool) (got : Tab (List Byte)) : State := { ready with calderas := [(7, { landing := [{ id := 4, src := 0, vc := 4, relSeq := 0, user := 8, firstAt := 1, count := 1, got := got, failed := f, verdict := vd, payCrc := 0, crcPresent := false, inPort := 0, phase := .receiving }] })] }
   let whole := [(0, padTo 256 (plainHdr 5 8))]
   gives (.intakeCheck 9 7 4 .none) (land 1 false whole) (fun s => (s.caldera 7).landing.map (fun l => l.phase == .checked) == [true] && (s.caldera 7).intake == []) = true ∧
   gives (.intakeCheck 9 7 4 .none) (land 5 false whole) (fun s => (s.caldera 7).landing == [] && (tget {} (s.caldera 7).intake 8).verdictDrop == 1) = true ∧
   gives (.intakeCheck 9 7 4 .none) (land 1 true whole) (fun s => (s.caldera 7).landing == [] && (tget {} (s.caldera 7).intake 8).fabCrc == 1) = true ∧
   (let other : Landed := { inLanding (msg 1) 40 (zeros 8) with user := 6, phase := .receiving }
    let at_ : State := { coll (grec 0 false) (gplan 60) none (msg 1) 40 [] with calderas := [(7, { landing := [other] })] }
    at_.engineFor 1 (collBytes other.read.coll) ≠ 62 ∧ other.read.hdr.vc = 1 ∧
    gives (.intakeCheck 9 7 4 .none) at_ (fun s => (s.caldera 7).landing == [] && (tget {} (s.caldera 7).intake 6).misdirected == 1) = true) ∧
   gives (.landingTimeout 2001 7 4) (land 0 false []) (fun s => (s.caldera 7).landing == [] && (tget {} (s.caldera 7).intake 8).reasmTimeout == 1) = true ∧
   gives (.landingTimeout 2000 7 4) (land 0 false []) (fun s => s == { land 0 false [] with now := 2000 }) = true) := by decide +kernel
/-- The header of a CONTRIB is about to land on die 7. -/
def headerLands : State := { coll (grec 0 false) (gplan 60) (some (ginv .reduce)) (msg 1) 40 [] with
  calderas := []
  fabric := { ready.fabric with toPort := [(23, [(7, FabCell.crcSet { fcell true [] 0 with count := 2, vc := 1, mask := 7, body := padTo 256 (fabricForm { src := 40, vc := 1 } (collBytes (msg 1)) []) })])] } }
theorem test_bind : headerLands.findInv 7 5 = some 1023 ∧ headerLands.slotFor 1023 (ginv .reduce) 63 = some 0 ∧
  (tget [] headerLands.fabric.toPort 23).map (fun c => c.2.fails false) = [false] ∧
  gives (.calderaCellLanding 9 7 false) headerLands (fun s => invIs s (fun v => (v.seg 0).slot == some 0 && (v.seg 0).entries == [] && (v.seg 1).slot == none) &&
    (s.caldera 7).landing.map (fun l => (l.user, l.cellAt)) == [(7, [(0, 0)])]) = true := by decide +kernel
theorem test_segments_accepted :
  (let at_ (c : Coll) (v : Inv) := coll (grec 0 false) (gplan 60) (some v) c (if c.msg = 1 then 40 else 50) (leBytes 4 5 ++ leBytes 4 6)
   let v := ginv .reduce
   admitted (at_ (msg 1) v) 1 0 = true ∧ admitted (at_ (msg 2) v) 2 1 = true ∧ segElems 2 0 = 2 ∧ segLen 3 2 = 8 ∧
   gives (.contrib 9 7 4) (at_ (msg 1) v) (fun s => (s.landed 7 4).map Landed.phase == some .waiting && invIs s (fun i => (i.seg 0).bound && i.dup == 0) && s.sent == []) = true ∧
   gives (.partialMsg 9 7 4) (at_ (msg 2) v) (fun s => (s.landed 7 4).map Landed.phase == some .waiting && invIs s (fun i => (i.seg 0).bound)) = true ∧
   gives (.contrib 9 7 4) (at_ { msg 1 with seg := 2 } v) (fun s => (s.landed 7 4).isNone && invIs s (fun i => i.creditViol == 1 && i.segs == [])) = true ∧
   gives (.contrib 9 7 4) (at_ (msg 1) { v with children := [(0, { token := 1 })] }) (fun s => (s.landed 7 4).isNone && invIs s (fun i => i.dup == 1 && i.creditViol == 0)) = true) := by decide +kernel
theorem test_foreign :
  (let none_ : State := { coll (grec 0 false) (gplan 60) none (msg 1) 40 (zeros 8) with groups := [] }
   none_.groupRec 7 = none ∧ none_.findInv 7 5 = none ∧ (none_.checkedMsg 7 4 1).isSome = true ∧
   gives (.contrib 9 7 4) none_ (fun s => (s.landed 7 4).isNone && (s.group 7).rejected == 1 && s.invs == []) = true) ∧
  (let first := coll (grec 0 false) (gplan 60) none { msg 1 with op := 4 } 40 (zeros 8)
   (first.checkedMsg 7 4 1).isSome = true ∧ (first.group 7).expected = 5 ∧
   gives (.contrib 9 7 4) first (fun s => (s.landed 7 4).isNone && s.invs == [] && (s.group 7).mismatches == 1) = true) ∧
  (let wrong := coll (grec 0 false) (gplan 60) (some (ginv .reduce)) { msg 1 with op := 4 } 40 (zeros 8)
   (wrong.checkedMsg 7 4 1).isSome = true ∧ gives (.contrib 9 7 4) wrong (fun s => (s.landed 7 4).isNone && invIs s (fun i => i.mismatches == 1 && i.segs == [])) = true) := by decide +kernel
theorem test_counts :
  (let armed := { ginv .armed with count := none }
   let c := coll (grec 1 false) (gplan 60) (some armed) (msg 4) 40 []
   admitted c 4 0 = true ∧ gives (.count 9 7 4) c (fun s => (s.landed 7 4).isNone && invIs s (fun i => (i.child 0).count == some (2, 2, 1) && i.state == .armed)) = true ∧
   (let fixed := coll (grec 0 false) (gplan 60) none (msg 4) 40 []
    (fixed.checkedMsg 7 4 4).isSome = true ∧ gives (.count 9 7 4) fixed (fun s => (s.landed 7 4).isNone && (s.group 7).malformed == 1 && s.invs == []) = true) ∧
   (let res (src : BitVec 16) := coll (grec 1 false) (gplan 60) (some { ginv .count with count := none }) (msg 5) src []
    ((res 60).checkedMsg 7 4 5).isSome = true ∧
    gives (.countResult 9 7 4) (res 60) (fun s => (s.landed 7 4).isNone && invIs s (fun i => i.count == some 2 && i.state != .count)) = true ∧
    gives (.countResult 9 7 4) (res 61) (fun s => (s.landed 7 4).isNone && s.invs == (res 61).invs) = true) ∧
   (let par (n : Nat) := coll (grec 0 false) (gplan 60) (some (ginv .reduce)) (msg 8) 50 (padTo n [9])
    ((par 72).checkedMsg 7 4 8).isSome = true ∧
    gives (.participation 9 7 4) (par 72) (fun s => (s.landed 7 4).isNone && invIs s (fun i => (i.child 1).particip == some { digest := 9, full := 0 })) = true ∧
    gives (.participation 9 7 4) (par 71) (fun s => (s.landed 7 4).isNone && invIs s (fun i => i.malformed == 1)) = true)) := by decide +kernel
theorem test_parent :
  (let cr (src : BitVec 16) := coll (grec 0 false) (gplan 60) (some { ginv .reduce with parentLimit := some 3 }) { msg 6 with seg := 9 } src []
   ((cr 60).checkedMsg 7 4 6).isSome = true ∧
   gives (.credit 9 7 4) (cr 60) (fun s => (s.landed 7 4).isNone && invIs s (fun i => i.parentLimit == some 9) && s.sent == []) = true ∧
   gives (.credit 9 7 4) (cr 61) (fun s => (s.landed 7 4).isNone && s.invs == (cr 61).invs) = true) ∧
  (let st (fl : Byte) := coll (grec 0 false) (gplan 60) (some (ginv .reduce)) (msg 7) 60 (padTo 16 [0x20, fl, 3])
   ((st 2).checkedMsg 7 4 7).isSome = true ∧ statusKnown 0x20 = true ∧
   gives (.status 9 7 4) (st 2) (fun s => (s.landed 7 4).isNone && invIs s (fun i => i.state == .abort && i.status == 0x20 && i.detail == 3)) = true ∧
   gives (.status 9 7 4) (st 0) (fun s => (s.landed 7 4).isNone && s.invs == (st 0).invs && s.sent == []) = true) := by decide +kernel
theorem test_launch :
  (let res (n : Nat) : State := { ready with invs := [(1023, some { ginv .armed with reserving := true, launched := false, creator := 4 })], engines := [(63, { slots := (List.range n).map (fun i => (i, some 5)) })] }
   (List.range 8).all (fun d => ((res 0).landed d 4).isNone) = true ∧
   gives (.slotReservationDone 9 1023) (res 70) (fun s => invIs s (fun v => !v.reserving) && (s.engine 63).slotsUsed == 72 && s.sent == []) = true ∧
   gives (.slotReservationDone 9 1023) (res 71) (fun s => (s.inv 1023).isNone && s.engines == (res 71).engines) = true) ∧
  (let arm (e : Nat) : State := { coll (grec 0 false) (gplan 60) (some { ginv .armed with launched := false }) (msg 1) 40 [] with groups := [(7, { record := some (grec 0 false), plan := some (gplan 60), expected := e })] }
   ((arm 5).runOf 1023).isSome = true ∧
   gives (.invocationLaunch 9 1023) (arm 5) (fun s => invIs s (fun v => v.launched)) = true ∧
   gives (.invocationLaunch 9 1023) (arm 4) (fun s => s == { arm 4 with now := 9 }) = true) := by decide +kernel
theorem test_adds :
  (let at_ (ph : LandPhase) : State := (coll (grec 0 false) (gplan 60) (some (ginv .reduce)) (msg 1) 40 (leBytes 4 5 ++ leBytes 4 6)).modCaldera 7 (fun c => { c with landing := c.landing.map (fun l => { l with phase := ph }) })
   let l := (at_ .waiting).landed 7 4
   (l.bind (fun l => (at_ .waiting).addOf 7 l)).map (fun a => (a.1, a.2.1, a.2.2.1, a.2.2.2.1, a.2.2.2.2.records)) = some (1023, 0, 0, [4], 0) ∧
   gives (.segmentAdd 9 7 4 .none) (at_ .waiting) (fun s => (s.caldera 7).landing == [] && invIs s (fun v => (v.child 0).token == 1 && (v.seg 0).entries.map (fun e => e.seen) == [true, true]) && s.sent == []) = true ∧
   (let stop : Landed := { inLanding (msg 7) 60 (padTo 16 [0x20, 2, 3]) with id := 5 }
    let st : State := { (at_ .waiting).modCaldera 7 (fun c => { c with landing := c.landing ++ [stop] }) with pending := [.status 9 7 5] }
    (st.tick 9).abortComes 1023 = true ∧
    gives (.segmentAdd 9 7 4 .none) st (fun s => (s.landed 7 4).isNone && invIs s (fun v => (v.child 0).token == 0 && v.segs == [])) = true) ∧
   gives (.segmentAdd 9 7 4 .residue) (at_ .waiting) (fun s => invIs s (fun v => v.state == .abort && v.status == 0x22) && (s.die 35).residueErr == 1) = true ∧
   ((at_ (.magma 1)).caldera 7).recordsFor 0 = true ∧
   gives (.magmaRecordGrant 9 7 .none) (at_ (.magma 1)) (fun s => (s.caldera 7).landing == [] && invIs s (fun v => (v.child 0).token == 1)) = true ∧
   gives (.magmaWaitExpiry 20001 7 4) (at_ (.magma 1)) (fun s => invIs s (fun v => v.state == .abort && v.status == 0x24) && (tget {} (s.caldera 7).intake 7).magmaAborts == 1) = true ∧
   gives (.magmaWaitExpiry 20000 7 4) (at_ (.magma 1)) (fun s => s == { at_ (.magma 1) with now := 20000 }) = true) := by decide +kernel
theorem test_produce :
  (let at_ (v : Inv) : State := { coll (grec 0 false) (gplan 60) (some v) (msg 1) 40 [] with calderas := [], admitted := [(15, 1)] }
   let done := { ginv .reduce with children := [(0, { token := 1 }), (1, { token := 1 })], segs := [(0, { slot := some 0, entries := [{ win := 5, live := true, seen := true }, { win := 6, live := true, seen := true }], counted := [0, 1], nS := 3 })] }
   ((at_ done).runOf 1023).map (fun x => (x.atProduce, x.ready 0, x.parentAllows 0, x.p.source, x.r.exact, x.v.nseg)) = some (true, true, true, false, false, 1) ∧
   gives (.segmentProduce 9 1023 0 .none) (at_ done) (fun s => invIs s (fun v => (v.seg 0).produced && (v.seg 0).entries == [] &&
     some (v.seg 0).sentBytes == ((at_ done).runOf 1023).map (fun x => (x.roundedOf 0).1))) = true ∧
   gives (.segmentProduce 9 1023 0 .none) (at_ { done with children := [(0, { token := 1 })] }) (fun s => s == { at_ { done with children := [(0, { token := 1 })] } with now := 9 }) = true ∧
   (let sent (n : Nat) := { ginv .reduce with segs := [(0, { slot := some 0, produced := true, leaving := n })] }
    gives (.slotFree 9 1023 0) (at_ (sent 0)) (fun s => invIs s (fun v => (v.seg 0).freed && !(v.seg 0).bound)) = true ∧
    gives (.slotFree 9 1023 0) (at_ (sent 1)) (fun s => s == { at_ (sent 1) with now := 9 }) = true) ∧
   (let big := { ginv .reduce with count := some 20000, front := 3, children := [(1, { token := 1 })] }
    ((at_ big).runOf 1023).map (fun x => (x.settledAll 1, x.v.nseg)) = some (false, 5) ∧
    gives (.creditSend 9 1023 1) (at_ big) (fun s => invIs s (fun v => (v.child 1).creditAt == some 9 && (v.child 1).creditFront == 3 && (v.child 1).limit == some 4)) = true ∧
    gives (.creditSend 9 1023 1) (at_ { big with front := 0 }) (fun s => s == { at_ { big with front := 0 } with now := 9 }) = true)) := by decide +kernel
theorem test_member_timers :
  (let at_ (ab : Bool) (c : Child) : State := { coll (grec 0 ab) (gplan 60) (some { ginv .reduce with children := [(1, c)] }) (msg 1) 40 [] with calderas := [] }
   let run : Child := { timerFrom := some 4, timerRan := 1 }
   ((at_ true run).runOf 1023).map (fun x => (x.awaits 1, x.r.timeoutNs, x.aborts)) = some (true, 10000, true) ∧
   gives (.memberTimerExpiry 10003 1023 1) (at_ true run) (fun s => invIs s (fun v => v.state == .abort && v.status == 0x20)) = true ∧
   gives (.memberTimerExpiry 10003 1023 1) (at_ false run) (fun s => invIs s (fun v => (v.child 1).frozen == some 0 && v.state == .reduce) && s.sent == []) = true ∧
   gives (.memberTimerExpiry 10002 1023 1) (at_ true run) (fun s => s == { at_ true run with now := 10002 }) = true ∧
   (let add : State := { (coll (grec 0 true) (gplan 60) (some { ginv .reduce with children := [(1, run)] }) (msg 2) 50 (leBytes 4 5 ++ leBytes 4 6)).modCaldera 7 (fun c => { c with landing := c.landing.map (fun l => { l with phase := .waiting }) }) with pending := [.segmentAdd 10003 7 4 .none] }
    (add.tick 10003).countComes 1023 1 = true ∧ gives (.memberTimerExpiry 10003 1023 1) add (fun s => s == { add with now := 10003 }) = true) ∧
   gives (.freezeReply 9 1023 1) (at_ false { frozen := some 0, token := 1 }) (fun s => invIs s (fun v => (v.child 1).frozen == none && (v.child 1).dropped == none && v.drops == 0)) = true ∧
   gives (.freezeReply 9 1023 1) (at_ false { frozen := some 0 }) (fun s => invIs s (fun v => (v.child 1).dropped == some 0 && v.drops == 1)) = true) := by decide +kernel
theorem test_audit :
  (let at_ (r : Ring) : State := { coll (grec 0 false) (gplan 60) (some { ginv .abort with status := 0x20 }) (msg 1) 40 [] with calderas := [], rings := [(20, r)], host := { aTrained := true, wbBase := 1, dbBase := 2 } }
   let good : Ring := { base := 3, kind := 1, enable := true }
   ((at_ good).runOf 1023).map (fun x => (x.auditDue, (at_ good).stillInside x.v)) = some (true, false) ∧ good.room 4 false = true ∧ good.padFor 4 = 0 ∧
   gives (.auditWrite 9 1023) (at_ good) (fun s => (s.inv 1023).isNone && (s.ring 20).tail == 4 && s.host.lostRecords == 0) = true ∧
   gives (.auditWrite 9 1023) (at_ {}) (fun s => (s.inv 1023).isNone && s.host.lostRecords == 1) = true ∧
   (let full : Ring := { good with tail := 62, reserved := 1 }
    full.room 4 false = false ∧
    gives (.auditWrite 9 1023) (at_ full) (fun s => invIs s (fun v => v.auditWaits) && (s.ring 20).audits == [1023] && (s.ring 20).tail == 62) = true)) := by decide +kernel

/-! ## Groups, engines, counters -/

/-- A group record of group 7 in slice sl: INT32 SUM, count 2, one member. -/
def recBytes (g sl : Nat) : List Byte := padTo 64 (leBytes 2 g ++ leBytes 1 sl ++ [1, 3, 0, 0, 2] ++ leBytes 4 2 ++ zeros 8 ++ leBytes 2 20 ++ zeros 6 ++ leBytes 4 9)

/-- A plan record of group 7: REDUCE TURN, BCAST TURN, one local member of endpoint 5. -/
def planBytes : List Byte := padTo 88 (leBytes 2 7 ++ leBytes 2 1 ++ [0x21, 0] ++ leBytes 2 0xFFFF ++ zeros 4 ++ leBytes 2 (63 + 64) ++ leBytes 2 1 ++ zeros 2 ++ leBytes 4 1 ++ zeros 42 ++
  ([0x11] ++ zeros 7) ++ ([2] ++ zeros 7) ++ (leBytes 2 0 ++ leBytes 2 5))

/-- Slice 2 has a descriptor for endpoint 5. -/
def slice2 (gs : Tab Group) : State := { ready with
  routing := { ready.routing with slices := [(2, { valid := true, epLo := 5, epCount := 1 })] }
  groups := gs }

theorem test_group_install :
  (let body := leBytes 8 0 ++ leBytes 2 7
   let s0 := withJob 1 body (slice2 [(7, { record := some { parseGroup (recBytes 7 2) with op := 4 }, expected := 3 })])
   nextJob 1 0 s0 = true ∧ s0.installRefused (recBytes 7 2) 7 = none ∧
   gives (.groupInstall 9 (recBytes 7 2)) s0 (fun s => (s.group 7).record == some (parseGroup (recBytes 7 2)) && (s.group 7).expected == 3 && reports 0 s) = true ∧
   gives (.groupInstall 9 (recBytes 7 2)) (withJob 1 body (slice2 [])) (fun s => (s.group 7).record == some (parseGroup (recBytes 7 2)) && (s.group 7).expected == 0 && reports 0 s) = true ∧
   gives (.groupInstall 9 (recBytes 8 2)) s0 (fun s => s.groups == s0.groups && reports 0x15 s) = true ∧
   (s0.slice 255).valid = false ∧ gives (.groupInstall 9 (recBytes 7 255)) s0 (fun s => s.groups == s0.groups && reports 0x15 s) = true) := by decide +kernel
theorem test_plan_load :
  (let body := leBytes 8 0 ++ leBytes 4 88 ++ leBytes 2 7
   let s0 := withJob 2 (leBytes 8 0 ++ leBytes 4 88 ++ leBytes 4 7) (slice2 [(7, { record := some (parseGroup (recBytes 7 2)), suspended := some 1 })])
   let s1 := withJob 2 (leBytes 8 0 ++ leBytes 4 88 ++ leBytes 4 7) (slice2 [])
   body.length = 14 ∧ nextJob 2 0 s0 = true ∧ fieldOf (s0.jobs.headD { src := .mbox 1, desc := [] }).desc 20 2 = 7 ∧ s0.planRefused planBytes 88 7 = none ∧
   gives (.planLoad 9 planBytes) s0 (fun s => (s.group 7).plan == some (parsePlan planBytes) && (s.group 7).suspended == none && reports 0 s) = true ∧
   (s1.group 7).record = none ∧ gives (.planLoad 9 planBytes) s1 (fun s => s.groups == [] && reports 0x15 s) = true) := by decide +kernel
theorem test_resync :
  (let c : State := { coll (grec 0 false) (gplan 60) (some (ginv .reduce)) (msg 1) 40 [] with calderas := [] }
   let s0 := withJob 10 (leBytes 2 7 ++ zeros 6 ++ leBytes 6 0xFFFFFFFFFFFF) c
   nextJob 10 0 s0 = true ∧ (s0.group 7).record.isSome = true ∧ (s0.group 7).plan.isSome = true ∧
   gives (.resync 9) s0 (fun s => (s.group 7).expected == 0xFFFFFFFFFFFF && (s.group 7).plan == some (gplan 60) && invIs s (fun v => v.state == .abort && v.status == 0x13) && reports 0 s) = true ∧
   (let s1 := withJob 10 (leBytes 2 8) c
    (s1.group 8).record = none ∧ gives (.resync 9) s1 (fun s => s.groups == s1.groups && s.invs == s1.invs && reports 0x15 s) = true)) := by decide +kernel
theorem test_engine_loss :
  ready.logicalOf 63 = some 63 ∧ ready.spareFor 63 = none ∧
  gives (.engineLoss 9 63) ready (fun s => !(s.engine 63).inService && !(s.emap 63).valid && (s.emap 62).valid) = true ∧
  (let sp : State := { ready with engMap := [(0, { valid := false })], counters := [(0, { value := 0 })] }
   sp.spareFor 63 = some 0 ∧ gives (.engineLoss 9 63) sp (fun s => s.emap 63 == { physX := 63, valid := true, auto := true } && !(s.emap 0).valid) = true) ∧
  (let gone : State := { ready with engines := [(63, { inService := false })] }
   gives (.engineLoss 9 63) gone (fun s => s == { gone with now := 9 }) = true) ∧
  (let full : State := { ready with calderas := [(7, { parity := [(0, { bad := true })] })], pkg := { ready.pkg with history := [(13 * 2 ^ 32, { bytes := [1] }), (14 * 2 ^ 32, { bytes := [1] })] } }
   gives (.calderaDieLoss 9 7) full (fun s => (s.caldera 7).lost && (s.caldera 7).parity == [] && s.pkg.history == [(13 * 2 ^ 32, { bytes := [1] })] && (List.range 8).all (fun i => !(s.engine (56 + i)).inService) && (s.engine 55).inService && !(s.caldera 6).lost) = true ∧
   (let lost : State := { ready with calderas := [(7, { lost := true })] }
    gives (.calderaDieLoss 9 7) lost (fun s => s == { lost with now := 9 }) = true)) := by decide +kernel
theorem test_engine_map :
  (let used : State := { coll (grec 0 false) (gplan 60) (some (ginv .reduce)) (msg 1) 40 [] with calderas := [] }
   let dropped : State := { used with now := 9, pkg := { used.pkg with mapDropped := true }, setAt := tset 0 used.setAt wbMap 10 }
   gives (.engineMapWrite 9 1 63 5) used (fun s => s == dropped.event 0x70 0 1 0x20FC 5) = true ∧
   gives (.engineMapWrite 9 1 62 (63 + 64)) ready (fun s => s == { ready with now := 9, pkg := { ready.pkg with mapDropped := true }, setAt := tset 0 ready.setAt wbMap 10 }) = true ∧
   gives (.engineMapWrite 9 1 63 (63 + 64 + 128)) { ready with engMap := [(63, { physX := 0, valid := true, auto := true })] } (fun s => s.emap 63 == { physX := 0, valid := true, auto := false }) = true ∧
   gives (.engineMapWrite 9 1 63 (63 + 64 + 128)) { ready with engMap := [(63, { physX := 0, valid := true, auto := true })], setAt := tset 0 [] (wbAuto 63) 10 } (fun s => s.emap 63 == { physX := 0, valid := true, auto := true }) = true ∧
   gives (.engineMapWrite 9 1 63 5) ready (fun s => tget {} s.copyMap 63 == s.emap 63 && s.emap 63 == { physX := 5 ^^^ 63, valid := false, auto := false } && (s.emap 62).valid) = true ∧
   gives (.engineMapWrite 9 1 63 (63 + 64)) ready (fun s => s.emap 63 == {}) = true ∧
   gives (.engineMapWrite 9 2 63 5) ready (fun s => s == { ready.refuseWrite 2 with now := 9 }) = true) := by decide +kernel
theorem test_signal_apply :
  (let at_ (c : Counter) : State := { coll (grec 0 false) (gplan 60) (some (ginv .armed)) (msg 1) 40 [] with calderas := [], signals := [3071], counters := [(3071, c)] }
   gives (.signalApply 9 3070) (at_ {}) (fun s => s == { at_ {} with now := 9 }) = true ∧
   ((at_ {}).engine 63).inService = true ∧
   gives (.signalApply 9 3071) (at_ { value := 0xFFFE }) (fun s => s.signals == [] && (s.ctr 3071).value == 0xFFFF && (s.caldera 7).sigApplied == 1) = true ∧
   gives (.signalApply 9 3071) (at_ { value := 0xFFFF }) (fun s => s.signals == [] && (s.ctr 3071) == { value := 0xFFFF, ovf := true } && (s.caldera 7).sigOverflows == 1 && (s.caldera 7).sigApplied == 0) = true ∧
   gives (.signalApply 9 3071) (at_ { waiters := [{ inv := 1023, group := 7, step := 5, joinedAt := 4 }] }) (fun s => s.signals == [] && s.ctr 3071 == {} && invIs s (fun v => decide (0 < v.pc))) = true ∧
   (let lost : State := { at_ {} with engines := [(63, { inService := false })] }
    gives (.signalApply 9 3071) lost (fun s => s == { lost with now := 9, signals := [] }) = true) ∧
   (let both : State := { at_ { value := 4, ovf := true } with pending := [.counterClear 9 1 63 (2 ^ 47)] }
    (both.tick 9).ctrClearComes 3071 = true ∧
    gives (.signalApply 9 3071) both (fun s => s.ctr 3071 == { value := 1, clearedAt := 10 } && s.signals == []) = true ∧
    gives (.counterClear 9 1 63 (2 ^ 47)) (at_ { value := 1, clearedAt := 10 }) (fun s => (s.ctr 3071).value == 1) = true)) := by decide +kernel
theorem test_signal_steps :
  (let pl (k : BitVec 4) : Plan := { gplan 60 with steps := [{ kind := k, variant := 0, counter := 47, targetEp := 9 }] }
   let at_ (k : BitVec 4) (x : Tab Xlat) (c : Counter) (v : Inv) : State := { coll (grec 0 false) (pl k) (some v) (msg 1) 40 [] with calderas := [], pkg := { ready.pkg with selfEp := 9, direct := false }, xlat := x, counters := [(3071, c)] }
   let x := [(48 * 2 + 47, { index := 47, engine := 63, valid := true })]
   let v := ginv .armed
   (at_ 4 x {} v).ctrOf 2 47 = some 3071 ∧ ((at_ 4 x {} v).runOf 1023).map (fun r => (r.atStep skSignal, r.v.waitFrom)) = some (true, none) ∧
   gives (.signalStep 9 1023) (at_ 4 x {} v) (fun s => s.signals == [3071] && s.counters == (at_ 4 x {} v).counters && invIs s (fun v => decide (0 < v.pc))) = true ∧
   ((at_ 5 x {} v).runOf 1023).map (fun r => r.atStep skWait) = some true ∧
   gives (.waitStep 9 1023) (at_ 5 x { value := 1 } v) (fun s => (s.ctr 3071).value == 0 && invIs s (fun v => decide (0 < v.pc))) = true ∧
   gives (.waitStep 9 1023) (at_ 5 x {} v) (fun s => (s.ctr 3071).waiters == [{ inv := 1023, group := 7, step := 5, joinedAt := 9 }] && invIs s (fun v => v.waitFrom == some 9 && v.pc == 0) && s.sent == []) = true ∧
   (let ends : State := { at_ 5 x { value := 1 } v with
      calderas := [(7, { landing := [inLanding (msg msgStatus) 60 ([0x21, 2] ++ zeros 14)] })], pending := [.status 9 7 4] }
    (ends.tick 9).abortsNow 1023 = true ∧ (ends.tick 9).lowerWaits 1023 = [] ∧ (ends.tick 9).ctrClearComes 3071 = false ∧
    gives (.waitStep 9 1023) ends (fun s => s == { ends with now := 9 }) = true) ∧
   insertWaiter { inv := 1, group := 7, step := 5, joinedAt := 9 } [{ inv := 2, group := 8, step := 1, joinedAt := 8 }, { inv := 3, group := 7, step := 6, joinedAt := 9 }] =
     [{ inv := 2, group := 8, step := 1, joinedAt := 8 }, { inv := 1, group := 7, step := 5, joinedAt := 9 }, { inv := 3, group := 7, step := 6, joinedAt := 9 }] ∧
   (at_ 5 [] {} v).ctrOf 2 47 = none ∧
   gives (.waitStep 9 1023) (at_ 5 [] {} v) (fun s => invIs s (fun v => v.state == .abort && v.status == 0x25) && (s.caldera 7).waitTimeouts == 1) = true ∧
   (let w := at_ 5 x { waiters := [{ inv := 1023, group := 7, step := 5, joinedAt := 4 }] } { v with waitFrom := some 4 }
    gives (.waitTimerExpiry 10004 1023) w (fun s => invIs s (fun v => v.state == .abort && v.status == 0x25 && v.waitFrom == none) && (s.ctr 3071).waiters == [] && (s.caldera 7).waitTimeouts == 1) = true ∧
    gives (.waitTimerExpiry 10003 1023) w (fun s => s == { w with now := 10003 }) = true) ∧
   (let sg (g : Nat) : State := { coll (grec 0 false) (gplan 60) none { msg 9 with group := g, aux := 47 } 40 [] with pkg := { ready.pkg with selfEp := 9, direct := false }, xlat := [(47, { index := 47, engine := 63, valid := true }), (48 * 2 + 47, { index := 46, engine := 63, valid := true })], groups := [(7, { record := some { grec 0 false with slice := 0 }, plan := some (gplan 60) })] }
    ((sg 8).checkedMsg 7 4 9).isSome = true ∧ (sg 8).groupRec 8 = none ∧
    gives (.signal 9 7 4) (sg 8) (fun s => s.signals == [] && (s.landed 7 4).isNone && (s.caldera 7).sigDiscarded == 1) = true ∧
    (sg 7).ctrOf 0 47 = some 3071 ∧
    gives (.signal 9 7 4) (sg 7) (fun s => s.signals == [3071] && (s.landed 7 4).isNone && s.counters == []) = true)) := by decide +kernel
theorem test_counter_clear :
  (let at_ : State := { ready with counters := [(3071, { value := 4, ovf := true, waiters := [{ inv := 1, group := 2, step := 3, joinedAt := 4 }] }), (3070, { value := 5 })] }
   at_.reachable 35 = true ∧
   gives (.counterClear 9 1 63 (2 ^ 47)) at_ (fun s => s.ctr 3071 == { waiters := [{ inv := 1, group := 2, step := 3, joinedAt := 4 }], clearedAt := 10 } && (s.ctr 3070).value == 5) = true ∧
   gives (.counterClear 9 2 63 (2 ^ 47)) at_ (fun s => s == { at_.refuseWrite 2 with now := 9 }) = true ∧
   (let far := ready.modDie 35 (fun d => { d with released := false })
    far.reachable 35 = false ∧ gives (.counterClear 9 1 63 (2 ^ 47)) far (fun s => s == accessRefused 1 (some 35) (far.tick 9)) = true)) := by decide +kernel
theorem test_translation :
  (let at_ (d : Bool) : State := { ready with pkg := { ready.pkg with direct := d }, xlat := [(0, { index := 46, engine := 63, valid := true })] }
   let w := 47 + 64 * 63 + 2 ^ 15
   gives (.ctrXlatWrite 9 2 255 47 w) (at_ false) (fun s => s == { (at_ false).refuseWrite 2 with now := 9 }) = true ∧
   tabWf {} (at_ false).xlat = true ∧ (at_ false).sliceOpen 255 = false ∧
   gives (.ctrXlatWrite 9 1 255 47 w) (at_ false) (fun s => s.xl (48 * 255 + 47) == { index := 47, engine := 63, valid := true } && s.xl 0 == (at_ false).xl 0) = true ∧
   gives (.ctrXlatWrite 9 1 255 47 (w - 1)) (at_ false) (fun s => s == { at_ false with now := 9, pkg := { (at_ false).pkg with xlatDropped := true }, setAt := tset 0 [] wbXlat 10 }) = true ∧
   gives (.ctrXlatWrite 9 1 255 47 w) (at_ true) (fun s => s == { at_ true with now := 9, pkg := { (at_ true).pkg with xlatDropped := true }, setAt := tset 0 [] wbXlat 10 }) = true) := by decide +kernel

/-! ## Checkpoint and recovery -/

/-- A parity state with room for a million blocks of each epoch. -/
def parity (r : Recovery) (c : Tab Caldera) : State := { slice2 [] with
  pkg := { ready.pkg with partA := 8 * 4369 * 100, partB := 8 * 4369 * 100, partRes := 32 * 4369 * 2 }
  recov := { r with parityEp := 77 }
  calderas := c }

/-- The body of a PARITY_GROUP. -/
def pgBody (g op n fl blocks : Nat) : List Byte := leBytes 1 g ++ leBytes 1 op ++ leBytes 1 n ++ leBytes 1 fl ++ leBytes 4 blocks

/-- Group 15 with two members, endpoints 5 and 6, and two blocks. -/
def pg (a b : Epoch) : PGroup := { defined := true, slice := 2, members := [5, 6], blocks := 2, seqCtr := 7, epochA := a, epochB := b }

theorem test_parity_define :
  (let s0 := withJob 8 (pgBody 15 1 2 0 2) (parity {} [])
   let data := leBytes 2 5 ++ [2] ++ zeros 5 ++ leBytes 2 6 ++ [2] ++ zeros 5
   nextJob 8 1 s0 = true ∧ s0.tableBad data 2 = false ∧ s0.imageTooBig 2 = false ∧
   gives (.define 9 data) s0 (fun s => s.pgroup 15 == { defined := true, slice := 2, blocks := 2, members := [5, 6] } && reports 0 s) = true ∧
   gives (.define 9 (zeros 16)) s0 (fun s => s.recov == s0.recov && reports 0x51 s) = true ∧
   (let s1 := withJob 8 (pgBody 16 1 2 0 2) (parity {} [])
    gives (.define 9 data) s1 (fun s => s.recov == s1.recov && reports 0x51 s) = true)) := by decide +kernel
theorem test_parity_open :
  (let s0 := withJob 8 (pgBody 15 2 0 1 0) (parity { groups := [(15, pg {} {})] } [])
   nextJob 8 2 s0 = true ∧ s0.openRefused 15 true = none ∧
   gives (.openEpoch 9) s0 (fun s => s.jobs.map (fun j => j.started) == [true] && (s.pgroup 15).epoch true == { seq := 8, live := 0xFF, opening := true, order := 1, region := some (0, 1) } &&
     (s.pgroup 15).epoch false == {}) = true ∧
   (let s1 := withJob 8 (pgBody 15 2 0 1 0) (parity { groups := [(15, pg { state := .folding } {})] } [])
    s1.openRefused 15 true ≠ none ∧ gives (.openEpoch 9) s1 (fun s => s.recov == s1.recov && reports 0x51 s) = true) ∧
   (let s2 : State := { s0 with jobs := s0.jobs.map (fun j => { j with started := true }), recov := { s0.recov with groups := [(15, pg {} { opening := true, seq := 8 })] } }
    gives (.epochOpenDone 9) s2 (fun s => (s.pgroup 15).epoch true == { state := .folding, seq := 8 } && reports 0 s) = true)) := by decide +kernel
theorem test_parity_close :
  (let at_ (op : Nat) (e : Epoch) (rb : Tab Rebuild) := withJob 8 (pgBody 15 op 0 0 0) (parity { groups := [(15, pg e {})], rebuilds := rb } [])
   nextJob 8 3 (at_ 3 {} []) = true ∧
   gives (.closeEpoch 9) (at_ 3 { state := .folding, full := 2 } []) (fun s => ((s.pgroup 15).epoch false).state == .complete && reports 0 s) = true ∧
   gives (.closeEpoch 9) (at_ 3 { state := .folding, full := 1 } []) (fun s => ((s.pgroup 15).epoch false).state == .incomplete && reports 0 s) = true ∧
   gives (.closeEpoch 9) (at_ 3 {} []) (fun s => s.recov == (at_ 3 {} []).recov && reports 0x51 s) = true ∧
   nextJob 8 4 (at_ 4 {} []) = true ∧
   gives (.release 9) (at_ 4 {} []) (fun s => s.pgroup 15 == {} && reports 0 s) = true ∧
   gives (.release 9) (at_ 4 {} [(3, { active := true, pgroup := 15 })]) (fun s => s.recov == (at_ 4 {} [(3, { active := true, pgroup := 15 })]).recov && reports 0x51 s) = true) := by decide +kernel

/-- A fold packet of 4 KiB checked in landing of a Caldera die. -/
def foldLanded (ty m seq : Nat) : Landed :=
  { id := 4, src := 0, vc := 4, relSeq := 0, user := 8, firstAt := 0, count := 1, failed := false, verdict := 1, payCrc := 0x55, crcPresent := true, inPort := 0, phase := .checked, got := [(0, padTo 4160 (headerSlot { vc := 4, cls := 2, src := if m = 0 then 5 else 6, slice := 2, payLen := 4096, launch := BitVec.ofNat 64 (foldTag ty 15 false m 3 seq 0) } [] ++ [9]))] }

/-- It is in landing of die 7, the home of block 0 of group 15. -/
def foldIn (ty m seq : Nat) (r : Recovery) (cal : Caldera) : State := parity r [(7, { cal with landing := [foldLanded ty m seq] })]

theorem test_fold :
  (let e : Epoch := { state := .folding, seq := 7, live := 0xFF, region := some (0, 1) }
   let r (e : Epoch) : Recovery := { groups := [(15, pg e {})] }
   let s0 := foldIn 1 1 7 (r e) {}
   (s0.checkedFold 7 4).map (fun m => (m.foldOk, tagType m.tag, s0.foldMember m, s0.isHome 7 m)) = some (true, 1, true, true) ∧
   gives (.foldReceived 9 7 4 .none) s0 (fun s => (s.landed 7 4).isNone && (tget {} (s.caldera 7).parity 0).folded == 2 && (tget {} (s.caldera 7).parity 0).crcAcc == 0x55 &&
     (tget {} (s.caldera 7).parity 0).data.take 2 == [9, 0] && (tget {} (s.caldera 7).parity 0).epochSeq == 7 && ((s.pgroup 15).epoch false).state == .folding) = true ∧
   (let held (f : BitVec 64) : Caldera := { parity := [(0, { data := [6], folded := f, crcAcc := 1, epochSeq := 7 })] }
    gives (.foldReceived 9 7 4 .none) (foldIn 1 1 7 (r { e with full := 1 }) (held 1)) (fun s => (tget {} (s.caldera 7).parity 0).folded == 3 && (tget {} (s.caldera 7).parity 0).crcAcc == 0x54 &&
      (tget {} (s.caldera 7).parity 0).data.take 2 == [15, 0] && ((s.pgroup 15).epoch false).state == .complete) = true ∧
    gives (.foldReceived 9 7 4 .none) (foldIn 1 1 7 (r e) (held 1)) (fun s => ((s.pgroup 15).epoch false).state == .folding && ((s.pgroup 15).epoch false).full == 1) = true ∧
    gives (.foldReceived 9 7 4 .none) (foldIn 1 1 7 (r e) (held 2)) (fun s => (s.landed 7 4).isNone && (tget {} (s.caldera 7).parity 0).folded == 2 && (s.caldera 7).foldDup == 1) = true) ∧
   gives (.foldReceived 9 7 4 .none) (foldIn 1 1 6 (r e) {}) (fun s => (s.landed 7 4).isNone && (s.caldera 7).parity == [] && s.recov.foldStale == 1) = true) := by decide +kernel

/-- Endpoint 5 of slice 2 is on port 40, which has been out since now. -/
def portOut40 (r : Recovery) (x : Tab (Option Nat)) : State := { arrived [] .pending 4 with
  inPkts := []
  ports := [(40, { state := .down, partner := zeros 11 ++ [2] })]
  recov := { r with outSince := x, parityEp := 77 } }

theorem test_member_failed :
  (let s0 := portOut40 { groups := [(15, pg { state := .folding } {})] } [(40, some 1)]
   (s0.tick 500000001).endpointOut 2 5 = true ∧ (s0.tick 500000000).endpointOut 2 5 = false ∧ (s0.pgroup 15).members.getD 0 0xFFFF = 5 ∧
   s0.rebuilds (fun _ => true) = [] ∧
   gives (.memberFailed 500000001 15 0) s0 (fun s => (s.pgroup 15).failed == 1 && s.recov.buckets == [1] && ((s.pgroup 15).epoch false).state == .incomplete && ((s.pgroup 15).epoch true).state == .empty) = true ∧
   gives (.memberFailed 500000000 15 0) s0 (fun s => s == { s0 with now := 500000000 }) = true ∧
   gives (.memberFailed 500000001 15 2) s0 (fun s => s == { s0 with now := 500000001 }) = true ∧
   (let last : State := { portOut40 { groups := [(15, pg { state := .folding, seq := 7, live := 0xFF, region := some (0, 1), full := 1 } {})] } [(40, some 1)] with
      calderas := [(7, { landing := [foldLanded 1 1 7], parity := [(0, { data := [6], folded := 1, crcAcc := 1, epochSeq := 7 })] })], pending := [.foldReceived 500000001 7 4 .none] }
    gives (.memberFailed 500000001 15 0) last (fun s => (s.pgroup 15).failed == 1 && ((s.pgroup 15).epoch false).state == .complete) = true) ∧
   (let two : State := { portOut40 { groups := [(15, pg { state := .folding } {}), (14, pg {} {})] } [(40, some 1)] with pending := [.memberFailed 500000001 14 0] }
    (two.tick 500000001).lowerFails 15 0 = [64 * 14] ∧ (two.tick 500000001).lowerFails 14 0 = []) ∧
   (let sp : State := { s0 with recov := { s0.recov with spares := [(7, { ep := 5, valid := true })] } }
    gives (.memberFailed 500000001 255 7) sp (fun s => (s.spare 7).failed && s.recov.groups == s0.recov.groups) = true ∧
    gives (.memberFailed 500000000 255 7) sp (fun s => s == { sp with now := 500000000 }) = true) ∧
   gives (.intervalBucketExpiry 9450000000000) s0 (fun s => s.recov.buckets == [0] && s.recov.bucketAt == 9450000000000) = true ∧
   gives (.intervalBucketExpiry 9449999999999) s0 (fun s => s == { s0 with now := 9449999999999 }) = true) := by decide +kernel
theorem test_rebuild_start :
  (let e : Epoch := { state := .complete, seq := 7, live := 0xFF, region := some (0, 1) }
   let at_ (r : Recovery) : State := parity { r with groups := [(15, { pg e {} with failed := 2 })] } []
   let body (m : Nat) : List Byte := [15] ++ leBytes 1 m ++ leBytes 2 9
   let s0 := withJob 9 (body 1) (at_ {})
   nextJob 9 0 s0 = true ∧ s0.rebuildRefused 15 1 false = none ∧ s0.quarterBlocks = 2 ∧ s0.freeSlot = some 0 ∧
   gives (.rebuild 9) s0 (fun s => s.rebuild 0 == { active := true, pgroup := 15, member := 1, epochSeq := 7, spareEp := 9 } && s.recov.groups == s0.recov.groups && reports 0 s) = true ∧
   (let full := withJob 9 (body 1) (at_ { rebuilds := (List.range 4).map (fun k => (k, { active := true, pgroup := 14 })) })
    full.freeSlot = none ∧ gives (.rebuild 9) full (fun s => s.recov == full.recov && reports 0x52 s) = true) ∧
   (let bad := withJob 9 (body 2) (at_ {})
    (bad.pgroup 15).members.length = 2 ∧ gives (.rebuild 9) bad (fun s => s.recov == bad.recov && reports 0x51 s) = true) ∧
   (let wait (sp : Tab Spare) := at_ { waiting := [(15, 1)], spares := sp }
    (wait [(7, { ep := 9, valid := true })]).freeSpare = some 7 ∧
    gives (.autoRebuildStart 9) (wait [(7, { ep := 9, valid := true })]) (fun s => s.recov.waiting == [] && (s.rebuild 0).active && (s.rebuild 0).spareEp == 9 && (s.spare 7).inUse) = true ∧
    gives (.autoRebuildStart 9) (wait []) (fun s => s == { wait [] with now := 9 }) = true ∧
    gives (.autoRebuildStart 9) (at_ {}) (fun s => s == { at_ {} with now := 9 }) = true)) := by decide +kernel
theorem test_feed :
  (let e : Epoch := { state := .complete, seq := 7, live := 0xFF, region := some (0, 1) }
   let at_ (bm : BitVec 64) : State := foldIn 2 0 7 { groups := [(15, { pg e {} with failed := 2 })], rebuilds := [(3, { active := true, pgroup := 15, member := 1, epochSeq := 7, loaded := true, windowLen := 2, spareEp := 6 })] } { accums := [(accumKey 3 0, { data := [6], acc := 1, bitmap := bm })] }
   ((at_ 1).checkedFold 7 4).map (fun m => (m.foldOk, tagType m.tag, tagSlot m.tag, (at_ 1).foldMember m, (at_ 1).isHome 7 m)) = some (true, 2, 3, true, true) ∧
   gives (.feedReceived 9 7 4 .none) (at_ 5) (fun s => (s.landed 7 4).isNone && (s.rebuild 3).feedAt == 9 && (tget {} (s.caldera 7).accums (accumKey 3 0)).bitmap == 4 &&
     (tget {} (s.caldera 7).accums (accumKey 3 0)).acc == 0x54 && (tget {} (s.caldera 7).accums (accumKey 3 0)).data.take 2 == [15, 0]) = true ∧
   gives (.feedReceived 9 7 4 .none) (at_ 4) (fun s => (s.landed 7 4).isNone && (s.caldera 7).foldDup == 1 && s.recov == (at_ 4).recov) = true ∧
   (let other : State := { at_ 1 with recov := { (at_ 1).recov with rebuilds := [] } }
    gives (.feedReceived 9 7 4 .none) other (fun s => (s.landed 7 4).isNone && s.recov.foldStale == 1 && (s.caldera 7).accums == (other.caldera 7).accums) = true) ∧
   gives (.feedTimeout 1000000000 3) (at_ 1) (fun s => !(s.rebuild 3).active && (s.rebuild 3).status == 0x50 && (s.rebuild 3).detail == 6) = true ∧
   gives (.feedTimeout 999999999 3) (at_ 1) (fun s => s == { at_ 1 with now := 999999999 }) = true ∧
   gives (.feedTimeout 9 2) (at_ 1) (fun s => s == { at_ 1 with now := 9 }) = true) := by decide +kernel
theorem test_feed_last :
  (let e : Epoch := { state := .complete, seq := 7, live := 0xFF, region := some (0, 1) }
   let at_ : State := foldIn 2 0 7 { groups := [(15, { pg e {} with failed := 2 })], rebuilds := [(3, { active := true, pgroup := 15, member := 1, epochSeq := 7, loaded := true, windowLen := 2, spareEp := 6 })] } { accums := [(accumKey 3 0, { data := [6], acc := 1, bitmap := 1 })] }
   setBit (1 : BitVec 64) 0 false = 0 ∧ (at_.rebuild 3).doneInWindow + 1 < (at_.rebuild 3).windowLen) := by decide +kernel
theorem test_window_start_hyps : ({ folded := 3 } : PBlock).ok = true := by
  have h : ({ folded := 3 } : PBlock).count % 2 = 0 := by decide +kernel
  unfold PBlock.ok
  rw [if_pos h]
  simp [zeroBlockCrc, padTo, sliceOf]
theorem test_window_start :
  (let at_ (r : Rebuild) : State := parity { groups := [(15, { pg { state := .complete, seq := 7, live := 0xFF } {} with failed := 2 })], rebuilds := [(3, r)] } [(7, { parity := [(0, { folded := 3 })] })]
   let s0 := at_ { active := true, pgroup := 15, member := 1, windowFirst := 0 }
   min ((liveDies ((s0.pgroup 15).epoch false).live).length * s0.quarterBlocks) 1 = 1 ∧
   homeDie 0xFF 15 0 = some 7 ∧ s0.readBlock 7 15 false (((s0.pgroup 15).epoch false).localIndex 0) = { folded := 3 } ∧ setBit (3 : BitVec 64) 1 false ≠ 0 ∧
   gives (.rebuildWindowStart 9 3 []) (at_ {}) (fun s => s == { at_ {} with now := 9 }) = true) := by decide +kernel

theorem test_ledger :
  (let at_ (r : Recovery) : State := { parity r [(7, { landing := [{ foldLanded 5 0 0 with got := [(0, headerSlot { vc := 4, cls := 2, src := 8, slice := 2, payLen := 64, launch := BitVec.ofNat 64 (foldTag 5 0 false 0 0 0 0) } [] ++ padTo 64 (zeros 4 ++ leBytes 4 1029))] }] })] with now := 3 }
   gives (.ledgerHeartbeat 100000000) (at_ { ledgerSeq := 1025 }) (fun s => s.recov.ledgerSeq == 1026 && s.recov.heartbeatAt == 100000000 && fieldOf (tget [] s.recov.ledger 1) 0 1 == 1 && fieldOf (tget [] s.recov.ledger 1) 4 4 == 1025) = true ∧
   gives (.ledgerHeartbeat 99999999) (at_ {}) (fun s => s == { at_ {} with now := 99999999 }) = true ∧
   ((at_ {}).checkedFold 7 4).map (fun m => (m.foldOk, tagType m.tag, m.hdr.src)) = some (true, 5, 8) ∧
   gives (.ledger 9 7 4) (at_ { mirrorSrc := 8, ledgerSeen := true, mirrorSeq := 1026, buddySilent := true }) (fun s => (s.landed 7 4).isNone && fieldOf (tget [] s.recov.mirror 5) 4 4 == 1029 &&
     s.recov.mirrorSeq == 1029 && s.recov.mirrorGaps == 2 && !s.recov.buddySilent && s.recov.ledgerAt == 9) = true ∧
   gives (.ledger 9 7 4) (at_ { mirrorSrc := 9 }) (fun s => (s.landed 7 4).isNone && s.recov == { (at_ { mirrorSrc := 9 }).recov with foldBad := 1 }) = true ∧
   gives (.buddySilent 300000000) (at_ { mirrorSrc := 8 }) (fun s => s.recov.buddySilent) = true ∧
   gives (.buddySilent 299999999) (at_ { mirrorSrc := 8 }) (fun s => s == { at_ { mirrorSrc := 8 } with now := 299999999 }) = true ∧
   gives (.buddySilent 300000000) (at_ {}) (fun s => s == { at_ {} with now := 300000000 }) = true) := by decide +kernel

/-! ## The host attach -/

/-- The attach and rings. -/
def attach (h : HostAttach) (r : Tab Ring) : State := { ready with host := { h with wbBase := 1, dbBase := 2 }, rings := r }

/-- Neither tile of the attach can be reached. -/
def far : State := (ready.modDie 4 (fun d => { d with released := false })).modDie 12 (fun d => { d with released := false })

theorem test_attach_chosen :
  gives (.hostModuleTrained 9 false true true) (attach { downAt := some 1, outbox := [.msix 1, .msix 2] } []) (fun s => s.host == (attach { everTrained := true, aTrained := true, halfRate := true, cacheOn := true } []).host && s.sent == [.msix 2, .msix 1]) = true ∧
  gives (.hostModuleTrained 9 true false true) (attach {} []) (fun s => s.host.bTrained && s.host.unitB && s.host.cacheOn) = true ∧
  gives (.hostModuleTrained 9 true false true) (attach { aTrained := true } []) (fun s => s.host == (attach { everTrained := true, aTrained := true, bTrained := true, standbyCache := true } []).host) = true ∧
  (let at_ (t : Nat) : State := { attach { bTrained := true, unitB := true, halfRate := true } [] with pins := { ready.pins with hRstRoseAt := some 4 }, now := t }
   (at_ 500000003).takesLink false = true ∧ (at_ 500000004).takesLink false = false ∧
   gives (.hostModuleTrained 9 false false true) (at_ 500000003) (fun s => s.host == (attach { everTrained := true, aTrained := true, bTrained := true, cacheOn := true, standbyHalf := true } []).host) = true ∧
   gives (.hostModuleTrained 9 false false true) (at_ 500000004) (fun s => s.host == (attach { everTrained := true, aTrained := true, bTrained := true, unitB := true, halfRate := true, standbyCache := true } []).host) = true) ∧
  gives (.hostModuleTrained 9 true false true) (attach { downAt := some 3 } []) (fun s => !s.host.unitB && s.host.bTrained && s.host.downAt == some 3) = true ∧
  gives (.hostModuleDown 9 false) (attach { aTrained := true, bTrained := true } []) (fun s => s.host.downAt == some 9 && !s.host.aTrained && s.host.bTrained) = true ∧
  gives (.hostModuleDown 9 true) (attach { aTrained := true, bTrained := true } []) (fun s => s.host.downAt == none && !s.host.bTrained) = true ∧
  (let at_ (h : HostAttach) : State := { attach h [] with pins := { ready.pins with hRstRoseAt := some 4 } }
   gives (.attachTimeout 500000004) (at_ {}) (fun s => s.host.attachFailed && (s.die 4).sticky.getLsbD srcHaFail) = true ∧
   gives (.attachTimeout 500000003) (at_ {}) (fun s => s == { at_ {} with now := 500000003 }) = true ∧
   gives (.attachTimeout 500000004) (at_ { everTrained := true }) (fun s => s == { at_ { everTrained := true } with now := 500000004 }) = true ∧
   gives (.attachTimeout 500000004) (at_ { bTrained := true }) (fun s => s == { at_ { bTrained := true } with now := 500000004 }) = true) := by decide +kernel
theorem test_failover :
  (let h : HostAttach := { bTrained := true, downAt := some 4, halfRate := true, standbyCache := true, outbox := [.msix 1] }
   let s0 := attach h [(3, { fetch := some (0, 1) })]
   s0.dieOut 12 = false ∧ (s0.die 12).inReset = false ∧ s0.reachable s0.haWindow = true ∧
   gives (.failover 100004) s0 (fun s => s.host.unitB && s.host.failovers == 1 && s.host.replay == some 1 && s.host.downAt == none && s.host.outbox == [] && !s.host.halfRate && s.host.cacheOn && s.host.standbyHalf && (s.ring 3).fetch == none && s.host.moved) = true ∧
   gives (.failover 100003) s0 (fun s => s == { s0 with now := 100003 }) = true ∧
   gives (.failover 100004) (attach { downAt := some 4 } []) (fun s => s.host.attachFailed && !s.host.unitB) = true ∧
   gives (.failover 9) ready (fun s => s == { ready with now := 9 }) = true ∧
   gives (.switch 9 1) (attach { aTrained := true, bTrained := true } [(3, { fetch := some (0, 1) })]) (fun s => s.host.unitB && s.host.replay == some 3 && (s.ring 3).fetch == none) = true ∧
   gives (.switch 9 1) (attach { aTrained := true, bTrained := true, unitB := true } []) (fun s => !s.host.unitB && s.host.replay == some 3) = true ∧
   gives (.switch 9 2) s0 (fun s => s == { s0.refuseWrite 2 with now := 9 }) = true ∧
   gives (.switch 9 1) (attach { aTrained := true } []) (fun s => s == { attach { aTrained := true } [] with now := 9 }) = true ∧
   far.reachable far.haWindow = false ∧ gives (.switch 9 1) far (fun s => s == accessRefused 1 (some far.haWindow) (far.tick 9)) = true) ∧
  (let w : RingWrite := { ring := 4, index := 63, bytes := zeros 64 }
   let at_ (up : Bool) := attach { bTrained := up, unitB := true, replay := some 1, unconfirmed := [w] } [(4, { base := 3, kind := 1, enable := true, tail := 64 })]
   (at_ true).hostUp = true ∧ (at_ false).hostUp = false ∧
   gives (.failoverReplay 9) (at_ true) (fun s => s.host.replay == none && s.sent.contains (.hostWrite s.causeWord (leBytes 8 3)) && s.sent.contains (.hostWrite (3 * 4096 + 63 * 64) (zeros 64)) && s.sent.contains (.hostWrite (s.tailWord 4) [64, 0, 0, 0, 0, 0, 0, 0])) = true ∧
   gives (.failoverReplay 9) (at_ false) (fun s => s == { at_ false with now := 9 }) = true ∧
   gives (.failoverReplay 9) ready (fun s => s == { ready with now := 9 }) = true) := by decide +kernel
theorem test_ring_disable :
  gives (.ringEnable 5 2 3 7) ringed (fun s => s == { ringed.refuseWrite 2 with now := 5 }) = true ∧
  gives (.ringDisable 5 2 3) ringed (fun s => s == { ringed.refuseWrite 2 with now := 5 }) = true ∧
  gives (.ringEnable 5 1 16383 7) ringed (fun s => (s.ring 16383).err && !(s.ring 16383).enable && s.ring 4 == ringed.ring 4) = true ∧
  gives (.ringDisable 5 1 3) { ringed with rings := [(3, { cmplRing := 4, enable := true, woken := true, fetch := some (0, 1) }), (4, { kind := 1, enable := true, reserved := 1 })] }
    (fun s => s.ring 3 == { cmplRing := 4 } && (s.ring 4).enable) = true ∧
  gives (.ringEnable 5 1 3 7) far (fun s => s == accessRefused 1 (some far.haWindow) (far.tick 5)) = true ∧
  gives (.functionLevelReset 5) (attach { msix := [(3, { masked := true })] } [(4, { kind := 1, enable := true })]) (fun s => !(s.ring 4).enable && s.host.msix == []) = true := by decide +kernel
theorem test_ring_delayed :
  (let s0 : State := { ringed with rings := [(3, { cmplRing := 4 }), (4, { kind := 1, enable := true, audits := [5] })]
                                   host := { ringed.host with delayed := [{ ring := 4, index := 0, bytes := padTo 64 [1] }] } }
   gives (.ringDisable 5 1 4) s0 (fun s => s.host.delayed == [] && s.host.lostRecords == 1 && (s.ring 4).audits == [] && !(s.ring 4).enable) = true ∧
   gives (.functionLevelReset 5) s0 (fun s => s.host.delayed == [] && s.host.msix == []) = true) := by decide +kernel
theorem test_doorbells :
  (let at_ (c : Bool) (g : Ring) := attach { aTrained := true, cacheOn := c, lines := [(2047, 1)] } [(16383, g)]
   let ws (x : Nat) := [0, 0, 0, 0, 0, 0, 0, x]
   gives (.doorbellSnoop 9 (.inv 2047)) (at_ true {}) (fun s => tget 0 s.host.lines 2047 == 0 && s.sent == [.hostRead (2 * 4096 + 64 * 2047) 64 true, .snoopAnswer 2047]) = true ∧
   gives (.doorbellSnoop 9 (.inv 2047)) (at_ false {}) (fun s => tget 0 s.host.lines 2047 == 0 && s.sent == [.snoopAnswer 2047]) = true ∧
   gives (.doorbellSnoop 9 (.cur 2047)) (at_ true {}) (fun s => tget 0 s.host.lines 2047 == 1 && s.sent == [.snoopAnswer 2047]) = true ∧
   gives (.doorbellLineRead 9 2047 (ws 64)) (at_ true { enable := true }) (fun s => (s.ring 16383).tail == 64 && (s.ring 16383).doorbell == 64 && (s.ring 16383).woken && (s.ring 16383).head == 0) = true ∧
   gives (.doorbellLineRead 9 2047 (ws 65)) (at_ true { enable := true }) (fun s => (s.ring 16383).err && !(s.ring 16383).enable) = true ∧
   gives (.doorbellLineRead 9 2047 (ws 64)) (at_ true { enable := true, kind := 1 }) (fun s => (s.ring 16383).head == 64 && (s.ring 16383).tail == 0) = true ∧
   gives (.doorbellLineRead 9 2047 (ws 0)) (at_ true { enable := true }) (fun s => !(s.ring 16383).woken && (s.ring 16383).tail == 0) = true ∧
   gives (.doorbellPoll 10000) (at_ true { enable := true }) (fun s => s == { at_ true { enable := true } with now := 10000 }) = true ∧
   gives (.doorbellPoll 9999) (at_ false { enable := true }) (fun s => s == { at_ false { enable := true } with now := 9999 }) = true ∧
   gives (.doorbellPoll 10000) (at_ false { enable := true }) (fun s => s.host.pollAt == 10000 && s.sent.contains (.hostRead (2 * 4096 + 64 * 2047) 64 false)) = true) := by decide +kernel
theorem test_descriptor_fetch :
  (let at_ (g : Ring) := attach { aTrained := true } [(3, g), (4, { base := 5, kind := 1, enable := true })]
   let g : Ring := { base := 3, cmplRing := 4, enable := true, head := 2, tail := 40, doorbell := 40, woken := true }
   (at_ g).nextFetch = some 3 ∧ (at_ g).fetchCount 3 = 16 ∧
   gives (.descriptorFetch 9) (at_ g) (fun s => (s.ring 3).fetch == some (2, 16) && (s.ring 4).reserved == 16 && s.host.visit == 4 && s.sent == [.hostRead (3 * 4096 + 128) 1024 false]) = true ∧
   (at_ {}).nextFetch = none ∧ gives (.descriptorFetch 9) (at_ {}) (fun s => s == { at_ {} with now := 9 }) = true ∧
   (let rd := at_ { g with fetch := some (2, 1) }
    let nop := leBytes 8 0x0E ++ zeros 56
    descCheckOk false nop = true ∧ descReservedOk nop = true ∧ (bodyRanges nop).all (rangeOk false) = true ∧
    gives (.descriptorReadDone 9 3 true nop) rd (fun s => s.jobs == [{ src := .ring 3 2, desc := nop }] && s.ring 3 == { g with head := 3 }) = true ∧
    descReservedOk (zeros 64) = false ∧ gives (.descriptorReadDone 9 3 true (zeros 64)) rd (fun s => s.jobs == []) = true ∧
    gives (.descriptorReadDone 9 3 false []) rd (fun s => s.jobs == [] && (s.ring 3).err && !(s.ring 3).woken && (s.ring 3).fetch == none && s.host.readErrors == 1) = true ∧
    (let j : Job := { src := .ring 3 1, desc := padTo 64 (leBytes 8 dkGroupInstall) }
     let failed : State := { at_ g with jobs := [j] }
     j.readFails [] = true ∧ !failed.clkStopped dieTD ∧ !failed.vent.inSafe ∧ jobIs dkGroupInstall 0 j ∧ !j.started ∧ failed.isOwner (jobMaster j.src) ∧ failed.hostUp ∧ failed.host.delayed = [] ∧ failed.unconfirmedSlots = 0 ∧
     gives (.groupInstall 9 []) failed (fun s => s.groups == failed.groups && s.jobs == [] && (s.ring 3).err && !(s.ring 3).woken && s.host.readErrors == 1 &&
       s.sent.any (fun x => match x with | .hostWrite a b => a == 5 * 4096 && byteAt b 2 == 0x75 | _ => false)) = true) ∧
    gives (.descriptorReadDone 9 3 true nop) (at_ g) (fun s => s == { at_ g with now := 9 }) = true)) := by decide +kernel
theorem test_records_confirmed :
  (let w (r i : Nat) : RingWrite := { ring := r, index := i, bytes := zeros 64 }
   let at_ := attach { aTrained := true, unconfirmed := [w 4 0, w 4 1, w 5 0] } []
   gives (.tailConfirm 9 4 1) at_ (fun s => s.host.unconfirmed == [w 4 1, w 5 0] && s.sent == []) = true) ∧
  (let at_ (msk : Bool) := attach { aTrained := true, msix := [(5, { masked := msk, data := 1 })] } [(4, { vector := 5, intEn := true, coalUs := 2, unsigFrom := some 4, unsignalled := 1 })]
   gives (.msixCoalesceTimeout 2004 4) (at_ false) (fun s => (s.ring 4).unsigFrom == none && (s.ring 4).unsignalled == 0 && s.sent == [.msix 5]) = true ∧
   gives (.msixCoalesceTimeout 2004 4) (at_ true) (fun s => tget {} s.host.msix 5 == { masked := true, data := 1, pending := true } && s.sent == []) = true ∧
   gives (.msixCoalesceTimeout 2003 4) (at_ false) (fun s => s == { at_ false with now := 2003 }) = true ∧
   gives (.msixCoalesceTimeout 2004 5) (at_ false) (fun s => s == { at_ false with now := 2004 }) = true) := by decide +kernel
theorem test_mailbox :
  (let at_ (d : List Byte) (b : Bool) : State := { ready with masters := [(1, { mboxDesc := memWrite 0 [] 0 (padTo 64 d), mboxBusy := b })] }
   gives (.mailboxGo 9 1) (at_ [0x0E] true) (fun s => (s.master 1).mboxDropped && (s.master 1).mboxBusy && s.jobs == []) = true ∧
   gives (.mailboxGo 9 1) (at_ [0x0E] false) (fun s => s.jobs == [{ src := .mbox 1, desc := padTo 64 [0x0E] }] && (s.master 1).mboxBusy) = true ∧
   descCheckOk false (padTo 64 [0x0E, 1]) = false ∧
   gives (.mailboxGo 9 1) (at_ [0x0E, 1] false) (fun s => s.jobs == [] && !(s.master 1).mboxBusy && tget 0 (s.master 1).mboxCmpl 2 == 0x74) = true ∧
   descReservedOk (padTo 64 [0x0F]) = false ∧
   gives (.mailboxGo 9 1) (at_ [0x0F] false) (fun s => s.jobs == [] && tget 0 (s.master 1).mboxCmpl 2 == 0x73) = true ∧
   (let wire := leBytes 8 dkPortCtl ++ [0, 0, 2, 0, 3]
    descKind (padTo 64 wire) = dkPortCtl ∧ (bodyOp dkPortCtl (padTo 64 wire)).1 = 2 ∧ fieldOf (padTo 64 wire) 12 4 = 3 ∧ descCheckOk false (padTo 64 wire) = true ∧
    gives (.mailboxGo 9 1) (at_ wire false) (fun s => s.jobs == [] && !(s.master 1).mboxBusy && tget 0 (s.master 1).mboxCmpl 2 == 0x73) = true)) ∧
  nextJob 14 0 (withJob 14 [] ready) = true ∧ gives (.nop 9) (withJob 14 [] ready) (fun s => reports 0 s && s.own == ready.own) = true ∧
  (let at_ (x : Nat) : State := { withJob 13 (leBytes 1 x) ready with own := { owner := 1, successor := some (2, 3) } }
   nextJob 13 0 (at_ 0) = true ∧
   gives (.ownerHandover 9) (at_ 0) (fun s => s.own == { owner := 1 } && reports 0 s) = true ∧
   gives (.ownerHandover 9) (at_ 0x13) (fun s => s.own == { owner := 1, successor := some (0x13, 9) } && reports 0 s) = true ∧
   gives (.ownerHandover 9) (at_ 1) (fun s => s.own == (at_ 1).own && reports 0x76 s) = true ∧
   gives (.ownerHandover 9) (at_ 0x14) (fun s => s.own == (at_ 0x14).own && reports 0x76 s) = true) := by decide +kernel

/-! ## Ownership, management and registers -/

theorem test_claims :
  (let at_ (o : Ownership) : State := { ready with own := o, masters := [(2, { nonce := 7, priority := 3 })], tiles := [(1, { pending := [(0xF00, 1)] })] }
   gives (.ownerClaim 9 2) { ready with boot := { row := .recordsOk, phase := .config }, own := {} } (fun s => s.own == {} && (s.master 2).claimResult == 5) = true ∧
   gives (.ownerClaim 9 2) (at_ {}) (fun s => s.own == { windowAt := some 9 } && (s.master 2).claimResult == 1 && (s.master 2).entered == [(7, 3)]) = true ∧
   gives (.ownerClaim 9 2) (at_ { owner := 1 }) (fun s => s.own == { owner := 1 } && (s.master 2).claimResult == 4) = true ∧
   gives (.ownerClaim 9 2) (at_ { owner := 2, nonce := 7 }) (fun s => s.own == { owner := 2, nonce := 7, leaseAt := 9 } && s.tiles == (at_ {}).tiles) = true ∧
   gives (.ownerClaim 9 2) (at_ { owner := 2, nonce := 6 }) (fun s => s.own == { owner := 2, nonce := 7, priority := 3, leaseAt := 9 } && (s.tile 1).pending == []) = true ∧
   gives (.ownerClaim 1000000003 2) (at_ { owner := 1, successor := some (2, 4) }) (fun s => s.own.owner == 2 && s.own.successor == none && (s.master 2).claimResult == 2) = true ∧
   gives (.ownerClaim 1000000004 2) (at_ { owner := 1, successor := some (2, 4) }) (fun s => s.own.owner == 1 && (s.master 2).claimResult == 4) = true) := by decide +kernel
theorem test_election :
  (let at_ : State := { ready with own := { windowAt := some 4 }, masters := [(1, { entered := [(7, 3)] }), (2, { entered := [(8, 1), (8, 3)] }), (0x13, { entered := [(9, 2)] })] }
   at_.entrants ≠ [] ∧
   gives (.electionWindowEnd 10000004) at_ (fun s => s.own == { owner := 2, priority := 3, nonce := 8, leaseAt := 10000004 } && (s.master 2).claimResult == 2 && (s.master 1).claimResult == 3 && (s.master 0x13).claimResult == 3 && (s.master 1).entered == []) = true ∧
   gives (.electionWindowEnd 10000003) at_ (fun s => s == { at_ with now := 10000003 }) = true) := by decide +kernel
theorem test_lease :
  gives (.leaseRenew 9 1) ready (fun s => s == { ready with now := 9, own := { owner := 1, leaseAt := 9 } }) = true ∧
  gives (.leaseRenew 9 2) ready (fun s => s == { ready.refuseWrite 2 with now := 9 }) = true ∧
  gives (.leaseLapsed 1000000000) ready (fun s => s.own == { owner := 0, leaseAt := 1000000000, late := some (1, mgCycle 1000000000) } && s.rings == ready.rings) = true ∧
  gives (.leaseLapsed 999999999) ready (fun s => s == { ready with now := 999999999 }) = true ∧
  gives (.handoverWrite 9 1 0x13) ready (fun s => s.own == { owner := 1, successor := some (0x13, 9) }) = true ∧
  gives (.handoverWrite 9 1 0) ready (fun s => s.own == { owner := 1 }) = true ∧
  gives (.handoverWrite 9 1 1) ready (fun s => s == { ready with now := 9 }) = true ∧
  gives (.handoverWrite 9 1 255) ready (fun s => s == { ready with now := 9 }) = true ∧
  gives (.handoverWrite 9 2 0) ready (fun s => s == { ready.refuseWrite 2 with now := 9 }) = true ∧
  (let at_ : State := { ready with own := { owner := 1, successor := some (2, 4) } }
   gives (.handoverExpiry 1000000004) at_ (fun s => s.own == { owner := 1 }) = true ∧
   gives (.handoverExpiry 1000000003) at_ (fun s => s.own == at_.own) = true) := by decide +kernel
theorem test_management :
  (let at_ (p : List Byte) : State := { arrived [] .pending 4 with inPkts := [], mgmtIn := [(0x11, 5, 2, p)] }
   let answered (s : State) : Bool := s.mgmtIn == [] && (s.caldera 0).egress.map (fun e => (e.2.hdr.dst, e.2.hdr.vc, e.2.hdr.cls, e.2.hdr.slice)) == [(5, 0, 2, 2)]
   let rd := [1, 1] ++ leBytes 2 1 ++ leBytes 4 5 ++ leBytes 4 0x1000 ++ zeros 4
   mgmtRangeOk rd = true ∧ gives (.mgmtRead 9) (at_ rd) (fun s => answered s && (s.master 0x11).mgmtTx == 1) = true ∧
   mgmtRangeOk ([1, 1] ++ zeros 14) = false ∧
   gives (.mgmtRead 9) (at_ ([1, 1] ++ zeros 14)) (fun s => answered s && (s.master 0x11).badAccess && (s.master 0x11).accCount == 1) = true ∧
   (let wr := [2, 1] ++ leBytes 2 1 ++ leBytes 4 5 ++ leBytes 4 0x2000 ++ zeros 4 ++ leBytes 4 1
    mgmtRangeOk wr = true ∧ 20 ≤ wr.length ∧ gives (.mgmtWrite 9) (at_ wr) (fun s => answered s && (s.master 0x11).refused == 1) = true) ∧
   (let d (n : Nat) := [3, 1] ++ leBytes 2 n ++ leBytes 4 5 ++ zeros 8 ++ padTo 64 [0x0E]
    gives (.mgmtDesc 9) (at_ (d 16)) (fun s => s.mgmtIn == [] && s.jobs == [{ src := .mgmt 0x11 5 5 2, desc := padTo 64 [0x0E] }]) = true ∧
    gives (.mgmtDesc 9) (at_ (d 15)) (fun s => answered s && s.jobs == []) = true)) := by decide +kernel
theorem test_register_write :
  gives (.registerWrite 9 2 0x1000 [] 0 0 true) ready (fun s => s.sent == [.value 2 0x1000 (BitVec.ofNat 32 (regRead 2 0x1000 ready).1)] && !(s.master 2).badAccess) = true ∧
  gives (.registerWrite 9 2 0x80001000 [] 0 0 true) ready (fun s => s.sent == [.nack] && (s.master 2).badAccess) = true ∧
  gives (.registerWrite 9 1 0x809100 (leBytes 4 20 ++ zeros 4) 0 0 true) ready (fun s => s.vent.windowUs == 20 && !(s.master 1).badAccess) = true ∧
  (let e : MsixEntry := { data := 5, masked := true, pending := true }
   let at_ : State := { ready with host := { aTrained := true, msix := [(2047, e)] } }
   gives (.registerWrite 9 1 (0x4000000C + 16 * 2047) (zeros 4) 0 0 true) at_ (fun s => tget {} s.host.msix 2047 == { data := 5 } && s.sent == [.msix 2047]) = true) ∧
  gives (.registerWrite 9 2 0x1000 [1] 0 0 true) ready (fun s => s.sent == [.nack] && (s.master 2).badAccess && (s.master 2).accCount == 1) = true ∧
  gives (.registerWrite 9 1 0x1002 (zeros 4) 0 0 true) ready (fun s => s == accessRefused 1 none (ready.tick 9)) = true ∧
  isNamed 67 0x7FFFFC = false ∧ gives (.registerWrite 9 1 (67 * 0x800000 + 0x7FFFFC) (zeros 4) 0 0 true) ready (fun s => s == { ready with now := 9 }) = true ∧
  gives (.registerWrite 9 1 (68 * 0x800000) (zeros 4) 0 0 true) ready (fun s => s == { ready with now := 9 }) = true ∧
  (let off : State := ready.modDie 67 (fun d => { d with released := false })
   off.reachable 67 = false ∧ gives (.registerWrite 9 1 (67 * 0x800000) (zeros 4) 0 0 true) off (fun s => s == accessRefused 1 (some 67) (off.tick 9)) = true) ∧
  ready.reachable 20 = true ∧ isNamed 20 0xE008 = true ∧ gives (.registerWrite 9 2 (2 ^ 31 + 20 * 0x800000 + 0xE008) (zeros 4) 0 0 true) ready (fun s => s == { ready.refuseWrite 2 with now := 9 }) = true ∧
  gives (.registerWrite 9 2 0x8000123C [1, 2, 3, 4] 0 0 true) ready (fun s => memRead 0 (s.master 2).mboxDesc 0x3C 4 == [1, 2, 3, 4] && s.jobs == []) = true ∧
  gives (.registerWrite 9 1 0x809100 (leBytes 4 9) 0 0 true) ready (fun s => s.vent.windowUs == 10) = true ∧
  gives (.registerWrite 9 1 0x809100 (leBytes 4 100001) 0 0 true) ready (fun s => s.vent.windowUs == 100000) = true ∧
  (let rb : State := { ready with tiles := [(15, { rebuild := true })] }
   rb.reachable 19 = true ∧ gives (.registerWrite 9 1 (19 * 0x800000 + 0x9300) (leBytes 4 2) 0 0 true) rb (fun s => s == { rb with now := 9 }) = true) := by decide +kernel

/-! ## Trust

What a signature, a wrapped key or an SPDM answer is, is opaque (log entry 128): the clauses that start from one have
no witness that evaluates. -/

theorem test_key_install :
  (let s0 := withJob 7 ([1, 0] ++ zeros 14 ++ leBytes 2 64) ready
   nextJob 7 0 s0 = true ∧ s0.trust.identityOk = false ∧
   s0.jobs.all (fun j => !j.readFails (zeros 64)) = true ∧ gives (.keyInstall 9 (zeros 64)) s0 (fun s => s.keys == s0.keys && s.trust == s0.trust && reports 0x80 s) = true ∧
   (let s1 : State := { s0 with trust := { s0.trust with identityOk := true, sessions := [{ id := 3, master := 1, key := 0, period := 0, lastAt := 0 }] } }
    nextJob 7 0 s1 = true ∧ (s1.trust.sessions.find? (fun x => x.id == fieldOf (leBytes 4 3) 0 4)).isSome = true ∧ s1.trust.debugOpen = false)) := by decide +kernel
theorem test_attest :
  (let s0 := withJob 12 (leBytes 8 0 ++ leBytes 4 8 ++ zeros 4 ++ leBytes 8 64 ++ leBytes 4 16) ready
   nextJob 12 0 s0 = true ∧ s0.jobs.all (fun j => !j.readFails (zeros 8)) = true ∧ gives (.attest 9 (zeros 8) false false) s0 (fun s => s.trust == s0.trust && (s.master 1).conn == [] && reports 0x82 s) = true) ∧
  (let at_ : State := { ready with trust := { ready.trust with sessions := [{ id := 3, master := 1, key := 0, period := 2, lastAt := 4 }] } }
   gives (.spdmHeartbeatExpiry 2000000004 3) at_ (fun s => s.trust.sessions == []) = true ∧
   gives (.spdmHeartbeatExpiry 2000000003 3) at_ (fun s => s.trust.sessions == at_.trust.sessions) = true) := by decide +kernel
theorem test_updates :
  (let at_ (u : IsUpd) : State := { ready with boot := { ready.boot with defaultCfg := true }, trust := { ready.trust with upd := u, staging := [(0, 7)] } }
   regionOf 0x11 = some (0x9000000, 0x1000000) ∧ (at_ {}).writeResult 0x11 true 4096 1 [7] = 1 ∧
   gives (.isUpdWrite 9 1 true 0x11 4096 1) (at_ {}) (fun s => s.trust.upd.go && s.trust.upd.pendingResult == 1 && s.is1.busy && tget 0xFF (s.flash true) 0x9001000 == 7 && s.flash false == ready.flash false) = true ∧
   gives (.isUpdWrite 9 1 true 0x11 1 1) (at_ {}) (fun s => s.trust.upd.go && s.trust.upd.pendingResult == 6 && s.flash true == ready.flash true) = true ∧
   ready.regionOk 0x12 false = false ∧ gives (.seal 9 1 false 0x12) (at_ {}) (fun s => s.trust.upd.pendingResult == 4 && s.is0.busy && tget 0xFF (s.flash false) 0x4000 == 0xFF) = true ∧
   (at_ {}).otherCopyOk 0x12 false = true ∧ gives (.erase 9 1 false 0x12) (at_ {}) (fun s => s.trust.upd.pendingResult == 1 && s.is0.busy) = true ∧
   ready.otherCopyOk 0x10 false = false ∧ gives (.erase 9 1 false 0x10) (at_ {}) (fun s => s.trust.upd.pendingResult == 3 && s.flash false == ready.flash false) = true ∧
   gives (.erase 9 1 false 0x12) (at_ { go := true }) (fun s => s == { at_ { go := true, result := 2 } with now := 9 }) = true ∧
   gives (.seal 9 2 false 0x12) (at_ {}) (fun s => s == { (at_ {}).refuseWrite 2 with now := 9 }) = true ∧
   gives (.isUpdComplete 9 false 5) { at_ { go := true, pendingResult := 1 } with is0 := { busy := true } } (fun s => !s.trust.upd.go && s.trust.upd.result == 4 && !s.is0.busy && s.is0.progErrors == 1) = true ∧
   gives (.isUpdComplete 9 false 5) (at_ { go := true, pendingResult := 1 }) (fun s => !s.trust.upd.go && s.trust.upd.result == 1 && s.is0.progErrors == 0) = true ∧
   gives (.isUpdComplete 9 true 5) (at_ { go := true, pendingResult := 1, copyB := true }) (fun s => !s.trust.upd.go && s.trust.upd.result == 1 && !s.is1.busy) = true ∧
   gives (.isUpdComplete 9 true 5) (at_ {}) (fun s => s == { at_ {} with now := 9 }) = true) := by decide +kernel
theorem test_debug :
  gives (.debugApply 9 2 false true) ready (fun s => s == { ready.refuseWrite 2 with now := 9 }) = true ∧
  (let halt : State := { ready with boot := { ready.boot with phase := .bootHalt } }
   gives (.debugApply 9 1 false false) halt (fun s => s == { halt with now := 9 }) = true ∧
   gives (.debugApply 9 0x10 false false) halt (fun s => s == { halt.refuseWrite 0x10 with now := 9 }) = true ∧
   gives (.debugApply 9 2 false true) halt (fun s => s.own == halt.own && s.masters == halt.masters) = true) := by decide +kernel

/-! ## Codes, ciphers and places

Expected values: FIPS 197 appendix C.3, the SP 800-38D vector of a zero key, FIPS 180-4 and RFC 4231 as published;
the place of an entry and the bytes of an IV by hand from 09 R263 and 04 R108. -/

/-- Bytes a, a + 1, … -/
def rising (a n : Nat) : List Byte := (List.range n).map (fun i => BitVec.ofNat 8 (a + i))

theorem test_aes_block :
  beNat (aesBlock (roundKeys (rising 0 32)) ((List.range 16).map (fun i => BitVec.ofNat 8 (17 * i)))) = 0x8ea2b7ca516745bfeafc49904b496089 := by decide +kernel
theorem test_gcm : beNat (gcmStream 0 (zeros 12) 16) = 0xcea7403d4d606b6e074ec5d3baf39d18 ∧
  beNat (gcmTag 0 (zeros 12) [] (beBytes 16 0xcea7403d4d606b6e074ec5d3baf39d18)) = 0xd0d1c8a799996bf0265b98b5d48ab919 ∧
  gcmIv 0x0EC4713A 5 0x01020304050607 = [0x3A, 0x71, 0xC4, 0x0E, 5, 1, 2, 3, 4, 5, 6, 7] := by decide +kernel
theorem test_sha384 : beNat (sha384 [0x61, 0x62, 0x63]) =
  0xcb00753f45a35e8bb5a03d699ac65007272c32ab0eded1631a8b605a43ff5bed8086072ba1e7cc2358baeca134c825a7 := by decide +kernel
theorem test_codes : entryPlace 2 5 1000 = (138, 7104) ∧ symCheck (padTo 64 [1]) ≠ zeros 4 ∧
  symCheck ((symStored (rising 5 64)).take 64) = (symStored (rising 5 64)).drop 64 := by decide +kernel

/-! ## What stands still -/

/-- The clock of die d, whose reference r is lost. -/
def clockless (d r : Nat) : State := { ready.modDie d (fun x => { x with clockBad := [r] }) with boot := { ready.boot with tdPll := true } }
theorem test_stands_still :
  State.reset.boot.row = .held ∧ gives (.leaseRenew 9 1) State.reset (fun s => s == { State.reset with now := 9 }) = true ∧
  (clockless 1 clkCref0).clkStopped dieTD = true ∧ gives (.leaseRenew 9 1) (clockless 1 clkCref0) (fun s => s == { clockless 1 clkCref0 with now := 9 }) = true ∧
  (clockless (dieTile 15) clkCref0).dieRuns (dieTile 15) = false ∧
  gives (.fabricSlot 9 15) (clockless (dieTile 15) clkCref0) (fun s => s == { clockless (dieTile 15) clkCref0 with now := 9 }) = true ∧
  (clockless (diePlane 7) clkCref0).dieRuns (diePlane 7) = false ∧
  gives (.planeSlot 9 7) (clockless (diePlane 7) clkCref0) (fun s => s == { clockless (diePlane 7) clkCref0 with now := 9 }) = true ∧
  (clockless (dieCaldera 7) clkCref1).dieRuns (dieCaldera 7) = false ∧
  gives (.fabricSlot 9 23) (clockless (dieCaldera 7) clkCref1) (fun s => s == { clockless (dieCaldera 7) clkCref1 with now := 9 }) = true := by decide +kernel

/-! ## The queue and the operands -/

theorem test_step : step { ready with pending := [.leaseRenew 9 1, .leaseLapsed 10] } = exec (.leaseRenew 9 1) { ready with pending := [.leaseLapsed 10] } ∧
  step ready = .next ready := by exact ⟨rfl, rfl⟩
theorem test_queue : [Instr.leaseRenew 9 1, .pwrOkFall 8 8].all (fun i => i.wf) = true ∧
  (match State.runSteps { ready with pending := [.leaseRenew 9 1, .pwrOkFall 8 1] } 2 with
   | .next s => s.pending == [] && s.now == 9
   | _ => false) = true := by decide +kernel
theorem test_ill_formed : (match exec (.pwrOkFall 9 9) ready with
  | .fault .illFormed => true
  | _ => false) = true := by decide +kernel
theorem test_not_owner : (let s0 : State := { withJob 14 [] ready with own := { owner := 2 } }
  s0.isOwner 1 = false ∧ gives (.nop 9) s0 (fun s => reports 0x71 s && s.own == s0.own) = true ∧
  (let safe : State := { withJob 14 [] (inSafe true false) with now := 3 }
   gives (.nop 9) safe (fun s => s == { safe with now := 9 }) = true)) := by decide +kernel
theorem test_invariants_hold : ready.pins.safeLow = ready.vent.inSafe ∧ ready.pins.vtSafe = ready.vent.inSafe ∧ isMaster ready.own.owner = true ∧
  (inSafe true false).pins.safeLow = true ∧ (inSafe true false).pins.vtSafe = true ∧ (inSafe true false).boot.phase = .safe := by decide +kernel

/-- An ill-formed command for each check of WellFormed. -/
def illFormed : List Instr :=
  [.pwrOkFall 0 0, .pwrOkFall 0 9, .imagesVerified 0 none (2 ^ 32) 0, .imagesVerified 0 none 0 (2 ^ 32), .diesReleased 0 [200],
   .dieRecordsVerified 0 [(200, [])], .memoryTrained 0 [32], .ownerClaim 0 3, .dieReset 0 3 0, .dieReset 0 1 256, .portGroupReset 0 1 256,
   .portReset 0 3 0 0, .portReset 0 1 256 0, .engineReset 0 1 0 512, .engineStop 0 64, .admissionStep 0 16 true, .clockCheckWindow 0 255 [] true,
   .clockCheckWindow 0 1 [28] false, .thermalSample 0 [(104, none)], .thermalSample 0 [(0, some 2048)], .portEnable 0 512, .signalDetect 0 512,
   .frameReceived 0 512 0 0 true (zeros 264) 0 0, .frameReceived 0 0 0 65536 true (zeros 264) 0 0, .frameReceived 0 0 0 0 true (zeros 263) 0 0,
   .ts1Received 0 512 (zeros 264) false 0 0 0, .ts2Received 0 0 (zeros 263) 0 0, .ts1Received 0 0 [] false 0 0 0, .cellReceived 0 512 (zeros 264) 0 ⟨0, false⟩, .cellReceived 0 0 (zeros 265) 0 ⟨0, false⟩, .cellReceived 0 0 (zeros 264) 0 ⟨1, false⟩,
   .moduleFailure 0 67 4, .lnCommit 0 3 0, .lnCommit 0 1 32, .prevDescriptorExpiry 0 256, .ptCommit 0 1 16, .fabricSlot 0 24, .planeSlot 0 8,
   .packetRelease 0 16 0 0 .none, .packetRelease 0 0 24 0 .none, .packetRelease 0 0 0 8 .none, .reassemblyTimeout 0 0 0 0 65536, .planeRetire 0 1 8,
   .poolRebuild 0 1 0 4, .creditFree 0 512 0, .creditFree 0 0 16, .fumarolePeriod 0 0 0, .fumarolePeriod 0 0 4, .hwmRead 0 1 0 3 0, .hwmRead 0 1 0 0 4,
   .hwmRead 0 1 0 1 32, .hwmRead 0 1 0 2 256, .contrib 0 8 0, .auditWrite 0 1024, .segmentProduce 0 1024 0 .none, .slotFree 0 0 (2 ^ 20), .creditSend 0 0 1023,
   .calderaDieLoss 0 8, .engineMapWrite 0 1 64 0, .engineMapWrite 0 1 0 (2 ^ 32), .signalApply 0 3072, .counterClear 0 1 64 0, .counterClear 0 1 0 (2 ^ 48),
   .ctrXlatWrite 0 1 256 0 0, .ctrXlatWrite 0 1 0 48 0, .ctrXlatWrite 0 1 0 0 65536, .fenceEvict 0 512 0 0, .fenceEvict 0 0 65536 0, .fenceEvict 0 0 0 8,
   .ftcCopyCompare 0 104 0, .ftcCopyCompare 0 0 65, .doorbellSnoop 0 (.inv 2048), .doorbellLineRead 0 0 [], .descriptorReadDone 0 16384 true [], .tailConfirm 0 0 (2 ^ 32),
   .memberFailed 0 16 0, .memberFailed 0 0 64, .memberFailed 0 255 8, .feedTimeout 0 4, .ringEnable 0 3 0 0, .ringEnable 0 1 16384 0, .ringEnable 0 1 0 (2 ^ 32),
   .ringDisable 0 1 16384, .handoverWrite 0 1 256, .registerWrite 0 0x10 0 [] 0 0 true, .registerWrite 0 1 (2 ^ 32) [] 0 0 true, .registerWrite 0 1 0 [] 0 4097 true, .registerWrite 0 1 0 [] (2 ^ 32) 0 true,
   .stickyClear 0 1 255 0, .ventInject 0 1 1 (2 ^ 64), .ventEnableWrite 0 1 1 true (2 ^ 32), .ventTimerExpiry 0 1 64, .isolationAck 0 104 0, .isolationTimeout 0 0 256,
   .vtSelf 0 255 0, .vtSelf 0 67 224, .vtSelf 0 1 512, .skimRead 0 255 0 0 .none true 0, .skimRead 0 67 1 0 .none true 0, .isUpdWrite 0 1 true 32 0 0, .isUpdWrite 0 1 true 0 (2 ^ 32) 0, .isUpdWrite 0 1 true 0 0 (2 ^ 21),
   .seal 0 1 true 32, .isUpdComplete 0 true (2 ^ 32)]

theorem test_ill_formed_refused : illFormed.all (fun i => !i.wf) = true := by decide +kernel

/-! ## Routes, ranks, creation and losses -/

/-- Packet 4 of arrived with a route entry and sets. -/
def routed (entry : W32) (sets : Tab RSet) (adapt : Bool) (q : Tab OutPort) : State :=
  let s := arrived (plainHdr 5 8) .pending 4
  { s with routing := { s.routing with routes := [(8, entry)], sets := sets }, tiles := [(0, { adaptEn := adapt })], out := q
           portCfg := [(0, { slices := 4 }), (40, { slices := 4 }), (41, { slices := 4 })]
           laneDies := [(2, { startMap := 0x303, enable := 0x303 })], ports := [(40, { state := .active }), (41, { state := .active })] }

def verdictOf (s : State) : Option (Verdict × List (Nat × BitVec 32)) :=
  (s.inPkt 4).map (fun p => (p.verdict, p.streams.map (fun x => (x.dst, x.mask))))

theorem test_routes :
  (let hops := arrived (mkHdr ([0x21, 0] ++ leBytes 2 5 ++ leBytes 2 7 ++ [2, 5] ++ zeros 8 ++ leBytes 2 8)) .pending 4
   gives (.ingressLookup 9 4 .none) hops (fun s => verdictOf s == some (.dropped 9, [])) = true) ∧
  (let dead : State := { arrived (plainHdr 5 8) .pending 4 with ports := [] }
   gives (.ingressLookup 9 4 .none) dead (fun s => verdictOf s == some (.dropped 10, [])) = true) ∧
  (let shut : State := { arrived (plainHdr 5 8) .pending 4 with portCfg := [(0, { slices := 4 })] }
   gives (.ingressLookup 9 4 .none) shut (fun s => verdictOf s == some (.dropped 11, [])) = true) ∧
  (let set : Tab RSet := [(3, { members := 0x30000000000, slice := 2, valid := true })]
   gives (.ingressLookup 9 4 .none) (routed 0x02000302 [] false []) (fun s => verdictOf s == some (.dropped 10, [])) = true ∧
   gives (.ingressLookup 9 4 .none) (routed 0x02000302 set false []) (fun s => verdictOf s == some (.sending, [(1, 0x100)]) || verdictOf s == some (.sending, [(1, 0x200)])) = true ∧
   gives (.ingressLookup 9 4 .none) (routed 0x02000302 set true []) (fun s => verdictOf s == some (.sending, [(1, 0x100)]) || verdictOf s == some (.sending, [(1, 0x200)])) = true) ∧
  gives (.ingressLookup 9 4 .none) { forAll with portCfg := [(0, { slices := 4 }), (40, { slices := 4 })] } (fun s => verdictOf s == some (.sending, [(1, 0x100)])) = true := by decide +kernel

theorem test_cell_ranks :
  (let g (r pair : Nat) (f : Option Nat) : Prog := { pkt := { qpkt { vc := BitVec.ofNat 3 (pair / 2) } [] true with sub := pair % 2 == 1, fq := f }, wire := zeros 600, cells := 3, sentCells := 1, rank := r }
   let two (a b : Prog) (e : Int) : State := { up1 { pairs := [(4, { granted := 1 }), (5, { granted := 1 })] } { prog := [a, b] } with fqRun := [(15 * 4096, { entitlement := e })] }
   (g 1 5 none).pkt.pair = 5 ∧ (g 1 4 none).pkt.pair = 4 ∧ (two (g 4 5 none) (g 2 4 none) 0).pairCredit 496 4 = true ∧
   gives (.cellOpportunity 9 496 .none) (two (g 4 5 none) (g 2 4 none) 0) (fun s => (s.outPort 496).prog.map (fun x => (x.rank, x.sentCells)) == [(4, 1), (2, 2)]) = true ∧
   gives (.cellOpportunity 9 496 .none) (two (g 1 5 none) (g 4 4 none) 0) (fun s => (s.outPort 496).prog.map (fun x => (x.rank, x.sentCells)) == [(1, 2), (4, 1)]) = true) ∧
  (let q (vc : BitVec 3) (n : Nat) : QPkt := { qpkt { vc := vc, payLen := BitVec.ofNat 15 n } [] true with payload := zeros n }
   let at_ (vc : BitVec 3) (n : Nat) (c : Int) : State := { up1 { pairs := [(2 * vc.toNat + 1, { granted := 9 })] } { queue := [q vc n], cap0 := c, cap7 := c, visit := 2, deficit := [(2, 99999)], sliceDeficit := [(vc.toNat * 256, 99999)] } with sched := [(496, { burst0 := 1, burst7 := 1 })] }
   (q 0 8).pair = 1 ∧ (at_ 0 8 0).counted 496 (q 0 8).hdr ≤ 99999 ∧
   gives (.cellOpportunity 9 496 .none) (at_ 0 8 0) (fun s => (s.outPort 496).prog == [] && (s.outPort 496).queue == [] && (s.outPort 496).cap0 == -4096) = true ∧
   gives (.cellOpportunity 9 496 .none) (at_ 0 600 0) (fun s => (s.outPort 496).prog.map (fun g => (g.rank, g.sentCells)) == [(1, 1)]) = true ∧
   gives (.cellOpportunity 9 496 .none) (at_ 7 600 0) (fun s => (s.outPort 496).prog.map (fun g => (g.rank, g.sentCells)) == [(2, 1)]) = true ∧
   gives (.cellOpportunity 9 496 .none) (at_ 2 600 0) (fun s => (s.outPort 496).prog.map (fun g => (g.rank, g.sentCells)) == [(4, 1)] && (s.outPort 496).cap0 == 0) = true ∧
   gives (.cellOpportunity 9 496 .none) (at_ 0 600 (-9000)) (fun s => (s.outPort 496).prog.map (fun g => (g.rank, g.sentCells)) == [(5, 1)] && (s.outPort 496).cap0 == -8936) = true) := by decide +kernel

theorem test_first_message :
  (let at_ (n : Nat) : State := { coll (grec 0 false) (gplan 60) none (msg 1) 40 (zeros 8) with invs := (List.range n).map (fun i => (896 + i, some { ginv .reduce with group := 9 })) }
   ((at_ 0).checkedMsg 7 4 1).map (fun m => (m.coll.group, rows47 (grec 0 false) (gplan 60) 0 m, (gplan 60).childOf m.hdr.src.toNat m.coll)) = some (7, none, some 0) ∧
   (at_ 1).findInv 7 5 = none ∧ (at_ 1).physEngine 63 = some 63 ∧ slotsFor (grec 0 false) (gplan 60) = 2 ∧
   gives (.contrib 9 7 4) (at_ 1) (fun s => (s.landed 7 4).isSome && (match s.inv 897 with
     | some v => v.group == 7 && v.step == 5 && v.state == .armed && !v.launched && v.count == some 2 && v.engines == [63] && v.reserving && v.reserved == 2 && v.createdAt == 9
     | none => false)) = true ∧
   gives (.contrib 9 7 4) (at_ 128) (fun s => (s.landed 7 4).isNone && s.invs == (at_ 128).invs && (s.group 7).invocLimit == 1) = true) := by decide +kernel

theorem test_losses_open :
  (let s0 := coll (grec 0 false) (gplan 60) (some (ginv .reduce)) (msg 1) 40 []
   (s0.runOf 1023).isSome = true ∧ (s0.engine 63).inService = true ∧ s0.logicalOf 63 = some 63 ∧ s0.spareFor 63 = none ∧
   gives (.engineLoss 9 63) s0 (fun s => invIs s (fun v => v.state == .abort && v.status == 0x22) && (s.group 7).suspended == some 0x22) = true ∧
   gives (.calderaDieLoss 9 7) s0 (fun s => invIs s (fun v => v.state == .abort && v.status == 0x22)) = true) := by decide +kernel

/-! ## Arithmetic

Expected values: 07 R197 to R217, worked out by hand or from the spec's examples. -/

theorem test_tephra :
  (List.range 4).foldl (fun x i => tephraRound 0 0 i x) (0, 0) = (0x05892F620B2FC44A, 0x81295357AB8C927A) ∧
  (List.range 1).foldl (fun x i => tephraRound 0 0 i x) (0, 0) = (0x9E3779B97F4A7C15, 0x9E3779B97F4A7C15) ∧
  tephra 0 0 0 0 0 0 = 0x86B282B9B6BC56C4 ∧ tephra 1 2 0x0120 5 7 0 = 0x16C5033F23D2A4F5 ∧
  fmtFp16.round true 0x23D2A4F5 false (2 ^ 321) 3 = some 0x3956 := by decide +kernel

/-- The example of 07 R205 in order A: 2^100, 1 and -2^100; and a truncated product, an overflow and specials. -/
theorem test_sums :
  (let add (vs : List Val) : Entry := vs.foldl (fun t v => (t.addVal v).1) {}
   let a := add [.fin false 128 93, .fin false 128 (-7), .fin true 128 93]
   a.promoted = true ∧ a.num = 2 ^ 320 ∧ a.settle opSum 1 = .value false (2 ^ 320) 1 ∧
   (add [.fin true 0 0]).settle opSum 1 = .value true 0 1 ∧ (add [.fin true 0 0, .fin false 0 0]).settle opSum 1 = .value false 0 1 ∧
   (({} : Entry).addVal (.fin true 5 (-321))).1.num = -2 ∧ (({} : Entry).addVal (.fin true 5 (-321))).2 = true ∧
   (add [.fin false 1 320]).opos = true ∧ (add [.fin false 1 (-321)]).num = 0 ∧
   (add [.inf true, .inf false]).settle opSum 1 = .nan ∧ (add [.inf true, .fin false 1 0]).settle opSum 1 = .inf true ∧
   product (.fin true 3 1) (.fin false 5 2) 4 = .fin true 15 7 ∧ product (.inf true) (.fin false 0 0) 0 = .nan) := by decide +kernel
theorem test_extremes :
  (let ext (m : Bool) (vs : List Val) : Entry := vs.foldl (fun t v => t.extreme m v) {}
   (ext true [.fin true 1 0, .fin true 0 3, .fin false 0 0]).settle opMax 1 = .value false 0 1 ∧
   (ext false [.fin false 0 0, .fin true 0 3]).settle opMin 1 = .value true 0 1 ∧
   (ext false [.fin false 1 4, .fin false 3 2]).num = 12 * 2 ^ 320 ∧ (ext true [.fin false 1 0, .nan]).settle opMax 1 = .nan ∧
   (ext true [.inf false, .fin false 1 0]).settle opMax 1 = .inf false) := by decide +kernel
theorem test_rounding :
  fmtE4m3.round false 0 false (17 * 2 ^ 318) 1 = some 0x48 ∧ fmtE4m3.decode 0x48 = .fin false 8 (-1) ∧
  fmtE4m3.round false 0 true (464 * 2 ^ 320) 1 = some 0xFE ∧ fmtE4m3.round false 0 true (464 * 2 ^ 320 + 1) 1 = none ∧
  fmtFp16.round false 0 false (65520 * 2 ^ 320 - 1) 1 = some 0x7BFF ∧ fmtFp16.round false 0 false (65520 * 2 ^ 320) 1 = none := by decide +kernel
theorem test_results :
  (encodeElem { code := 6, ovfInf := true, sr := false, op := 1 } (.ovf true) 0 {}).1 = 0xFF800000 ∧
  (encodeElem { code := 2, ovfInf := true, sr := false, op := 1 } (.ovf true) 0 {}).1 = 0x8000 ∧
  (let x : Run := { v := { ginv .reduce with segs := [(0, { entries := [{}, { win := -3, wbase := 1, live := true, seen := true, zeroPos := true }] })] }, r := { grec 0 false with etype := 4, op := 2 }, p := gplan 60 }
   ((x.entriesOf 0)[1]?).map (fun t => (t.seen, t.num)) = some (true, -6 * 2 ^ 320) ∧ etFmt 4 = some fmtFp16 ∧
   fieldOf (x.resultOf 0).1 2 2 = 0xC600 ∧ fieldOf (x.roundedOf 0).1 2 2 = 0xC600) ∧
  (let t : Entry := { win := 7, wbase := 199, live := true, seen := true, zeroPos := true }
   t.settle opSum 1 = .value false (7 * 2 ^ 519) 1 ∧ (t.xp64 opSum).1 = 0x0C70000000000007 ∧
   (({} : Entry).addWord opSum 6 (t.xp64 opSum).1 none).1.num = t.num) := by decide +kernel

/-! ## The rest -/

theorem test_boot_halt : (let halt : State := { ready with boot := { ready.boot with phase := .bootHalt } }
  halt.serves (.leaseRenew 9 1) = false ∧ gives (.leaseRenew 9 1) halt (fun s => s == { halt with now := 9 }) = true ∧
  gives (.registerWrite 9 1 0x40000000 (zeros 4) 0 0 true) halt (fun s => s == { halt with now := 9 }) = true ∧
  halt.serves (.ownerClaim 9 2) = true) := by decide +kernel
theorem test_reset_float :
  (let s0 : State := { State.reset with float := { State.reset.float with waiting := [{ change := .lane, up := false, die := 67, unit := 3, raisedAt := 0, past := true }] } }
   s0.boot.row = .held ∧ gives (.floatGrant 9) s0 (fun s => s.float.waiting == [] && (s.lane 499).enabled == (s0.lane 499).enabled) = true) := by decide +kernel
theorem test_lease_held :
  (let c : State := { ready with pending := [.leaseRenew 1000000000 1] }
   (c.tick 1000000000).leaseHeld = true ∧ gives (.leaseLapsed 1000000000) c (fun s => s == { c with now := 1000000000 }) = true) := by decide +kernel
theorem test_register_host :
  gives (.registerWrite 9 1 0x1002 [] 0 8 true) ready (fun s => s.sent == [.value 1 0x1006 0xFFFFFFFF, .value 1 0x1002 0xFFFFFFFF] && (s.master 1).badAccess) = true ∧
  gives (.registerWrite 9 1 0x1000 (zeros 4) 0 0 false) ready (fun s => s == accessRefused 1 none (ready.tick 9)) = true ∧
  gives (.registerWrite 9 1 0x1000 [] 0 8 true) ready (fun s => s.sent.length == 2 && !(s.master 1).badAccess) = true ∧
  gives (.registerWrite 9 1 0x1200 (List.replicate 8 1) 0 0 true) ready (fun s => memRead 0 (s.master 1).mboxDesc 0 8 == List.replicate 8 1) = true := by decide +kernel
theorem test_spdm :
  (let s0 : State := { withJob 12 (leBytes 8 0 ++ leBytes 4 4 ++ zeros 4 ++ leBytes 8 64 ++ leBytes 4 16) ready with trust := { ready.trust with identityOk := true } }
   let m (v c : Nat) : List Byte := [BitVec.ofNat 8 v, BitVec.ofNat 8 c, 0, 0]
   nextJob 12 0 s0 = true ∧ s0.jobs.all (fun j => !j.readFails (m 0x13 0xAA)) = true ∧
   gives (.attest 9 (m 0x13 0xAA) false false) s0 (fun s => s.trust == s0.trust && (s.master 1).conn == [m 0x13 0xAA, [0x13, 0x7F, 7, 0xAA]] && reports 0 s) = true ∧
   gives (.attest 9 (m 0x12 0xE1) false false) s0 (fun s => s.trust == s0.trust && (s.master 1).conn == [m 0x12 0xE1, [0x13, 0x7F, 0x41, 0]]) = true) := by decide +kernel
theorem test_not_owner_routes : (let s0 : State := { withJob 3 (routeBody 1 2 0 1 0) ready with own := { owner := 2 } }
  s0.isOwner 1 = false ∧ s0.jobs.all (fun j => s0.routeReady 1 j && jobIs 3 1 j) = true ∧
  gives (.writeEntries 9 []) s0 (fun s => reports 0x71 s && s.routing == s0.routing) = true) := by decide +kernel

end Sys2Proof.Tests
end

section
/-! SUPPORT. O21: the settings of a tile, and the port controls. What moves packets leaves every setting, every map and
what a port shows alone (State.SameButTraffic); a commit's candidate is the same from the same settings
(State.SameConfig); a port-group reset and the wiring comparison leave the wiring entries alone (State.SameWiring); and
a descriptor that is executed touches none of them beside what its operation does (State.Completes). -/

namespace Sys2Proof.Machine

/-! ## Tables -/

/-- What a property says of an entry, and keeps under the change, it says of the entry once the whole table is changed. -/
theorem tget_tmap_of {α : Type} [DecidableEq α] (P : α → Prop) (d : α) (f : Nat → α → α) (t : Tab α) (k : Nat)
    (h0 : P (tget d t k)) (hs : ∀ x, P x → P (f k x)) : P (tget d (tmap d f t) k) := by
  unfold tmap tupd
  generalize t.map Prod.fst = ks
  induction ks generalizing t with
  | nil => exact h0
  | cons j ks ih =>
    refine ih (tmod d t j (f j)) ?_
    rw [tget_tmod]
    split
    · next e => subst e; exact hs _ h0
    · exact h0

/-! ## What moves packets

Fences, buffers, staging, retries and the letters to the host change a good deal of the state, but none of the
settings, none of the maps, and of a port neither what LN_PORT_STATUS shows nor its wiring entry. One relation says so
for all of it. -/

/-- What a PT_COMMIT shows of a tile, with the hash seed: its pending writes, refused and the seed (04 R131, R133). -/
def Tile.shadow (x : Tile) : List (Nat × W32) × Bool × W32 := (x.pending, x.refused, x.seed)

/-- The wiring entry of a port: serial, partner port and mode (03 R100). -/
def Port.wiring (x : Port) : BitVec 64 × BitVec 16 × BitVec 2 := (x.wireSerial, x.wirePort, x.wireMode)

/-- What LN_PORT_STATUS shows of a port, that LINK_DOWN is being sent, and its wiring entry (03 R77, R98, R100). -/
def Port.link (x : Port) : LinkState × Reason × Bool × BitVec 64 × BitVec 16 × BitVec 2 :=
  (x.state, x.reason, x.linkDown, x.wiring)

/-- s' is s but for packets, lanes and what has been posted: in the tables of tiles and ports the pending writes,
the port status and the wiring entries are as they were. -/
structure State.SameButTraffic (s s' : State) : Prop where
  frame : s' = { s with host := s'.host, rings := s'.rings, sent := s'.sent, masters := s'.masters, tiles := s'.tiles
                        ports := s'.ports, out := s'.out, pktCnt := s'.pktCnt, fqRun := s'.fqRun, lanes := s'.lanes
                        inPkts := s'.inPkts, fabric := s'.fabric, recov := s'.recov, float := s'.float }
  shadow : ∀ k, (s'.tile k).shadow = (s.tile k).shadow
  link : ∀ q, (s'.port q).link = (s.port q).link

namespace State.SameButTraffic

variable {s t u : State}

theorem refl (s : State) : s.SameButTraffic s := ⟨rfl, fun _ => rfl, fun _ => rfl⟩

theorem trans (h : s.SameButTraffic t) (k : t.SameButTraffic u) : s.SameButTraffic u where
  frame := by rw [k.frame, h.frame]
  shadow i := (k.shadow i).trans (h.shadow i)
  link q := (k.link q).trans (h.link q)

/-- A change that leaves the tables of tiles and ports alone. -/
theorem of_frame (h : t = { s with host := t.host, rings := t.rings, sent := t.sent, masters := t.masters, out := t.out
                                   pktCnt := t.pktCnt, fqRun := t.fqRun, lanes := t.lanes, inPkts := t.inPkts
                                   fabric := t.fabric, recov := t.recov, float := t.float }) : s.SameButTraffic t where
  frame := by rw [h]
  shadow k := by rw [h]; rfl
  link q := by rw [h]; rfl

theorem of_posts (h : s.PostsOnly t) : s.SameButTraffic t := of_frame (by rw [h])

theorem modTile (s : State) (k : Nat) (f : Tile → Tile) (hf : ∀ x, (f x).shadow = x.shadow) :
    s.SameButTraffic (s.modTile k f) where
  frame := rfl
  shadow j := by
    rw [State.modTile_tile]
    split
    · next e => rw [hf, e]
    · rfl
  link _ := rfl

theorem modPort (s : State) (p : Nat) (f : Port → Port) (hf : ∀ x, (f x).link = x.link) :
    s.SameButTraffic (s.modPort p f) where
  frame := rfl
  shadow _ := rfl
  link q := by
    rw [State.modPort_port]
    split
    · next e => rw [hf, e]
    · rfl

/-- Two changes of a port that show alike. -/
theorem modPort_of (s : State) (p : Nat) (f g : Port → Port) (h : ∀ x, (g x).link = (f x).link) :
    (s.modPort p f).SameButTraffic (s.modPort p g) where
  frame := rfl
  shadow _ := rfl
  link q := by
    rw [State.modPort_port, State.modPort_port]
    split
    · exact h _
    · rfl

/-- Two changes of a port in turn show as one. -/
theorem modPort_comp (s : State) (p : Nat) (f g k : Port → Port) (h : ∀ x, (g (f x)).link = (k x).link) :
    (s.modPort p k).SameButTraffic ((s.modPort p f).modPort p g) where
  frame := rfl
  shadow _ := rfl
  link q := by
    by_cases e : q = p
    · simp only [State.modPort_port, e, if_true]
      exact h _
    · simp only [State.modPort_port, e, if_false]

/-- A change of a port's status acts alike on two states that traffic alone sets apart. -/
theorem modPort_congr (h : s.SameButTraffic t) (p : Nat) (f : Port → Port)
    (hf : ∀ x y, x.link = y.link → (f x).link = (f y).link) : (s.modPort p f).SameButTraffic (t.modPort p f) where
  frame := by unfold State.modPort; rw [h.frame]
  shadow k := h.shadow k
  link q := by
    rw [State.modPort_port, State.modPort_port]
    split
    · exact hf _ _ (h.link p)
    · exact h.link q

theorem ite_right {c : Prop} [Decidable c] (h : s.SameButTraffic t) : s.SameButTraffic (if c then s else t) := by
  split
  · exact refl s
  · exact h

theorem forEach {α : Type} (s : State) (l : List α) (f : State → α → State)
    (h : ∀ (x : State) a, x.SameButTraffic (f x a)) : s.SameButTraffic (s.forEach l f) :=
  forEach_ind (s.SameButTraffic ·) l f s (refl s) (fun x a _ hx => hx.trans (h x a))

theorem laneDies (h : s.SameButTraffic t) : t.laneDies = s.laneDies := by rw [h.frame]

theorem rstStatus (h : s.SameButTraffic t) : t.rstStatus = s.rstStatus := by rw [h.frame]

theorem jobs (h : s.SameButTraffic t) : t.jobs = s.jobs := by rw [h.frame]

theorem wiring (h : s.SameButTraffic t) (q : Nat) : (t.port q).wiring = (s.port q).wiring :=
  congrArg (fun x => x.2.2.2) (h.link q)

end State.SameButTraffic

open State (SameButTraffic)

/-! ### Buffers, queues and fences -/

theorem freeBuffer_traffic (k : Nat) (s : State) (b : Buf) : s.SameButTraffic (freeBuffer k s b) :=
  .modTile s k _ fun _ => rfl

theorem fenceStep_traffic (p : Nat) (s : State) (q : QPkt) : s.SameButTraffic (fenceStep p s q) := .of_frame rfl

theorem fqsEmptied_traffic (p : Nat) (s : State) : s.SameButTraffic (fqsEmptied p s) := .of_frame rfl

theorem modOutPort_traffic (s : State) (p : Nat) (f : OutPort → OutPort) : s.SameButTraffic (s.modOutPort p f) :=
  .of_frame rfl

theorem modFqr_traffic (s : State) (q : Nat) (f : FqRun → FqRun) : s.SameButTraffic (s.modFqr q f) := .of_frame rfl

theorem modLane_traffic (s : State) (l : Nat) (f : Lane → Lane) : s.SameButTraffic (s.modLane l f) := .of_frame rfl

theorem holdDrop_traffic (p : Nat) (s : State) (q : QPkt) : s.SameButTraffic (holdDrop p s q) :=
  (freeBuffer_traffic _ s _).trans (.of_frame rfl)

theorem joinQueue_traffic (p : Nat) (q : QPkt) (s : State) : s.SameButTraffic (joinQueue p q s) := by
  unfold joinQueue
  split
  · exact holdDrop_traffic p s q
  · exact modOutPort_traffic s p _

theorem passBroken_traffic (p : Nat) (q : QPkt) (s : State) : s.SameButTraffic (passBroken p q s) := by
  unfold passBroken
  refine .trans ?_ (joinQueue_traffic p _ _)
  refine .trans (.modTile s (tileOf p) (fun t => { t with fBroken := satInc t.fBroken }) fun _ => rfl) ?_
  refine .ite_right ?_
  refine .trans ?_ (.of_posts (event_posts _ _ _ _ _ _))
  exact .modPort _ p _ fun _ => rfl

theorem fenceFree_shadow (j src vc : Nat) (x : Tile) : (fenceFree j src vc x).shadow = x.shadow := by
  unfold fenceFree
  split <;> rfl

theorem fenceTest_traffic (p src vc fuel : Nat) (s : State) : s.SameButTraffic (fenceTest p src vc fuel s) := by
  induction fuel generalizing s with
  | zero => exact .refl s
  | succ n ih =>
    unfold fenceTest
    simp only []
    split
    · split
      · refine .trans ?_ (ih _)
        refine .trans ?_ (joinQueue_traffic p _ _)
        exact .modTile s _ _ fun _ => rfl
      · exact .refl s
    · exact .modTile s _ _ (fenceFree_shadow _ src vc)

theorem breakHeld_traffic (k : Nat) (s : State) (h : Nat × Nat × Nat × Nat × Nat × QPkt) :
    s.SameButTraffic (breakHeld k s h) := by
  unfold breakHeld
  refine .trans ?_ (fenceTest_traffic _ _ _ _ _)
  refine .trans ?_ (passBroken_traffic _ _ _)
  exact .modTile s k _ fun _ => rfl

theorem fenceDrop_traffic (p : Nat) (gone : Nat → Bool) (s : State) : s.SameButTraffic (fenceDrop p gone s) :=
  .trans (.forEach s _ _ fun x h => breakHeld_traffic _ x h) (.modTile _ _ _ fun _ => rfl)

/-! ### Staging and the loss of a link -/

theorem stageFrom_traffic (id fuel : Nat) (s : State) : s.SameButTraffic (stageFrom id fuel s) := by
  induction fuel generalizing s with
  | zero => exact .refl s
  | succ n ih =>
    unfold stageFrom
    split
    · exact .refl s
    · simp only []
      split
      · exact .refl s
      · exact .trans (.of_frame rfl) (ih _)

theorem restage_traffic (p : Nat) (s : State) : s.SameButTraffic (restage p s) :=
  .forEach s _ _ fun x id => stageFrom_traffic id 65 x

theorem nameHeld_traffic (id port pair : Nat) (users : List Nat) (s : State) :
    s.SameButTraffic (nameHeld id port pair users s) := .modPort s port _ fun _ => rfl

theorem dropPartial_traffic (p pair id : Nat) (s : State) : s.SameButTraffic (dropPartial p pair id s) := by
  unfold dropPartial
  exact .trans (.trans (.of_frame rfl) (nameHeld_traffic id p pair [] _)) (restage_traffic p _)

theorem discardLink_traffic (p : Nat) (s : State) : s.SameButTraffic (discardLink p s) := by
  unfold discardLink
  simp only []
  refine .trans ?_ (.modPort _ p _ fun _ => rfl)
  refine .trans ?_ (.forEach _ _ _ fun x e => dropPartial_traffic p e.1 e.2 x)
  refine .trans ?_ (.forEach _ _ _ fun x l => modLane_traffic x l _)
  refine .trans ?_ (fqsEmptied_traffic p _)
  refine .trans ?_ (modOutPort_traffic _ p _)
  exact .forEach s _ _ fun x g => (freeBuffer_traffic _ x _).trans (fenceStep_traffic p _ _)

/-- A port that loses its link shows the reason, and apart from that only traffic changes (03 R77, R92). -/
theorem linkLost_traffic (p : Nat) (r : Reason) (s : State) :
    (s.modPort p (fun x => { x with reason := r })).SameButTraffic (linkLost p r s) := by
  unfold linkLost
  refine .trans ?_ (fenceDrop_traffic p _ _)
  refine .trans ?_ (discardLink_traffic p _)
  refine .trans ?_ (.of_frame rfl)
  exact .modPort_of s p _ _ fun _ => rfl

theorem holdTimer_traffic (p : Nat) (s : State) : s.SameButTraffic (holdTimer p s) := by
  unfold holdTimer
  split <;> exact modOutPort_traffic s p _

/-- A port that enters a state shows it, and apart from that only traffic changes (03 R77, 04 R122). -/
theorem portEnter_traffic (p : Nat) (st : LinkState) (s : State) :
    (s.modPort p (fun x => { x with state := st })).SameButTraffic (portEnter p st s) := by
  refine .trans ?_ (holdTimer_traffic p _)
  exact .modPort_of s p _ _ fun _ => rfl

/-! ## Settings

What the registers of a tile's shadowed group hold once it is committed, with what the checks of R133 look at beside
them: the route state and the start maps. -/

/-- The two states hold the same settings, route state, start maps and hash seeds. -/
structure State.SameConfig (s s' : State) : Prop where
  portCfg : s'.portCfg = s.portCfg
  sched : s'.sched = s.sched
  fqCfg : s'.fqCfg = s.fqCfg
  hodPort : s'.hodPort = s.hodPort
  calSh : s'.calSh = s.calSh
  routing : s'.routing = s.routing
  startMap : ∀ n, (s'.laneDie n).startMap = (s.laneDie n).startMap
  seed : ∀ k, (s'.tile k).seed = (s.tile k).seed

namespace State.SameConfig

variable {s t u : State}

theorem refl (s : State) : s.SameConfig s := ⟨rfl, rfl, rfl, rfl, rfl, rfl, fun _ => rfl, fun _ => rfl⟩

theorem trans (h : s.SameConfig t) (k : t.SameConfig u) : s.SameConfig u where
  portCfg := k.portCfg.trans h.portCfg
  sched := k.sched.trans h.sched
  fqCfg := k.fqCfg.trans h.fqCfg
  hodPort := k.hodPort.trans h.hodPort
  calSh := k.calSh.trans h.calSh
  routing := k.routing.trans h.routing
  startMap n := (k.startMap n).trans (h.startMap n)
  seed i := (k.seed i).trans (h.seed i)

theorem of_traffic (h : s.SameButTraffic t) : s.SameConfig t where
  portCfg := by rw [h.frame]
  sched := by rw [h.frame]
  fqCfg := by rw [h.frame]
  hodPort := by rw [h.frame]
  calSh := by rw [h.frame]
  routing := by rw [h.frame]
  startMap n := by rw [h.frame]; rfl
  seed k := congrArg (fun x => x.2.2) (h.shadow k)

/-! ### What reads of the settings give -/

theorem cfg (h : s.SameConfig t) : t.cfg = s.cfg := by unfold State.cfg; rw [h.portCfg]

theorem schedOf (h : s.SameConfig t) : t.schedOf = s.schedOf := by unfold State.schedOf; rw [h.sched]

theorem fq (h : s.SameConfig t) : t.fq = s.fq := by unfold State.fq; rw [h.fqCfg]

theorem hodCfg (h : s.SameConfig t) : t.hodCfg = s.hodCfg := by unfold State.hodCfg; rw [h.hodPort]

theorem startsPort (h : s.SameConfig t) : t.startsPort = s.startsPort := by
  funext p
  simp only [State.startsPort, h.startMap]

theorem isTileShadow (h : s.SameConfig t) : t.isTileShadow = s.isTileShadow := by
  funext k off
  simp only [State.isTileShadow, h.startsPort]

theorem configBreach (h : s.SameConfig t) : t.configBreach = s.configBreach := by
  have e : t.slicesNaming = s.slicesNaming := by
    funext p
    unfold State.slicesNaming State.rset
    rw [h.routing]
  funext p c
  unfold State.configBreach
  rw [e]

theorem tilePorts (h : s.SameConfig t) : t.tilePorts = s.tilePorts := by
  unfold State.tilePorts
  rw [h.startsPort]

theorem tileFqs (h : s.SameConfig t) : t.tileFqs = s.tileFqs := by unfold State.tileFqs; rw [h.fqCfg]

theorem calOf (h : s.SameConfig t) : t.calOf = s.calOf := by unfold State.calOf; rw [h.calSh]

theorem isCalendar (h : s.SameConfig t) : t.isCalendar = s.isCalendar := by unfold State.isCalendar; rw [h.fq]

/-- The checks of R133 answer alike on the same settings. -/
theorem commitBreach (h : s.SameConfig t) : t.commitBreach = s.commitBreach := by
  unfold State.commitBreach
  rw [h.tilePorts, h.tileFqs, h.cfg, h.configBreach, h.startsPort, h.calOf, h.schedOf, h.isCalendar]

/-! ### Changes that act alike -/

theorem modTile (h : s.SameConfig t) (k : Nat) (f g : Tile → Tile)
    (hf : ∀ x y, y.seed = x.seed → (g y).seed = (f x).seed) : (s.modTile k f).SameConfig (t.modTile k g) :=
  ⟨h.portCfg, h.sched, h.fqCfg, h.hodPort, h.calSh, h.routing, h.startMap, fun j => by
    rw [State.modTile_tile, State.modTile_tile]
    split
    · exact hf _ _ (h.seed k)
    · exact h.seed j⟩

/-- A change of a tile that leaves its seed. -/
theorem modTile_seed (s : State) (k : Nat) (f : Tile → Tile) (hf : ∀ x, (f x).seed = x.seed) :
    s.SameConfig (s.modTile k f) :=
  ⟨rfl, rfl, rfl, rfl, rfl, rfl, fun _ => rfl, fun j => by
    rw [State.modTile_tile]
    split
    · next e => rw [hf, e]
    · rfl⟩

theorem modHodCfg (h : s.SameConfig t) (k : Nat) (f : HodPortCfg → HodPortCfg) :
    (s.modHodCfg k f).SameConfig (t.modHodCfg k f) :=
  ⟨h.portCfg, h.sched, h.fqCfg, by unfold State.modHodCfg; rw [h.hodPort], h.calSh, h.routing, h.startMap, h.seed⟩

theorem modCfg (h : s.SameConfig t) (k : Nat) (f : PortCfg → PortCfg) : (s.modCfg k f).SameConfig (t.modCfg k f) :=
  ⟨by unfold State.modCfg; rw [h.portCfg], h.sched, h.fqCfg, h.hodPort, h.calSh, h.routing, h.startMap, h.seed⟩

theorem modSchedOf (h : s.SameConfig t) (k : Nat) (f : SchedCfg → SchedCfg) :
    (s.modSchedOf k f).SameConfig (t.modSchedOf k f) :=
  ⟨h.portCfg, by unfold State.modSchedOf; rw [h.sched], h.fqCfg, h.hodPort, h.calSh, h.routing, h.startMap, h.seed⟩

theorem modFq (h : s.SameConfig t) (k : Nat) (f : FqCfg → FqCfg) : (s.modFq k f).SameConfig (t.modFq k f) :=
  ⟨h.portCfg, h.sched, by unfold State.modFq; rw [h.fqCfg], h.hodPort, h.calSh, h.routing, h.startMap, h.seed⟩

theorem ite_both {c : Prop} [Decidable c] {a b : State} (h : s.SameConfig t) (k : a.SameConfig b) :
    (if c then s else a).SameConfig (if c then t else b) := by
  split
  · exact h
  · exact k

/-- A word of the shadow copy is applied alike on the same settings, register by register (04 R131, R132). -/
theorem tileShadowWrite (h : s.SameConfig t) (k : Nat) (w : Nat × W32) :
    (tileShadowWrite k s w).SameConfig (tileShadowWrite k t w) := by
  unfold Machine.tileShadowWrite
  refine .ite_both (h.modTile k _ _ fun _ _ _ => rfl) ?_
  refine .ite_both (h.modTile k _ _ fun _ _ e => e) ?_
  refine .ite_both (h.modTile k _ _ fun _ _ e => e) ?_
  refine .ite_both (h.modTile k _ _ fun _ _ e => e) ?_
  refine .ite_both (h.modHodCfg _ _) ?_
  refine .ite_both (h.modHodCfg _ _) ?_
  refine .ite_both (h.modCfg _ _) ?_
  refine .ite_both (h.modSchedOf _ _) ?_
  refine .ite_both (h.modFq _ _) ?_
  exact ⟨h.portCfg, h.sched, h.fqCfg, h.hodPort, by rw [h.calSh], h.routing, h.startMap, h.seed⟩

/-- The candidate of a commit is the same from the same settings. -/
theorem shadowOf (h : s.SameConfig t) (k : Nat) (ws : List (Nat × W32)) :
    (s.shadowOf k ws).SameConfig (t.shadowOf k ws) := by
  unfold State.shadowOf
  induction ws generalizing s t with
  | nil => exact h
  | cons w ws ih => exact ih (h.tileShadowWrite k w)

end State.SameConfig

open State (SameConfig)

/-! ## Commits -/

/-- The effects of a commit change traffic only (06 R171, R175, R177, R182, 10 R316). -/
theorem commitEffects_traffic (old : State) (k : Nat) (pend : List (Nat × W32)) (s : State) :
    s.SameButTraffic (commitEffects old k pend s) := by
  unfold commitEffects
  simp only []
  refine .trans ?_ (.forEach _ _ _ fun x p => ?fences)
  case fences =>
    split
    · exact fenceDrop_traffic p _ x
    · exact .refl x
  refine .trans ?_ (.forEach _ _ _ fun x p => modOutPort_traffic x p _)
  refine .trans ?_ (.forEach _ _ _ fun x o => ?caps)
  case caps =>
    split
    · exact modOutPort_traffic x _ _
    · exact .refl x
  refine .trans ?_ (.forEach _ _ _ fun x q => modFqr_traffic x q _)
  refine .trans ?_ (.forEach _ _ _ fun x q => modFqr_traffic x q _)
  exact .forEach _ _ _ fun x q => (modFqr_traffic x q _).trans (modOutPort_traffic _ _ _)

theorem commitTook_config (k n : Nat) (s : State) : s.SameConfig (commitTook k n s) :=
  ⟨rfl, rfl, rfl, rfl, rfl, rfl, fun _ => rfl, fun _ => rfl⟩

/-- A commit that waits is carried out in its turn (R120). -/
theorem ordered_of_commit {j : Job} {m k n : Nat} (h : j.src = .commit m k n) : j.ordered = true := by
  simp [Job.ordered, h]

/-- Where no commit waits, none is left with less to take. -/
theorem commitTook_alone (k n : Nat) {s : State} (h : ∀ j ∈ s.jobs, j.ordered = false) : commitTook k n s = s := by
  have e : (commitTook k n s).jobs = s.jobs := by
    refine (List.map_congr_left (g := id) fun j hj => ?_).trans (List.map_id _)
    simp only [id_eq]
    split
    · next hc => exact absurd ((ordered_of_commit hc).symm.trans (h j hj)) (by decide)
    · rfl
  unfold commitTook at e ⊢
  simp only at e
  rw [e]

/-- A word of the shadow copy touches neither the descriptors in hand nor the route state. -/
theorem tileShadowWrite_frame (k : Nat) (s : State) (w : Nat × W32) :
    (tileShadowWrite k s w).jobs = s.jobs ∧ (tileShadowWrite k s w).routing = s.routing := by
  unfold tileShadowWrite
  iterate 9
    refine iteInduction (motive := fun x : State => x.jobs = s.jobs ∧ x.routing = s.routing)
      (fun _ => ⟨rfl, rfl⟩) fun _ => ?_
  exact ⟨rfl, rfl⟩

theorem shadowOf_frame (k : Nat) (ws : List (Nat × W32)) (s : State) :
    (s.shadowOf k ws).jobs = s.jobs ∧ (s.shadowOf k ws).routing = s.routing :=
  forEach_ind (fun x => x.jobs = s.jobs ∧ x.routing = s.routing) ws _ s ⟨rfl, rfl⟩ fun x w _ h =>
    ⟨(tileShadowWrite_frame k x w).1.trans h.1, (tileShadowWrite_frame k x w).2.trans h.2⟩

/-- A commit whose candidate breaks a check changes no setting and shows the breach (R133). -/
theorem commitOf_refused {k : Nat} {pend : List (Nat × W32)} {s : State} {b : Byte × Nat}
    (h : (s.shadowOf k pend).commitBreach k = some b) (kept : List (Nat × W32)) :
    ∃ x, commitOf k pend kept s = (some b, x) ∧ s.SameConfig x ∧ (x.tile k).pending = kept ∧
      (x.tile k).refused = true ∧ (x.tile k).detail = BitVec.ofNat 8 b.2 ∧ x.out = s.out ∧ x.sent = s.sent ∧
      x.jobs = (commitTook k pend.length s).jobs := by
  have e : ((commitTook k pend.length s).shadowOf k pend).commitBreach k = some b := by
    rw [((commitTook_config k pend.length s).shadowOf k pend).commitBreach, h]
  refine ⟨(commitTook k pend.length s).modTile k
    (fun x => { x with pending := kept, refused := true, detail := BitVec.ofNat 8 b.2 }),
    by unfold commitOf; simp only [e], ?_, ?_, ?_, ?_, rfl, rfl, rfl⟩
  · exact .trans (commitTook_config k pend.length s) (.modTile_seed _ k _ fun _ => rfl)
  all_goals rw [State.modTile_tile, if_pos rfl]

/-- A commit whose candidate breaks no check puts the candidate's settings in force (R133). -/
theorem commitOf_applied {k : Nat} {pend : List (Nat × W32)} {s : State}
    (h : (s.shadowOf k pend).commitBreach k = none) (kept : List (Nat × W32)) :
    ∃ x, commitOf k pend kept s = (none, x) ∧ (s.shadowOf k pend).SameConfig x ∧ (x.tile k).pending = kept ∧
      (x.tile k).refused = false ∧ x.jobs = (commitTook k pend.length s).jobs := by
  have hc := (commitTook_config k pend.length s).shadowOf k pend
  have e : ((commitTook k pend.length s).shadowOf k pend).commitBreach k = none := by rw [hc.commitBreach, h]
  have he := commitEffects_traffic (commitTook k pend.length s) k pend
    (((commitTook k pend.length s).shadowOf k pend).modTile k (fun x => { x with pending := kept, refused := false }))
  have hs : (_, _, _) = (_, _, _) := he.shadow k
  simp only [State.modTile_tile, if_true, Prod.mk.injEq] at hs
  obtain ⟨hp, hr, -⟩ := hs
  refine ⟨_, by unfold commitOf; simp only [e], ?_, hp, hr, ?_⟩
  · refine hc.trans (.trans ?_ (.of_traffic he))
    exact .modTile_seed _ k _ fun _ => rfl
  · exact he.jobs.trans ((shadowOf_frame k pend _).1)

/-! ## PT_COMMIT -/

theorem pendSplit_eq {α : Type} (now : Nat) (a : Nat × Nat) (ws : List α) :
    pendSplit now a ws = (ws.take (ws.length - pendKept now a), ws.drop (ws.length - pendKept now a)) := rfl

/-- Behind no cycle of its own a commit takes every pending write. -/
theorem pendSplit_all {α : Type} (now : Nat) (ws : List α) : pendSplit now (0, 0) ws = (ws, []) := by
  simp [pendSplit, pendKept]

/-- The time and the queue are no settings. -/
theorem clocked_config (s : State) (q : List Instr) (t : Nat) : s.SameConfig { s with pending := q, now := t } :=
  ⟨rfl, rfl, rfl, rfl, rfl, rfl, fun _ => rfl, fun _ => rfl⟩

theorem tick_config (s : State) (t : Nat) : s.SameConfig (s.tick t) :=
  clocked_config s _ _

/-- PT_COMMIT on a tile that its master reaches, out of reset. -/
theorem ptCommit_served {t m k : Nat} {s : State} {P : State → Prop} (hm : isMaster m = true) (hk : k < 16)
    (hr : s.reachable (dieTile k) = true)
    (hp : P { ptCommitWrite m k (s.tick t) with pending := s.pending, now := max s.now t }) :
    Served (.ptCommit t m k) s P := by
  intro hs
  refine runs_run (ok := isMaster m && decide (k < 16)) rfl (by simp [hm, hk]) ?_
  rw [accessDie_reachable (s := s.tick t) hs hr]
  exact hp

/-- The owner's commit behind an ordered operation joins the list of those in hand. -/
theorem ptCommitWrite_waits {m : Nat} {s : State} (ho : s.isOwner m = true) (hj : s.jobs.any Job.ordered = true)
    (k : Nat) : ptCommitWrite m k s = { s with jobs := s.jobs ++ [{
      src := .commit m k (pendSplit s.now (s.tile k).pendAt (s.tile k).pending).1.length, desc := [] }] } := by
  rw [ptCommitWrite, ownerWrite_owner ho, if_pos hj]

/-- The owner's commit that nothing precedes is carried out at once. -/
theorem ptCommitWrite_now {m : Nat} {s : State} (ho : s.isOwner m = true) (hj : s.jobs.any Job.ordered = false)
    (k : Nat) : ptCommitWrite m k s = (ptCommit k s).2 := by
  rw [ptCommitWrite, ownerWrite_owner ho, hj]
  rfl

/-- What PT_COMMIT by the owner does: it waits its turn, or it applies every write of earlier cycles, or none. -/
theorem ptCommit_clauses (t m tile : Nat) (s : State) (hm : isMaster m = true) (hk : tile < 16)
    (ho : s.isOwner m = true) (hr : s.reachable (4 + tile) = true) :
    let n := (s.tile tile).pending.length - pendKept (max s.now t) (s.tile tile).pendAt
    let c := s.shadowOf tile ((s.tile tile).pending.take n)
    let kept := (s.tile tile).pending.drop n
    (s.jobs.any Job.ordered = true → Served (.ptCommit t m tile) s (fun s' =>
      s' = { s with now := max s.now t, jobs := s.jobs ++ [{ src := .commit m tile n, desc := [] }] })) ∧
    (s.jobs.any Job.ordered = false → c.commitBreach tile = none → Served (.ptCommit t m tile) s (fun s' =>
      (s'.tile tile).pending = kept ∧ (s'.tile tile).refused = false ∧ c.SameConfig s')) ∧
    (∀ b, s.jobs.any Job.ordered = false → c.commitBreach tile = some b → Served (.ptCommit t m tile) s (fun s' =>
      (s'.tile tile).pending = kept ∧ (s'.tile tile).refused = true ∧ (s'.tile tile).detail = BitVec.ofNat 8 b.2 ∧
      s.SameConfig s' ∧ s'.out = s.out ∧ s'.sent = s.sent)) := by
  intro n c kept
  have hc : c.SameConfig ((s.tick t).shadowOf tile ((s.tile tile).pending.take n)) := (tick_config s t).shadowOf tile _
  refine ⟨fun hj => ptCommit_served hm hk hr ?_, fun hj hb => ptCommit_served hm hk hr ?_,
    fun b hj hb => ptCommit_served hm hk hr ?_⟩
  · have hn : (pendSplit (s.tick t).now ((s.tick t).tile tile).pendAt ((s.tick t).tile tile).pending).1.length = n := by
      rw [pendSplit_eq, List.length_take]
      exact Nat.min_eq_left (Nat.sub_le _ _)
    rw [ptCommitWrite_waits (s := s.tick t) ho hj, hn]
    rfl
  · obtain ⟨x, hx, hcx, hp, hf, -⟩ := commitOf_applied (hc.commitBreach ▸ hb) kept
    rw [ptCommitWrite_now (s := s.tick t) ho hj, show ptCommit tile (s.tick t) = (none, x) from hx]
    exact ⟨hp, hf, hc.trans (hcx.trans (clocked_config x _ _))⟩
  · obtain ⟨x, hx, hcx, hp, hf, hd, hout, hsent, -⟩ := commitOf_refused (hc.commitBreach ▸ hb) kept
    rw [ptCommitWrite_now (s := s.tick t) ho hj, show ptCommit tile (s.tick t) = (some b, x) from hx]
    exact ⟨hp, hf, hd, (tick_config s t).trans (hcx.trans (clocked_config x _ _)), hout, hsent⟩

/-! ## Descriptors

The next descriptor is executed in a cycle of its own (00 R9), and its completion touches no setting. -/

/-- The state in which the descriptor in front of js is executed at time t. -/
def State.starting (s : State) (t : Nat) (js : List Job) : State := ({ s.tick t with jobs := js } : State).newCycle

/-- A later cycle touches of a tile its count of the cycle's writes and its earlier marks alone. -/
theorem newCycle_tile (s : State) (k : Nat) :
    (s.newCycle.tile k).pending = (s.tile k).pending ∧ (s.newCycle.tile k).seed = (s.tile k).seed :=
  tget_tmap_of (fun x : Tile => x.pending = (s.tile k).pending ∧ x.seed = (s.tile k).seed) _ _ _ k ⟨rfl, rfl⟩ fun _ h => h

/-- A later cycle touches of a lane die its count of the cycle's writes alone. -/
theorem newCycle_laneDie (s : State) (k : Nat) :
    (s.newCycle.laneDie k).pending = (s.laneDie k).pending ∧ (s.newCycle.laneDie k).startMap = (s.laneDie k).startMap ∧
      (s.newCycle.laneDie k).enable = (s.laneDie k).enable :=
  tget_tmap_of (fun x : LaneDie => x.pending = (s.laneDie k).pending ∧ x.startMap = (s.laneDie k).startMap ∧
    x.enable = (s.laneDie k).enable) _ _ _ k ⟨rfl, rfl, rfl⟩ fun _ h => h

theorem starting_config (s : State) (t : Nat) (js : List Job) : s.SameConfig (s.starting t js) :=
  ⟨rfl, rfl, rfl, rfl, rfl, rfl, fun n => (newCycle_laneDie _ n).2.1, fun k => (newCycle_tile _ k).2⟩

theorem starting_pending (s : State) (t : Nat) (js : List Job) (k : Nat) :
    ((s.starting t js).tile k).pending = (s.tile k).pending := (newCycle_tile _ k).1

/-- The kind and operation that a command looks for, where it takes every operation of a kind (0) or this one. -/
theorem jobIs_of {k op o : Nat} {j : Job} (h : jobIs k op j = true) (ho : o = 0 ∨ o = op) : jobIs k o j = true := by
  unfold jobIs at h ⊢
  obtain rfl | rfl := ho <;> simp_all

/-- The next descriptor is executed, and completes as its operation answers (12 R364, R365, R367). -/
theorem runJob_next {s x : State} {k op o : Nat} {j : Job} {js : List Job} (h : s.NextJob k op j js)
    (ho : o = 0 ∨ o = op) (t : Nat) {f : Job → State → Byte × Nat × List Byte × State} {st : Byte} {d : Nat} {res : List Byte}
    (hf : f j (s.starting t js) = (st, d, res, x)) :
    (s.tick t).runJob k o f = x.complete j.src j.desc st d res := by
  obtain ⟨hclk, hsafe, hjobs, hj, hst, hown⟩ := h
  have hclk' : (s.tick t).clkStopped dieTD = false := hclk
  have hsafe' : (s.tick t).vent.inSafe = false := hsafe
  have hown' : (s.starting t js).isOwner (jobMaster j.src) = true := hown
  have htake : takeJobFrom (fun j => jobIs k o j && !j.started && true) [] (s.tick t).jobs = some (j, js) := by
    rw [show (s.tick t).jobs = j :: js from hjobs]
    exact takeJobFrom_first _ j js (by simp [jobIs_of hj ho, hst])
  unfold State.starting at hown' hf
  simp only [State.runJob, State.runJobIf, hclk', hsafe', Bool.or_self, Bool.false_eq_true, if_false, htake, hown', hf,
    Bool.not_true, Bool.false_and]

/-- As runJob_next, for a descriptor whose data the host returned (12 R360). -/
theorem runBody_next {s x : State} {k op o : Nat} {j : Job} {js : List Job} (h : s.NextJob k op j js)
    (ho : o = 0 ∨ o = op) (t : Nat) {host : List Byte} (hr : j.readFails host = false) {f : Job → State → Byte × Nat × List Byte × State}
    {st : Byte} {d : Nat} {res : List Byte} (hf : f j (s.starting t js) = (st, d, res, x)) :
    (s.tick t).runBody k o host f = x.complete j.src j.desc st d res := by
  refine runJob_next h ho t ?_
  simp only [hr, Bool.false_eq_true, if_false, hf]

theorem completionBytes_head (st : Byte) (kind detail ring tag slot sqHead ftc : Nat) (res : List Byte) :
    ∃ rest, completionBytes st kind detail ring tag slot sqHead ftc res = 0xC0 :: 1 :: st :: rest := ⟨_, rfl⟩

/-- A completion leaves its status in the mailbox that the descriptor came through, and frees it (12 R367, R375). -/
theorem complete_reports (s : State) (j : Job) (st : Byte) (d : Nat) (res : List Byte) :
    j.Reports st (s.complete j.src j.desc st d res) := by
  intro m hm
  rw [hm, State.complete, State.modMaster_master, if_pos rfl]
  obtain ⟨rest, hb⟩ := completionBytes_head st (descKind j.desc) d 0x3FFF (fieldOf j.desc 4 4) 0 0 s.ftcNow res
  rw [hb]
  exact ⟨rfl, tget_memWrite_inside 0 _ 0 2 (0xC0 :: 1 :: st :: rest) (by simp)⟩

/-- y is x but for what a completion posts, the queue and the time. -/
def State.Completes (x y : State) : Prop :=
  y = { x with pending := y.pending, now := y.now, host := y.host, rings := y.rings, sent := y.sent, masters := y.masters
               calderas := y.calderas, fabric := y.fabric, nextId := y.nextId }

theorem completes_of_answers {x z : State} (h : x.AnswersOnly z) (q : List Instr) (t : Nat) :
    x.Completes { z with pending := q, now := t } := by
  unfold State.Completes
  rw [h]

theorem completes_config {x y : State} (h : x.Completes y) : x.SameConfig y := by
  rw [h]
  exact ⟨rfl, rfl, rfl, rfl, rfl, rfl, fun _ => rfl, fun _ => rfl⟩

/-- A completion touches no tile, no port, no lane die and no reset status. -/
theorem completes_entries {x y : State} (h : x.Completes y) (k : Nat) :
    y.tile k = x.tile k ∧ y.port k = x.port k ∧ y.laneDie k = x.laneDie k ∧ y.rstStatus = x.rstStatus := by
  rw [h]
  exact ⟨rfl, rfl, rfl, rfl⟩

/-- What a command that executes a descriptor answers, out of reset: its completion is reported, and beside it the
state is what the operation left. -/
theorem runs_completed {i : Instr} {s x : State} {t : Nat} {f : State → State} {j : Job} {st : Byte} {d : Nat}
    {res : List Byte} {P : State → Prop} (e : exec i s = run true t f s)
    (hf : f (s.tick t) = x.complete j.src j.desc st d res)
    (hp : ∀ y, x.Completes y → j.Reports st y → P y) :
    Runs i s P := by
  refine runs_run e rfl ?_
  rw [hf]
  exact hp _ (completes_of_answers (complete_answers _ _ _ _ _ _) _ _) (complete_reports x j st d res)

/-! ### Descriptors behind which a commit may wait -/

theorem nextCommit_none {js : List Job} (h : ∀ j ∈ js, j.ordered = false) (ahead : List Job) :
    nextCommit ahead js = none := by
  induction js generalizing ahead with
  | nil => rfl
  | cons j js ih =>
    obtain ⟨hj, hjs⟩ := List.forall_mem_cons.mp h
    unfold nextCommit
    split
    · next hc => exact absurd ((ordered_of_commit hc).symm.trans hj) (by decide)
    · rw [hj]
      exact ih hjs _

theorem drainCommits_alone {s : State} (h : ∀ j ∈ s.jobs, j.ordered = false) (n : Nat) : drainCommits n s = s := by
  cases n with
  | zero => rfl
  | succ n => rw [drainCommits, nextCommit_none h]

/-- Where no commit waits behind it an ordered operation is all that happens (04 R120). -/
theorem inOrder_alone {f : State → State} {s : State} (h : ∀ j ∈ (f s).jobs, j.ordered = false) : inOrder f s = f s :=
  drainCommits_alone h _

/-! ### Images that are committed as they arrive -/

/-- An image joins the pending writes, and none of those is held to be of the present cycle. -/
theorem stageImage_pendAt (k off : Nat) (data : List Byte) (s : State) :
    ((stageImage k off data s).tile k).pendAt = (0, 0) := by
  rw [stageImage, State.modTile_tile, if_pos rfl]

theorem stageImage_config (k off : Nat) (data : List Byte) (s : State) : s.SameConfig (stageImage k off data s) :=
  .modTile_seed s k _ fun _ => rfl

/-- An image is staged alike on the same settings and pending writes. -/
theorem stageImage_congr {s t : State} (h : s.SameConfig t) (k off : Nat) (data : List Byte)
    (hp : (t.tile k).pending = (s.tile k).pending) :
    (stageImage k off data s).SameConfig (stageImage k off data t) ∧
      ((stageImage k off data t).tile k).pending = ((stageImage k off data s).tile k).pending := by
  refine ⟨h.modTile k _ _ fun _ _ e => e, ?_⟩
  simp only [stageImage, State.modTile_tile, if_true, h.isTileShadow, hp]

/-- PT_COMMIT by a descriptor, once its image is staged: every pending write is taken, and applied or refused with the
status of the breach (12 R366). -/
theorem commitAnswer_cases {s t : State} (h : s.SameConfig t) (k off : Nat) (data : List Byte)
    (hp : (t.tile k).pending = (s.tile k).pending) (hj : ∀ j ∈ t.jobs, j.ordered = false) :
    let c := (stageImage k off data s).shadowTile k
    (c.commitBreach k = none → ∃ x, commitAnswer k (stageImage k off data t) = (0x00, 0, [], x) ∧ c.SameConfig x ∧
      (x.tile k).pending = [] ∧ x.jobs = t.jobs) ∧
    (∀ b, c.commitBreach k = some b → ∃ x, commitAnswer k (stageImage k off data t) = (b.1, b.2, [], x) ∧
      s.SameConfig x ∧ (x.tile k).pending = [] ∧ x.jobs = t.jobs) := by
  intro c
  obtain ⟨hst, hpend⟩ := stageImage_congr h k off data hp
  have hsplit : ptCommit k (stageImage k off data t) =
      commitOf k ((stageImage k off data s).tile k).pending [] (stageImage k off data t) := by
    rw [ptCommit, stageImage_pendAt, pendSplit_all, hpend]
  have hc : c.SameConfig ((stageImage k off data t).shadowOf k ((stageImage k off data s).tile k).pending) :=
    hst.shadowOf k _
  have hjobs : ∀ n, (commitTook k n (stageImage k off data t)).jobs = t.jobs := fun n =>
    (congrArg State.jobs (commitTook_alone k n (s := stageImage k off data t) hj)).trans rfl
  refine ⟨fun hb => ?_, fun b hb => ?_⟩
  · obtain ⟨x, hx, hcx, hpx, -, hjx⟩ := commitOf_applied (hc.commitBreach ▸ hb) []
    exact ⟨x, by rw [commitAnswer, hsplit, hx]; rfl, hc.trans hcx, hpx, hjx.trans (hjobs _)⟩
  · obtain ⟨x, hx, hcx, hpx, -, -, -, -, hjx⟩ := commitOf_refused (hc.commitBreach ▸ hb) []
    exact ⟨x, by rw [commitAnswer, hsplit, hx], h.trans ((stageImage_config k off data t).trans hcx), hpx,
      hjx.trans (hjobs _)⟩

section Committing

variable {i : Instr} {s : State} {t kind op o : Nat} {host : List Byte} {j : Job} {js : List Job}
  {f : Job → State → Byte × Nat × List Byte × State}

/-- What a descriptor of an ordered kind answers where no commit waits behind it. -/
theorem runs_ordered {x : State} {st : Byte} {d : Nat} {res : List Byte} {P : State → Prop}
    (e : exec i s = run true t (inOrder (fun s => s.runBody kind o host f)) s) (hr : j.readFails host = false)
    (hjs : ∀ k ∈ js, k.ordered = false) (hn : s.NextJob kind op j js)
    (ho : o = 0 ∨ o = op)
    (hf : f j (s.starting t js) = (st, d, res, x)) (hx : x.jobs = js)
    (hp : ∀ y, x.Completes y → j.Reports st y → P y) : Runs i s P := by
  have hb := runBody_next hn ho t hr hf
  have hz : (x.complete j.src j.desc st d res).jobs = js := by rw [complete_answers, hx]
  refine runs_completed (d := d) (res := res) e ?_ hp
  rw [inOrder_alone (f := fun s => s.runBody kind o host f) (by rw [hb, hz]; exact hjs), hb]

/-- A descriptor that stages an image and commits it: the candidate's settings are in force with OK, or every setting
stays and the status is that of the breach. -/
theorem runs_commit (e : exec i s = run true t (inOrder (fun s => s.runBody kind o host f)) s)
    (hr : j.readFails host = false) (hjs : ∀ k ∈ js, k.ordered = false) (hn : s.NextJob kind op j js)
    (ho : o = 0 ∨ o = op)
    {k off : Nat} {data : List Byte}
    (hf : f j (s.starting t js) = commitAnswer k (stageImage k off data (s.starting t js))) :
    let c := (stageImage k off data s).shadowTile k
    (c.commitBreach k = none → Runs i s (fun s' =>
      c.SameConfig s' ∧ (s'.tile k).pending = [] ∧ j.Reports 0x00 s')) ∧
    (∀ b, c.commitBreach k = some b → Runs i s (fun s' =>
      s.SameConfig s' ∧ (s'.tile k).pending = [] ∧ j.Reports b.1 s')) := by
  intro c
  obtain ⟨happlied, hrefused⟩ := commitAnswer_cases (starting_config s t js) k off data (starting_pending s t js k) hjs
  refine ⟨fun hb => ?_, fun b hb => ?_⟩
  · obtain ⟨x, hx, hcx, hpx, hjx⟩ := happlied hb
    exact runs_ordered e hr hjs hn ho (hf.trans hx) hjx fun _ hy hrep =>
      ⟨hcx.trans (completes_config hy), (congrArg Tile.pending (completes_entries hy k).1).trans hpx, hrep⟩
  · obtain ⟨x, hx, hcx, hpx, hjx⟩ := hrefused b hb
    exact runs_ordered e hr hjs hn ho (hf.trans hx) hjx fun _ hy hrep =>
      ⟨hcx.trans (completes_config hy), (congrArg Tile.pending (completes_entries hy k).1).trans hpx, hrep⟩

/-- A descriptor that names no such target: every setting and every pending write stays. -/
theorem runs_commit_badTarget (e : exec i s = run true t (inOrder (fun s => s.runBody kind o host f)) s)
    (hr : j.readFails host = false) (hjs : ∀ k ∈ js, k.ordered = false) (hn : s.NextJob kind op j js)
    (ho : o = 0 ∨ o = op)
    (hf : f j (s.starting t js) = (St.badTarget, 0, [], s.starting t js)) :
    Runs i s (fun s' => s.SameConfig s' ∧ (∀ k, (s'.tile k).pending = (s.tile k).pending) ∧ j.Reports 0x76 s') :=
  runs_ordered e hr hjs hn ho hf rfl fun _ hy hrep =>
    ⟨(starting_config s t js).trans (completes_config hy),
      fun k => (congrArg Tile.pending (completes_entries hy k).1).trans (starting_pending s t js k), hrep⟩

end Committing

/-! ### PORT_SET and SHAPER_SET -/

/-- PORT_SET of a port that starts one commits the port's image; of another it is BAD_TARGET (12 R366, 04 R133). -/
theorem portSet_clauses (t : Nat) (host : List Byte) (j : Job) (js : List Job) (s : State)
    (hr : j.readFails host = false) (hjs : ∀ k ∈ js, k.ordered = false) (hn : s.NextJob 5 3 j js) :
    let p := fieldOf j.desc 8 2
    let k := tileOf p
    let c := (stageImage k (0x10000 + 0x400 * (p % 32)) (s.jobData j.src (fieldOf j.desc 32 8) 512 host) s).shadowTile k
    (s.startsPort p = true → c.commitBreach k = none → Runs (.portSet t host) s (fun s' =>
      c.SameConfig s' ∧ (s'.tile k).pending = [] ∧ j.Reports 0x00 s')) ∧
    (s.startsPort p = true → ∀ b, c.commitBreach k = some b → Runs (.portSet t host) s (fun s' =>
      s.SameConfig s' ∧ (s'.tile k).pending = [] ∧ j.Reports b.1 s')) ∧
    (s.startsPort p = false → Runs (.portSet t host) s (fun s' =>
      s.SameConfig s' ∧ (∀ k, (s'.tile k).pending = (s.tile k).pending) ∧ j.Reports 0x76 s')) := by
  intro p k c
  have hport : (!(s.starting t js).startsPort p) = !s.startsPort p := by rw [(starting_config s t js).startsPort]
  have hcommit := fun hs : s.startsPort p = true => runs_commit (i := .portSet t host) (s := s) (t := t) rfl hr hjs hn
    (.inr rfl) (k := k) (off := 0x10000 + 0x400 * (p % 32)) (data := s.jobData j.src (fieldOf j.desc 32 8) 512 host)
    (if_neg (ne_true_of_eq_false (hport.trans (by rw [hs]; rfl))))
  exact ⟨fun hs => (hcommit hs).1, fun hs => (hcommit hs).2,
    fun hs => runs_commit_badTarget rfl hr hjs hn (.inr rfl) (if_pos (hport.trans (by rw [hs]; rfl)))⟩

theorem shaperOp_of {op : Nat} {j : Job} (h : jobIs 4 op j = true) (ho : op ≠ 0) : fieldOf j.desc 9 1 = op := by
  simp only [jobIs, Bool.and_eq_true, Bool.or_eq_true, beq_iff_eq, ho, false_or] at h
  exact h.2

/-- Where the image of SHAPER_SET begins in the shadowed group, and its length: by what it names, a flow queue (1), the
scheduling of a port (2) or its calendar (3) (06 R188 to R191). -/
def shaperImage (op i : Nat) : Nat × Nat :=
  if op = 1 then (0x100000 + 0x20 * i, 32) else if op = 2 then (0x18000 + 0x40 * i, 16)
  else (0x200000 + 0x2000 * i, 8192)

/-- SHAPER_SET names what exists: a tile with a flow queue of that number, or a port that starts one (12 R366). -/
def State.shaperFits (s : State) (op k i : Nat) : Bool :=
  decide (k ≤ 15) && if op = 1 then decide (i ≤ 4095) else decide (i ≤ 31) && s.startsPort (32 * k + i)

/-- SHAPER_SET of what exists commits its image; of another target it is BAD_TARGET (12 R366, 06 R188 to R191). -/
theorem shaperSet_clauses (t : Nat) (host : List Byte) {op : Nat} (j : Job) (js : List Job) (s : State)
    (hr : j.readFails host = false) (hjs : ∀ k ∈ js, k.ordered = false) (hn : s.NextJob 4 op j js) (hop : op ≠ 0)
    {off len : Nat} (himage : shaperImage op (fieldOf j.desc 10 2) = (off, len)) :
    let k := fieldOf j.desc 8 1
    let i := fieldOf j.desc 10 2
    let c := (stageImage k off (s.jobData j.src (fieldOf j.desc 16 8) len host) s).shadowTile k
    (s.shaperFits op k i = true → c.commitBreach k = none → Runs (.shaperSet t host) s (fun s' =>
      c.SameConfig s' ∧ (s'.tile k).pending = [] ∧ j.Reports 0x00 s')) ∧
    (s.shaperFits op k i = true → ∀ b, c.commitBreach k = some b → Runs (.shaperSet t host) s (fun s' =>
      s.SameConfig s' ∧ (s'.tile k).pending = [] ∧ j.Reports b.1 s')) ∧
    (s.shaperFits op k i = false → Runs (.shaperSet t host) s (fun s' =>
      s.SameConfig s' ∧ (∀ k, (s'.tile k).pending = (s.tile k).pending) ∧ j.Reports 0x76 s')) := by
  intro k i c
  obtain ⟨rfl, rfl⟩ : (shaperImage op i).1 = off ∧ (shaperImage op i).2 = len := Prod.mk.inj himage
  have hwhat : fieldOf j.desc 9 1 = op := shaperOp_of hn.2.2.2.1 hop
  have hbad : (decide (k > 15) || (if op = 1 then decide (i > 4095)
      else decide (i > 31) || !(s.starting t js).startsPort (32 * k + i))) = !s.shaperFits op k i := by
    rw [(starting_config s t js).startsPort, State.shaperFits]
    split <;> simp [← decide_not]
  have hcommit := fun hs : s.shaperFits op k i = true => runs_commit (i := .shaperSet t host) (s := s) (t := t) rfl
    hr hjs hn (.inl rfl) (k := k) (off := (shaperImage op i).1)
    (data := s.jobData j.src (fieldOf j.desc 16 8) (shaperImage op i).2 host) (by
      simp only [hwhat]
      exact (if_neg (ne_true_of_eq_false (hbad.trans (by rw [hs]; rfl)))).trans rfl)
  exact ⟨fun hs => (hcommit hs).1, fun hs => (hcommit hs).2,
    fun hs => runs_commit_badTarget rfl hr hjs hn (.inl rfl) (by
      simp only [hwhat]
      exact if_pos (hbad.trans (by rw [hs]; rfl)))⟩

/-- SHAPER_SET of the scheduling or the calendar of a port, as the statement says it (06 R188, R191). -/
theorem shaperPort_clauses (t : Nat) (host : List Byte) {op : Nat} (j : Job) (js : List Job) (s : State)
    (hr : j.readFails host = false) (hjs : ∀ k ∈ js, k.ordered = false) (hn : s.NextJob 4 op j js) (hop : op ≠ 0)
    (hport : op ≠ 1) {off len : Nat} (himage : shaperImage op (fieldOf j.desc 10 2) = (off, len)) :
    let k := fieldOf j.desc 8 1
    let i := fieldOf j.desc 10 2
    let c := (stageImage k off (s.jobData j.src (fieldOf j.desc 16 8) len host) s).shadowTile k
    (k ≤ 15 → i ≤ 31 → s.startsPort (32 * k + i) = true →
      (c.commitBreach k = none → Runs (.shaperSet t host) s (fun s' =>
        s'.schedOf (32 * k + i) = c.schedOf (32 * k + i) ∧ s'.calSh = c.calSh ∧
        (s'.tile k).pending = [] ∧ j.Reports 0x00 s')) ∧
      (∀ b, c.commitBreach k = some b → Runs (.shaperSet t host) s (fun s' =>
        s'.sched = s.sched ∧ s'.calSh = s.calSh ∧ s'.fqCfg = s.fqCfg ∧ s'.portCfg = s.portCfg ∧
        (s'.tile k).pending = [] ∧ j.Reports b.1 s'))) ∧
    (15 < k ∨ 31 < i ∨ s.startsPort (32 * k + i) = false → Runs (.shaperSet t host) s (fun s' =>
      s'.sched = s.sched ∧ s'.calSh = s.calSh ∧ (∀ k, (s'.tile k).pending = (s.tile k).pending) ∧ j.Reports 0x76 s')) := by
  intro k i c
  obtain ⟨happlied, hrefused, hbad⟩ := shaperSet_clauses t host j js s hr hjs hn hop himage
  have hfits : s.shaperFits op k i = (decide (k ≤ 15) && (decide (i ≤ 31) && s.startsPort (32 * k + i))) := by
    rw [State.shaperFits, if_neg hport]
  refine ⟨fun hk hi hs => ?_, fun h => ?_⟩
  · have hf : s.shaperFits op k i = true := by simp [hfits, hk, hi, hs]
    refine ⟨fun hb => (happlied hf hb).imp fun s' h => ?_, fun b hb => (hrefused hf b hb).imp fun s' h => ?_⟩ <;>
      obtain ⟨hc, hp, hrep⟩ := h
    · exact ⟨congrFun hc.schedOf _, hc.calSh, hp, hrep⟩
    · exact ⟨hc.sched, hc.calSh, hc.fqCfg, hc.portCfg, hp, hrep⟩
  · have hf : s.shaperFits op k i = false := by
      rw [hfits]
      obtain hk | hi | hs := h
      · simp [Nat.not_le.mpr hk]
      · simp [Nat.not_le.mpr hi]
      · simp [hs]
    refine (hbad hf).imp fun s' h => ?_
    obtain ⟨hc, hp, hrep⟩ := h
    exact ⟨hc.sched, hc.calSh, hp, hrep⟩

/-! ## Links

A port that retrains shows DETECT, the reason and LINK_DOWN at once (03 R77); the other ports and the maps of the lane
dies stay as they are. -/

/-- What a port that leaves ACTIVE for retraining shows (03 R77). -/
def Port.retraining (r : Reason) (x : Port) : Port := { x with state := .detect, reason := r, linkDown := true }

/-- A port that is up retrains, and apart from what it shows only traffic changes. -/
theorem retrain_up {p : Nat} {s : State} (h : (s.port p).state.up = true) (r : Reason) :
    (s.modPort p (Port.retraining r)).SameButTraffic (retrain p r s) := by
  have hlost := (linkLost_traffic p r s).modPort_congr p (fun x => { x with linkDown := true, linkDownSlots := 0 })
    (fun x y e => by simp_all [Port.link, Port.wiring])
  have hdown := (State.SameButTraffic.modPort_comp s p (fun x => { x with reason := r })
    (fun x => { x with linkDown := true, linkDownSlots := 0 })
    (fun x => { x with reason := r, linkDown := true }) fun _ => rfl).trans hlost
  have hdetect := hdown.modPort_congr p (fun x => { x with state := .detect })
    (fun x y e => by simp_all [Port.link, Port.wiring])
  unfold retrain
  simp only [h, Bool.not_true, Bool.false_eq_true, if_false]
  refine .trans ?_ (portEnter_traffic p .detect _)
  refine .trans ?_ hdetect
  exact .modPort_comp s p _ _ _ fun _ => rfl

theorem retrain_down {p : Nat} {s : State} (h : (s.port p).state.up = false) (r : Reason) : retrain p r s = s := by
  unfold retrain
  rw [h]
  rfl

/-- After a port retrains, another port shows what it did. -/
theorem retrain_link (p q : Nat) (r : Reason) (s : State) :
    ((retrain p r s).port q).link =
      if q = p ∧ (s.port p).state.up = true then ((s.port p).retraining r).link else (s.port q).link := by
  cases h : (s.port p).state.up with
  | true =>
    rw [(retrain_up h r).link q, State.modPort_port]
    by_cases e : q = p <;> simp [e]
  | false => simp [retrain_down h]

theorem retrain_laneDies (p : Nat) (r : Reason) (s : State) : (retrain p r s).laneDies = s.laneDies := by
  cases h : (s.port p).state.up with
  | true => exact (retrain_up h r).laneDies
  | false => rw [retrain_down h]

/-- Port q shows that it retrains for reason r. -/
def State.Retraining (s : State) (r : Reason) (q : Nat) : Prop :=
  (s.port q).state = .detect ∧ (s.port q).reason = r ∧ (s.port q).linkDown = true

theorem retraining_of_link {s : State} {r : Reason} {q : Nat} {x : Port} (h : (s.port q).link = (x.retraining r).link) :
    s.Retraining r q := by
  simp only [Port.link, Port.retraining, Prod.mk.injEq] at h
  obtain ⟨hst, hr, hdown, -⟩ := h
  exact ⟨hst, hr, hdown⟩

theorem State.Retraining.of_link_eq {s t : State} {r : Reason} {q : Nat} (h : s.Retraining r q)
    (e : (t.port q).link = (s.port q).link) : t.Retraining r q := by
  simp only [Port.link, Prod.mk.injEq] at e
  obtain ⟨hst, hr, hdown, -⟩ := e
  obtain ⟨hst', hr', hdown'⟩ := h
  exact ⟨hst.trans hst', hr.trans hr', hdown.trans hdown'⟩

/-- A port that retrains goes on doing so when another, or it, is told to. -/
theorem retrain_keeps_retraining {r : Reason} {q : Nat} {s : State} (h : s.Retraining r q) (p : Nat) :
    (retrain p r s).Retraining r q := by
  have hl := retrain_link p q r s
  split at hl
  · exact retraining_of_link hl
  · exact h.of_link_eq hl

/-- Every port of a list that is up retrains, whatever order they come in. -/
theorem retrainAll_retraining {r : Reason} {q : Nat} (ps : List Nat) (s : State)
    (h : s.Retraining r q ∨ q ∈ ps ∧ (s.port q).state.up = true) :
    (s.forEach ps (fun s p => retrain p r s)).Retraining r q := by
  induction ps generalizing s with
  | nil => simpa [forEach_nil] using h
  | cons p ps ih =>
    rw [forEach_cons]
    refine ih _ ?_
    obtain hret | ⟨hq, hup⟩ := h
    · exact .inl (retrain_keeps_retraining hret p)
    · have hl := retrain_link p q r s
      by_cases e : q = p
      · subst e
        exact .inl (retraining_of_link (hl.trans (if_pos ⟨rfl, hup⟩)))
      · rw [if_neg (fun h => e h.1)] at hl
        refine .inr ⟨(List.mem_cons.mp hq).resolve_left e, ?_⟩
        rw [show ((retrain p r s).port q).state = (s.port q).state from congrArg Prod.fst hl]
        exact hup

/-- The lanes of lane die n. -/
theorem mem_dieLanes (n q : Nat) : q ∈ (List.range 16).map (fun i => 16 * n + i) ↔ q / 16 = n := by
  simp only [List.mem_map, List.mem_range]
  constructor
  · rintro ⟨i, hi, rfl⟩
    omega
  · rintro rfl
    exact ⟨q % 16, by omega, by omega⟩

/-- A port-group reset waits while a port of the die sends LINK_DOWN (03 R96). -/
theorem groupResetStep_waits {n q : Nat} {s : State} (hq : q / 16 = n) (h : (s.port q).linkDown = true) :
    groupResetStep n s = s := by
  unfold groupResetStep
  split
  · exact if_pos (List.any_eq_true.mpr ⟨q, (mem_dieLanes n q).mpr hq, h⟩)
  · rfl

/-- A port-group reset of a die with a port that is up: the port retrains, and the maps wait (03 R77, R96). -/
theorem portGroupReset_up {n q : Nat} {s : State} (hq : q / 16 = n) (hs : s.startsPort q = true)
    (hup : (s.port q).state.up = true) :
    (portGroupReset n s).Retraining .portReset q ∧
      ((portGroupReset n s).laneDie n).pendStart = (s.laneDie n).pendStart ∧
      ((portGroupReset n s).laneDie n).startMap = (s.laneDie n).startMap := by
  unfold portGroupReset
  have hret := retrainAll_retraining (r := .portReset) (((List.range 16).map (fun i => 16 * n + i)).filter
    (fun p => s.startsPort p && (s.port p).state.up)) s
    (.inr ⟨List.mem_filter.mpr ⟨(mem_dieLanes n q).mpr hq, by simp [hs, hup]⟩, hup⟩)
  have hdies := forEach_ind (·.laneDies = s.laneDies) (((List.range 16).map (fun i => 16 * n + i)).filter
    (fun p => s.startsPort p && (s.port p).state.up)) (fun s p => retrain p .portReset s) s rfl
    (fun x p _ hx => (retrain_laneDies p .portReset x).trans hx)
  dsimp only
  generalize State.forEach s _ (fun s p => retrain p .portReset s) = y at hret hdies ⊢
  have hdie : y.laneDie n = s.laneDie n := by unfold State.laneDie; rw [hdies]
  rw [groupResetStep_waits (s := y.modLaneDie n _) hq hret.2.2, State.modLaneDie_laneDie, if_pos rfl, hdie]
  exact ⟨hret, rfl, rfl⟩

/-! ### What a port-group reset leaves (03 R96, R97, R100) -/

/-- The two states hold the same wiring entries and lane dies, and TR_RESET_STATUS shows the same. -/
structure State.SameWiring (s s' : State) : Prop where
  wiring : ∀ q, (s'.port q).wiring = (s.port q).wiring
  laneDies : s'.laneDies = s.laneDies
  rstStatus : s'.rstStatus = s.rstStatus

namespace State.SameWiring

variable {s t u : State}

theorem refl (s : State) : s.SameWiring s := ⟨fun _ => rfl, rfl, rfl⟩

theorem trans (h : s.SameWiring t) (k : t.SameWiring u) : s.SameWiring u :=
  ⟨fun q => (k.wiring q).trans (h.wiring q), k.laneDies.trans h.laneDies, k.rstStatus.trans h.rstStatus⟩

theorem of_traffic (h : s.SameButTraffic t) : s.SameWiring t := ⟨h.wiring, h.laneDies, h.rstStatus⟩

theorem modPort (s : State) (p : Nat) (f : Port → Port) (hf : ∀ x, (f x).wiring = x.wiring) :
    s.SameWiring (s.modPort p f) where
  wiring q := by
    rw [State.modPort_port]
    split
    · next e => rw [hf, e]
    · rfl
  laneDies := rfl
  rstStatus := rfl

/-- A change that leaves the ports, the lane dies and TR_RESET_STATUS alone. -/
theorem of_ports (h : t.ports = s.ports) (hd : t.laneDies = s.laneDies) (hr : t.rstStatus = s.rstStatus) : s.SameWiring t :=
  ⟨fun q => by unfold State.port; rw [h], hd, hr⟩

theorem forEach {α : Type} (s : State) (l : List α) (f : State → α → State)
    (h : ∀ (x : State) a, x.SameWiring (f x a)) : s.SameWiring (s.forEach l f) :=
  forEach_ind (s.SameWiring ·) l f s (refl s) (fun x a _ hx => hx.trans (h x a))

theorem modLaneDie_congr (h : s.SameWiring t) (n : Nat) (f : LaneDie → LaneDie) :
    (s.modLaneDie n f).SameWiring (t.modLaneDie n f) :=
  ⟨h.wiring, by unfold State.modLaneDie; rw [h.laneDies], h.rstStatus⟩

end State.SameWiring

open State (SameWiring)

theorem linkLost_wiring (p : Nat) (r : Reason) (s : State) : s.SameWiring (linkLost p r s) := by
  refine .trans ?_ (.of_traffic (linkLost_traffic p r s))
  exact .modPort s p _ fun _ => rfl

theorem portEnter_wiring (p : Nat) (st : LinkState) (s : State) : s.SameWiring (portEnter p st s) := by
  refine .trans ?_ (.of_traffic (portEnter_traffic p st s))
  exact .modPort s p _ fun _ => rfl

theorem askLane_wiring (l : Nat) (up : Bool) (s : State) : s.SameWiring (askLane l up s) := by
  unfold askLane
  exact iteInduction (motive := s.SameWiring) (fun _ => .of_ports rfl rfl rfl) fun _ => .of_ports rfl rfl rfl

theorem laneOff_wiring (l : Nat) (s : State) : s.SameWiring (laneOff l s) :=
  (askLane_wiring l false s).trans (.of_ports rfl rfl rfl)

theorem restartLanes_wiring (p : Nat) (s : State) : s.SameWiring (restartLanes p s) :=
  .forEach s _ _ fun _ _ => .of_ports rfl rfl rfl

theorem startFrames_wiring (l : Nat) (s : State) : s.SameWiring (startFrames l s) := by
  unfold startFrames
  split
  · exact .refl s
  · dsimp only
    split <;> exact .of_ports rfl rfl rfl

/-- A port that is up loses its link, another only what it carries: no wiring entry changes. -/
theorem loseLink_wiring (p : Nat) (r : Reason) (c : Bool) (s : State) :
    s.SameWiring (if c then linkLost p r s else discardLink p s) := by
  split
  · exact linkLost_wiring p r s
  · exact .of_traffic (discardLink_traffic p s)

theorem emptyPort_wiring (s : State) (p : Nat) : s.SameWiring (emptyPort s p) := by
  unfold emptyPort
  refine .trans ?_ (.of_traffic (modOutPort_traffic _ p _))
  exact .of_traffic (.forEach s _ _ fun x q => freeBuffer_traffic _ x _)

theorem clearPortEntries_wiring (lo n : Nat) (s : State) : s.SameWiring (clearPortEntries lo n s) :=
  .trans (.forEach s _ _ fun x p => emptyPort_wiring x p) (.of_ports rfl rfl rfl)

/-- The wiring entries stay through a port-group reset (03 R100). -/
theorem clearLaneDie_wiring (n : Nat) (s : State) : s.SameWiring (clearLaneDie n true s) := by
  unfold clearLaneDie
  refine .trans ?_ (.forEach _ _ _ fun x k => ?entry)
  case entry =>
    exact .trans (t := x.modLane k fun l => { enabled := l.enabled }) (.of_ports rfl rfl rfl)
      (.modPort _ k _ fun _ => rfl)
  refine .trans ?_ (.forEach _ _ _ fun x l => laneOff_wiring l x)
  exact .forEach s _ _ fun x p => loseLink_wiring p .portReset _ x

theorem portEnable_wiring (p : Nat) (s : State) : s.SameWiring (portEnable p s) := by
  unfold portEnable
  dsimp only
  split
  · exact .refl s
  · split
    · exact .modPort s p _ fun _ => rfl
    · split
      · exact .modPort s p _ fun _ => rfl
      · refine .trans ?_ (portEnter_wiring p .detect _)
        refine .trans ?_ (restartLanes_wiring p _)
        exact .forEach s _ _ fun x l => askLane_wiring l true x

/-- The end of a port-group reset puts the pending maps in force, and no wiring entry changes (03 R96, R100). -/
theorem groupResetEnd_wiring (n : Nat) (was : List Nat) (s : State) :
    (s.modLaneDie n (fun d => { d with startMap := d.pendStart, enable := d.pendEnable, resetPorts := none })).SameWiring
      (groupResetEnd n was s) := by
  unfold groupResetEnd
  refine .trans ?_ (.forEach _ _ _ fun x p => ?enabled)
  case enabled =>
    refine .trans (portEnable_wiring p x) (.modPort _ p _ fun y => ?_)
    split <;> rfl
  refine .trans ?_ (.forEach _ _ _ fun x p => .of_traffic (holdTimer_traffic p x))
  exact ((clearLaneDie_wiring n s).trans (clearPortEntries_wiring _ 16 _)).modLaneDie_congr n _

/-- After a port-group reset the maps that were pending are in force (03 R96). -/
theorem groupResetEnd_laneDie (n : Nat) (was : List Nat) (s : State) :
    ((groupResetEnd n was s).laneDie n).startMap = (s.laneDie n).pendStart ∧
      ((groupResetEnd n was s).laneDie n).enable = (s.laneDie n).pendEnable := by
  have hd : (groupResetEnd n was s).laneDie n = (s.modLaneDie n
      (fun d => { d with startMap := d.pendStart, enable := d.pendEnable, resetPorts := none })).laneDie n := by
    unfold State.laneDie
    rw [(groupResetEnd_wiring n was s).laneDies]
  rw [hd, State.modLaneDie_laneDie, if_pos rfl]
  exact ⟨rfl, rfl⟩

/-- A port-group reset of a die no port of which is up, or sends LINK_DOWN, puts the pending maps in force at once. -/
theorem portGroupReset_down {n : Nat} {s : State}
    (h : ∀ q, q / 16 = n → (s.port q).state.up = false ∧ (s.port q).linkDown = false) :
    ((portGroupReset n s).laneDie n).startMap = (s.laneDie n).pendStart ∧
      ((portGroupReset n s).laneDie n).enable = (s.laneDie n).pendEnable ∧
      (portGroupReset n s).rstStatus = s.rstStatus := by
  have hup : ((List.range 16).map (fun i => 16 * n + i)).filter (fun p => s.startsPort p && (s.port p).state.up) = [] :=
    List.filter_eq_nil_iff.mpr fun q hq => by simp [h q ((mem_dieLanes n q).mp hq)]
  have hquiet : ((List.range 16).map (fun i => 16 * n + i)).any (fun p => (s.port p).linkDown) = false :=
    List.any_eq_false.mpr fun q hq => by simp [h q ((mem_dieLanes n q).mp hq)]
  have e : portGroupReset n s = groupResetEnd n [] (s.modLaneDie n (fun d => { d with resetPorts := some [] })) := by
    unfold portGroupReset
    rw [hup]
    unfold groupResetStep
    simp only [forEach_nil, State.modLaneDie_laneDie, if_true, State.modLaneDie_entries, hquiet, Bool.false_eq_true,
      if_false]
  obtain ⟨hstart, henable⟩ := groupResetEnd_laneDie n [] (s.modLaneDie n (fun d => { d with resetPorts := some [] }))
  rw [State.modLaneDie_laneDie, if_pos rfl] at hstart henable
  rw [e]
  exact ⟨hstart, henable, (groupResetEnd_wiring n [] _).rstStatus⟩

/-! ## Wiring entries -/

theorem groupResetStep_wiring (n q : Nat) (s : State) : ((groupResetStep n s).port q).wiring = (s.port q).wiring := by
  unfold groupResetStep
  split
  · split
    · rfl
    · exact (groupResetEnd_wiring n _ s).wiring q
  · rfl

theorem portDown_wiring (p q : Nat) (r : Reason) (s : State) : ((portDown p r s).port q).wiring = (s.port q).wiring := by
  unfold portDown
  refine (groupResetStep_wiring _ q _).trans ?_
  refine State.SameWiring.wiring ?_ q
  refine .trans ?_ (portEnter_wiring p .down _)
  refine .trans ?_ (.modPort _ p _ fun _ => rfl)
  refine .trans ?_ (loseLink_wiring p r _ _)
  exact .forEach s _ _ fun x l => startFrames_wiring l x

theorem reachActive_wiring (p : Nat) (s : State) : s.SameWiring (reachActive p s) := by
  unfold reachActive
  refine .trans ?_ (portEnter_wiring p .active _)
  exact .trans (t := s.modPort p fun x =>
      { x with attempts := 0, pairs := tmap {} (fun _ c => { c with freed := c.freed + c.owed, owed := 0 }) x.pairs })
    (.modPort s p _ fun _ => rfl) (.of_ports rfl rfl rfl)

/-- The comparison with the wiring entry changes no wiring entry (03 R79). -/
theorem runWiring_wiring (p q : Nat) (s : State) : ((runWiring p s).port q).wiring = (s.port q).wiring := by
  have hevent : s.SameWiring (if (s.wiring p).2 then s.event 0x61 (36 + laneDieOf p) p (fieldOf (s.port p).partner 0 8)
      (fieldOf (s.port p).partner 8 2) else s) := by
    split
    · exact .of_traffic (.of_posts (event_posts _ _ _ _ _ _))
    · exact .refl s
  unfold runWiring
  dsimp only
  generalize (if (s.wiring p).2 = true then _ else s) = y at hevent ⊢
  refine .trans ?_ (hevent.wiring q)
  split
  · rfl
  · split
    · exact (reachActive_wiring p y).wiring q
    · exact portDown_wiring p q .disabled y
    · refine SameWiring.wiring ?_ q
      refine .trans ?_ (.of_traffic (fenceDrop_traffic p _ _))
      refine .trans ?_ (portEnter_wiring p .quarantine _)
      split
      · exact .of_ports rfl rfl rfl
      · exact .refl y

/-- Pending writes of wiring entries act on the ports alone. -/
theorem wireWrites_ports {s t : State} (h : t.ports = s.ports) (n : Nat) (ws : List (Nat × W32)) :
    (t.forEach ws (wireWrite n)).ports = (s.forEach ws (wireWrite n)).ports := by
  induction ws generalizing s t with
  | nil => exact h
  | cons w ws ih => exact ih (by unfold wireWrite State.modPort; rw [h])

theorem wireWrites_port (s : State) (n : Nat) (f : LaneDie → LaneDie) (ws : List (Nat × W32)) (p : Nat) :
    ((s.modLaneDie n f).forEach ws (wireWrite n)).port p = (s.forEach ws (wireWrite n)).port p := by
  unfold State.port
  rw [wireWrites_ports (s := s) (t := s.modLaneDie n f) rfl]

/-- A commit of wiring entries that leaves no port of the die with the reserved mode puts in force what the pending
writes say (03 R100). -/
theorem lnCommit_wiring (n q : Nat) {s : State} (ha : (s.laneDie n).pendAt = (0, 0))
    (h : ∀ p, ((s.forEach (s.laneDie n).pending (wireWrite n)).port p).wireMode ≠ 3) :
    ((lnCommit n s).port q).wiring = ((s.forEach (s.laneDie n).pending (wireWrite n)).port q).wiring := by
  have hport := wireWrites_port s n (fun d => { d with pending := [] }) (s.laneDie n).pending
  unfold lnCommit
  rw [ha, pendSplit_all]
  dsimp only
  generalize State.forEach (s.modLaneDie n _) (s.laneDie n).pending (wireWrite n) = s1 at hport ⊢
  have hmode : ((List.range 16).map (fun i => 16 * n + i)).any (fun p => (s1.port p).wireMode == 3) = false :=
    List.any_eq_false.mpr fun p _ => by rw [hport]; simpa using h p
  rw [hmode]
  refine .trans ?_ (congrArg Port.wiring (hport q))
  refine forEach_ind (fun x => (x.port q).wiring = _) _ _ _ rfl fun x p _ hx => ?_
  split
  · exact (runWiring_wiring p q x).trans hx
  · exact (runWiring_wiring p q x).trans hx
  · refine (SameWiring.wiring ?_ q).trans hx
    exact .modPort x p _ fun _ => rfl
  · exact hx

/-- A word of a wiring entry: the serial in two halves, then the partner port and the mode (03 R100). -/
def Port.wireWord (x : Port) (r : Nat) (v : W32) : Port :=
  if r = 0 then { x with wireSerial := BitVec.ofNat 64 (x.wireSerial.toNat / 2 ^ 32 * 2 ^ 32 + v.toNat) }
  else if r = 4 then { x with wireSerial := BitVec.ofNat 64 (x.wireSerial.toNat % 2 ^ 32 + v.toNat * 2 ^ 32) }
  else if r = 8 then { x with wirePort := BitVec.ofNat 16 v.toNat, wireMode := BitVec.ofNat 2 (v.toNat / 2 ^ 16) }
  else x

/-- A pending write in the entry of port p writes a word of it. -/
theorem wireWrite_entry (p : Nat) {r : Nat} (hr : r < 16) (v : W32) (s : State) :
    wireWrite (laneDieOf p) s (0x10 * (p % 16) + r, v) = s.modPort p (·.wireWord r v) := by
  have hp : 16 * laneDieOf p + (0x10 * (p % 16) + r) / 16 % 16 = p := by unfold laneDieOf; omega
  have hw : (0x10 * (p % 16) + r) % 16 = r := by omega
  simp only [wireWrite, hp, hw]
  rfl

/-- The two halves of a serial make it up. -/
theorem serial_halves (a serial : Nat) :
    BitVec.ofNat 64 ((BitVec.ofNat 64 (a / 2 ^ 32 * 2 ^ 32 + (BitVec.ofNat 32 serial).toNat)).toNat % 2 ^ 32 +
      (BitVec.ofNat 32 (serial / 2 ^ 32)).toNat * 2 ^ 32) = BitVec.ofNat 64 serial := by
  apply BitVec.eq_of_toNat_eq
  simp only [BitVec.toNat_ofNat]
  omega

/-- The word that holds partner port and mode holds both. -/
theorem wireWord_port_mode (pport mode : Nat) :
    BitVec.ofNat 16 (BitVec.ofNat 32 (pport % 65536 + 65536 * mode)).toNat = BitVec.ofNat 16 pport ∧
      BitVec.ofNat 2 ((BitVec.ofNat 32 (pport % 65536 + 65536 * mode)).toNat / 2 ^ 16) = BitVec.ofNat 2 mode := by
  constructor <;> apply BitVec.eq_of_toNat_eq <;> simp only [BitVec.toNat_ofNat] <;> omega

/-- What WIRE and WIRING_ACCEPT write of an entry is what they were given (03 R100). -/
theorem wireEntry_written (p serial pport mode q : Nat) (s : State) :
    ((s.forEach [(0x10 * (p % 16), BitVec.ofNat 32 serial), (0x10 * (p % 16) + 4, BitVec.ofNat 32 (serial / 2 ^ 32)),
      (0x10 * (p % 16) + 8, BitVec.ofNat 32 (pport % 65536 + 65536 * mode))] (wireWrite (laneDieOf p))).port q).wiring =
      if q = p then (BitVec.ofNat 64 serial, BitVec.ofNat 16 pport, BitVec.ofNat 2 mode) else (s.port q).wiring := by
  rw [forEach_cons, forEach_cons, forEach_cons, forEach_nil, wireWrite_entry p (r := 8) (by decide),
    wireWrite_entry p (r := 4) (by decide), ← Nat.add_zero (0x10 * (p % 16)), wireWrite_entry p (r := 0) (by decide)]
  by_cases e : q = p
  · obtain ⟨hport, hm⟩ := wireWord_port_mode pport mode
    simp only [State.modPort_port, e, if_true]
    exact Prod.ext (serial_halves _ serial) (Prod.ext hport hm)
  · simp only [State.modPort_port, e, if_false]

/-- The entry that WIRE or WIRING_ACCEPT writes is in force, on a die with no pending write and no reserved mode. -/
theorem wireCommit_wiring (p serial pport : Nat) {mode : Nat} (hmode : mode < 3) {s : State}
    (hpend : (s.laneDie (laneDieOf p)).pending = []) (h3 : ∀ q, (s.port q).wireMode ≠ 3) :
    ((wireCommit p serial pport mode s).port p).wiring =
      (BitVec.ofNat 64 serial, BitVec.ofNat 16 pport, BitVec.ofNat 2 mode) := by
  unfold wireCommit
  dsimp only
  have hws : ∀ ws, ((s.modLaneDie (laneDieOf p) (fun d =>
      { d with pending := d.pending ++ ws, pendAt := (0, 0) })).laneDie (laneDieOf p)).pending = ws := by
    intro ws
    rw [State.modLaneDie_laneDie, if_pos rfl, hpend, List.nil_append]
  refine (lnCommit_wiring (laneDieOf p) p ?_ fun q => ?_).trans ?_
  · rw [State.modLaneDie_laneDie, if_pos rfl]
  · rw [hws]
    change (State.port _ q).wiring.2.2 ≠ 3
    rw [wireEntry_written p serial pport mode q]
    split
    · intro e
      have h := congrArg BitVec.toNat e
      rw [BitVec.toNat_ofNat, show (3 : BitVec 2).toNat = 3 from rfl] at h
      omega
    · exact h3 q
  · rw [hws]
    exact (wireEntry_written p serial pport mode p _).trans (if_pos rfl)

/-! ## PORT_CTL and WIRING_ACCEPT -/

/-- The state with a map in LN_PORT_MAP_PEND of lane die n: the start bits, and the enables above them (03 R97). -/
def State.pendMap (s : State) (n map : Nat) : State :=
  s.modLaneDie n (fun d => { d with pendStart := BitVec.ofNat 16 map, pendEnable := BitVec.ofNat 16 (map / 65536) })

theorem pendMap_laneDie (s : State) (n map : Nat) :
    ((s.pendMap n map).laneDie n).pendStart = BitVec.ofNat 16 map ∧
      ((s.pendMap n map).laneDie n).pendEnable = BitVec.ofNat 16 (map / 65536) ∧
      ((s.pendMap n map).laneDie n).startMap = (s.laneDie n).startMap := by
  rw [State.pendMap, State.modLaneDie_laneDie, if_pos rfl]
  exact ⟨rfl, rfl, rfl⟩

/-- A pending map changes no port's start. -/
theorem pendMap_startsPort (s : State) (n map q : Nat) : (s.pendMap n map).startsPort q = s.startsPort q := by
  unfold State.startsPort State.pendMap
  rw [State.modLaneDie_laneDie]
  split
  · next e => rw [e]
  · rfl

theorem dieKind_lane {n : Nat} (h : n < 32) : dieKind (dieLane n) = .lane := by
  unfold dieKind dieLane
  iterate 5 rw [if_neg (by omega)]
  exact if_pos (by omega)

/-- Outside BOOT_HALT and the safe state a port-group reset of a lane die with a valid pending map is not refused
(02 R53, R54, 03 R96). -/
theorem resetRefused_group {n : Nat} {s : State} (hn : n < 32) (hmap : mapValid (s.laneDie n).pendStart = true)
    (hb : s.boot.phase ≠ .bootHalt) (hv : s.vent.inSafe = false) : s.resetRefused 4 (dieLane n) 0 = none := by
  have hfits : s.resetFits 4 (dieLane n) 0 = true := by
    have hindex : dieLane n - 36 = n := Nat.add_sub_cancel_left 36 n
    simp [State.resetFits, dieKind_lane hn, hindex, hmap]
  have hfree : s.resetBusy 4 (dieLane n) 0 = false := rfl
  simp [State.resetRefused, hfits, hfree, hb, hv]

section PortCtl

variable {i : Instr} {s x : State} {t kind op o : Nat} {j : Job} {js : List Job} {st : Byte} {d : Nat} {res : List Byte}
  {f : Job → State → Byte × Nat × List Byte × State} {P : State → Prop}

/-- What a descriptor answers that nothing waits behind. -/
theorem runs_job (e : exec i s = run true t (fun s => s.runJob kind o f) s) (hn : s.NextJob kind op j js)
    (ho : o = 0 ∨ o = op) (hf : f j (s.starting t js) = (st, d, res, x))
    (hp : ∀ y, x.Completes y → j.Reports st y → P y) : Runs i s P :=
  runs_completed e (runJob_next hn ho t hf) hp

/-- A descriptor for a port that does not start one: every port and every map stays. -/
theorem runs_job_badTarget (e : exec i s = run true t (fun s => s.runJob kind o f) s) (hn : s.NextJob kind op j js)
    (ho : o = 0 ∨ o = op) (hf : f j (s.starting t js) = (St.badTarget, 0, [], s.starting t js)) :
    Runs i s (fun s' => s'.ports = s.ports ∧
      (∀ k, (s'.laneDie k).pending = (s.laneDie k).pending ∧ (s'.laneDie k).startMap = (s.laneDie k).startMap ∧
        (s'.laneDie k).enable = (s.laneDie k).enable) ∧ j.Reports 0x76 s') := by
  refine runs_job e hn ho hf fun y hy hrep => ⟨?_, fun k => ?_, hrep⟩
  · rw [hy]
    rfl
  · obtain ⟨-, -, hdie, -⟩ := completes_entries hy k
    rw [hdie]
    exact newCycle_laneDie _ k

/-- A descriptor that writes the wiring entry of a port of a die with no pending write and no reserved mode. -/
theorem runs_wire {p serial pport mode : Nat} (e : exec i s = run true t (fun s => s.runJob kind o f) s)
    (hn : s.NextJob kind op j js) (ho : o = 0 ∨ o = op) (hpend : (s.laneDie (laneDieOf p)).pending = [])
    (h3 : ∀ q, (s.port q).wireMode ≠ 3) (hmode : mode < 3)
    (hf : f j (s.starting t js) = (St.ok, 0, res, wireCommit p serial pport mode (s.starting t js))) :
    Runs i s (fun s' => (s'.port p).wireSerial = BitVec.ofNat 64 serial ∧ (s'.port p).wirePort = BitVec.ofNat 16 pport ∧
      (s'.port p).wireMode = BitVec.ofNat 2 mode ∧ j.Reports 0x00 s') := by
  have hw := wireCommit_wiring p serial pport hmode (s := s.starting t js)
    ((newCycle_laneDie _ _).1.trans hpend) h3
  simp only [Port.wiring, Prod.mk.injEq] at hw
  obtain ⟨hserial, hport, hm⟩ := hw
  refine runs_job e hn ho hf fun y hy hrep => ?_
  obtain ⟨-, hp, -, -⟩ := completes_entries hy p
  rw [hp]
  exact ⟨hserial, hport, hm, hrep⟩

end PortCtl

section

variable (t : Nat) (j : Job) (js : List Job) (s : State)

/-- WIRE and WIRING_ACCEPT write the wiring entry of the port (12 R366, 03 R79, R100). -/
theorem wire_clauses (hs : s.startsPort (fieldOf j.desc 8 2) = true)
    (hpend : (s.laneDie (laneDieOf (fieldOf j.desc 8 2))).pending = []) (h3 : ∀ q, (s.port q).wireMode ≠ 3) :
    let p := fieldOf j.desc 8 2
    (s.NextJob 5 2 j js → fieldOf j.desc 12 4 % 4 ≠ 3 → Runs (.portCtlWire t) s (fun s' =>
      (s'.port p).wireSerial = BitVec.ofNat 64 (fieldOf j.desc 16 8) ∧
      (s'.port p).wirePort = BitVec.ofNat 16 (fieldOf j.desc 24 2) ∧
      (s'.port p).wireMode = BitVec.ofNat 2 (fieldOf j.desc 12 4) ∧ j.Reports 0x00 s')) ∧
    (s.NextJob 6 0 j js → (s.port p).partner.any (fun b => b != 0) = true → Runs (.wiringAccept t) s (fun s' =>
      (s'.port p).wireSerial = BitVec.ofNat 64 (fieldOf (s.port p).partner 0 8) ∧
      (s'.port p).wirePort = BitVec.ofNat 16 (fieldOf (s.port p).partner 8 2) ∧
      (s'.port p).wireMode = 1 ∧ j.Reports 0x00 s')) := by
  intro p
  have hport : (s.starting t js).startsPort p = true := by rw [(starting_config s t js).startsPort]; exact hs
  refine ⟨fun hn h4 => ?_, fun hn hid => ?_⟩
  · have hmode : BitVec.ofNat 2 (fieldOf j.desc 12 4 % 4) = BitVec.ofNat 2 (fieldOf j.desc 12 4) := by
      apply BitVec.eq_of_toNat_eq
      simp
    rw [← hmode]
    refine runs_wire (mode := fieldOf j.desc 12 4 % 4) rfl hn (.inr rfl) hpend h3 (by omega) (if_neg ?_)
    show ¬ (!(s.starting t js).startsPort p) = true
    rw [hport]
    decide
  · refine runs_wire (mode := 1) rfl hn (.inl rfl) hpend h3 (by decide) (if_neg ?_)
    show ¬ (!(s.starting t js).startsPort p || (s.port p).partner.all (fun b => b == 0)) = true
    rw [hport]
    simpa using hid

/-- PORT_CTL RESET makes a port that carries cells retrain (02 R52). -/
theorem portCtlReset_retrains (hs : s.startsPort (fieldOf j.desc 8 2) = true) (hn : s.NextJob 5 1 j js)
    (hiso : s.portIsolated (fieldOf j.desc 8 2) = false) (hup : (s.port (fieldOf j.desc 8 2)).state.up = true) :
    Runs (.portCtlReset t) s (fun s' => s'.Retraining .portReset (fieldOf j.desc 8 2) ∧ j.Reports 0x00 s') := by
  have hport : (s.starting t js).startsPort (fieldOf j.desc 8 2) = true := by
    rw [(starting_config s t js).startsPort]; exact hs
  have hup' : ((s.starting t js).port (fieldOf j.desc 8 2)).state.up = true := hup
  have hreset : portReset (fieldOf j.desc 8 2) (s.starting t js) =
      retrain (fieldOf j.desc 8 2) .portReset (s.starting t js) := by
    have hiso' : (s.starting t js).portIsolated (fieldOf j.desc 8 2) = false := hiso
    unfold portReset
    simp only [hiso', hup', Bool.false_eq_true, if_false, if_true]
  refine runs_job rfl hn (.inr rfl) (if_neg (by rw [hport]; decide)) fun y hy hrep => ⟨?_, hrep⟩
  have hret := retrainAll_retraining (r := .portReset) [fieldOf j.desc 8 2] (s.starting t js) (.inr ⟨.head _, hup'⟩)
  rw [forEach_cons, forEach_nil, ← hreset] at hret
  obtain ⟨-, hp, -, -⟩ := completes_entries hy (fieldOf j.desc 8 2)
  unfold State.Retraining
  rw [hp]
  exact hret

/-- PORT_CTL WIDTH of a valid map is a port-group reset of the die with that map pending (03 R96, 12 R366). -/
theorem portCtlWidth_resets {P : State → Prop} (hs : s.startsPort (fieldOf j.desc 8 2) = true)
    (hn : s.NextJob 5 4 j js) (hb : s.boot.phase ≠ .bootHalt) (hmap : mapValid (BitVec.ofNat 16 (fieldOf j.desc 12 4)) = true)
    (hp : ∀ y, (portGroupReset (laneDieOf (fieldOf j.desc 8 2)) ((s.starting t js).pendMap
      (laneDieOf (fieldOf j.desc 8 2)) (fieldOf j.desc 12 4))).Completes y → j.Reports 0x00 y → P y) :
    Runs (.portCtlWidth t) s P := by
  have hport : (s.starting t js).startsPort (fieldOf j.desc 8 2) = true := by
    rw [(starting_config s t js).startsPort]; exact hs
  have hdie : laneDieOf (fieldOf j.desc 8 2) < 32 := by
    simp only [State.startsPort, Bool.and_eq_true, decide_eq_true_eq] at hs
    unfold laneDieOf
    omega
  have hfree := resetRefused_group
    (s := (s.starting t js).pendMap (laneDieOf (fieldOf j.desc 8 2)) (fieldOf j.desc 12 4)) hdie (by rw [(pendMap_laneDie _ _ _).1]; exact hmap) hb hn.2.1
  refine runs_job (d := 0) (res := []) rfl hn (.inr rfl) ((if_neg (by rw [hport]; decide)).trans ?_) hp
  unfold State.pendMap at hfree
  simp only [hfree]
  rfl

end

section

variable (t : Nat) (j : Job) (js : List Job) (s : State)

/-- PORT_CTL WIDTH (12 R366, 03 R96): where a port of the die is up the map waits and the port retrains; where none is
up or sends LINK_DOWN the map is in force. -/
theorem portCtlWidth_clauses (hs : s.startsPort (fieldOf j.desc 8 2) = true) (hn : s.NextJob 5 4 j js)
    (hb : s.boot.phase ≠ .bootHalt) (hmap : mapValid (BitVec.ofNat 16 (fieldOf j.desc 12 4)) = true) :
    let n := laneDieOf (fieldOf j.desc 8 2)
    (∀ q, q / 16 = n → (s.port q).state.up = true → s.startsPort q = true → Runs (.portCtlWidth t) s (fun s' =>
      (s'.laneDie n).pendStart = BitVec.ofNat 16 (fieldOf j.desc 12 4) ∧ (s'.laneDie n).startMap = (s.laneDie n).startMap ∧
      s'.Retraining .portReset q ∧ j.Reports 0x00 s')) ∧
    ((∀ q, q / 16 = n → (s.port q).state.up = false ∧ (s.port q).linkDown = false) → Runs (.portCtlWidth t) s (fun s' =>
      (s'.laneDie n).startMap = BitVec.ofNat 16 (fieldOf j.desc 12 4) ∧
      (s'.laneDie n).enable = BitVec.ofNat 16 (fieldOf j.desc 12 4 / 65536) ∧ s'.rstStatus = s.rstStatus ∧
      j.Reports 0x00 s')) := by
  intro n
  obtain ⟨hstart, henable, hold⟩ := pendMap_laneDie (s.starting t js) n (fieldOf j.desc 12 4)
  refine ⟨fun q hq hup hsq => portCtlWidth_resets t j js s hs hn hb hmap fun y hy hrep => ?_,
    fun hdown => portCtlWidth_resets t j js s hs hn hb hmap fun y hy hrep => ?_⟩
  · obtain ⟨hret, hpend, hmaps⟩ := portGroupReset_up (s := (s.starting t js).pendMap n (fieldOf j.desc 12 4)) hq
      (by rw [pendMap_startsPort, (starting_config s t js).startsPort]; exact hsq) hup
    obtain ⟨-, hp, -, -⟩ := completes_entries hy q
    obtain ⟨-, -, hd, -⟩ := completes_entries hy n
    unfold State.Retraining
    rw [hd, hp]
    exact ⟨hpend.trans hstart, (hmaps.trans hold).trans ((starting_config s t js).startMap n), hret, hrep⟩
  · obtain ⟨hmaps, hen, hrst⟩ := portGroupReset_down (s := (s.starting t js).pendMap n (fieldOf j.desc 12 4)) hdown
    obtain ⟨-, -, hd, hr⟩ := completes_entries hy n
    rw [hd, hr]
    exact ⟨hmaps.trans hstart, hen.trans henable, hrst, hrep⟩

/-- Each of the four for a port that does not start one is BAD_TARGET (12 R366). -/
theorem portCtl_badTarget (hs : s.startsPort (fieldOf j.desc 8 2) = false) :
    ∀ c ∈ [(Instr.portCtlWire t, 5, 2), (.wiringAccept t, 6, 0), (.portCtlReset t, 5, 1), (.portCtlWidth t, 5, 4)],
      s.NextJob c.2.1 c.2.2 j js → Runs c.1 s (fun s' => s'.ports = s.ports ∧
        (∀ k, (s'.laneDie k).pending = (s.laneDie k).pending ∧ (s'.laneDie k).startMap = (s.laneDie k).startMap ∧
          (s'.laneDie k).enable = (s.laneDie k).enable) ∧ j.Reports 0x76 s') := by
  have hport : (!(s.starting t js).startsPort (fieldOf j.desc 8 2)) = true := by
    rw [(starting_config s t js).startsPort, hs]; rfl
  simp only [List.forall_mem_cons]
  refine ⟨fun hn => ?wire, fun hn => ?accept, fun hn => ?reset, fun hn => ?width, fun _ h => absurd h List.not_mem_nil⟩
  case wire => exact runs_job_badTarget rfl hn (.inr rfl) (if_pos hport)
  case accept => exact runs_job_badTarget rfl hn (.inl rfl) (if_pos (by rw [hport]; rfl))
  case reset => exact runs_job_badTarget rfl hn (.inr rfl) (if_pos hport)
  case width => exact runs_job_badTarget rfl hn (.inr rfl) (if_pos hport)

end

/-! ## The statement -/

/-- Settles O21: a commit is carried out from a candidate with the settings of the one that the statement names, its
effects change traffic only, and a descriptor's completion changes neither; the port controls rest on what retraining, a
port-group reset and the wiring comparison leave alone. -/
theorem tileSettingsWritten : Obligations.TileSettingsWritten := by
  unfold Obligations.TileSettingsWritten
  refine ⟨fun t m tile s hm hk ho hr => ?commit, fun t host j js s hread hjs => ?image, fun t j js s => ?portCtl⟩
  case commit =>
    obtain ⟨hwaits, happlied, hrefused⟩ := ptCommit_clauses t m tile s hm hk ho hr
    refine ⟨hwaits, fun hj hb hs => (happlied hj hb hs).imp fun s' h => ?_,
      fun b hj hb hs => (hrefused b hj hb hs).imp fun s' h => ?_⟩
    · obtain ⟨hp, hf, hc⟩ := h
      exact ⟨hp, hf, congrFun hc.cfg, congrFun hc.schedOf, congrFun hc.fq, congrFun hc.hodCfg,
        hc.seed tile, hc.routing.trans (shadowOf_frame tile _ s).2⟩
    · obtain ⟨hp, hf, hd, hc, hout, hsent⟩ := h
      exact ⟨hp, hf, hd, hc.portCfg, hc.sched, hc.fqCfg, hc.hodPort, hc.calSh, hout, hsent⟩
  case image =>
    refine ⟨fun hn => ?portSet, fun hn => ?flowQueue, fun what hwhat hn => ?port⟩
    case portSet =>
      obtain ⟨happlied, hrefused, hbad⟩ := portSet_clauses t host j js s hread hjs hn
      refine ⟨fun hs hb => (happlied hs hb).imp fun s' h => ?_, fun b hs hb => (hrefused hs b hb).imp fun s' h => ?_,
        fun hs => (hbad hs).imp fun s' h => ?_⟩ <;> obtain ⟨hc, hp, hrep⟩ := h
      · exact ⟨congrFun hc.cfg _, hp, hrep⟩
      · exact ⟨hc.portCfg, hc.sched, hc.fqCfg, hp, hrep⟩
      · exact ⟨hc.portCfg, hp, hrep⟩
    case flowQueue =>
      intro tile i c ht hi
      obtain ⟨happlied, hrefused, -⟩ := shaperSet_clauses t host j js s hread hjs hn (by decide) rfl
      have hfits : s.shaperFits 1 tile i = true := by simp [State.shaperFits, ht, hi]
      refine ⟨fun hb => (happlied hfits hb).imp fun s' h => ?_, fun b hb => (hrefused hfits b hb).imp fun s' h => ?_⟩ <;>
        obtain ⟨hc, hp, hrep⟩ := h
      · exact ⟨congrFun hc.fq _, hp, hrep⟩
      · exact ⟨hc.fqCfg, hc.portCfg, hp, hrep⟩
    case port =>
      obtain rfl | rfl : what = (2, 0x18000, 0x40, 16) ∨ what = (3, 0x200000, 0x2000, 8192) := by simpa using hwhat
      · exact shaperPort_clauses t host j js s hread hjs hn (by decide) (by decide) rfl
      · exact shaperPort_clauses t host j js s hread hjs hn (by decide) (by decide) rfl
  case portCtl =>
    refine ⟨fun hs hpend h3 => wire_clauses t j js s hs hpend h3, fun hs hn hiso hup => ?_,
      fun hs hn hb hmap => ?_, fun hs => portCtl_badTarget t j js s hs⟩
    · refine (portCtlReset_retrains t j js s hs hn hiso hup).imp fun s' h => ?_
      obtain ⟨⟨hst, hr, hl⟩, hrep⟩ := h
      exact ⟨hst, hr, hl, hrep⟩
    · obtain ⟨hup, hdown⟩ := portCtlWidth_clauses t j js s hs hn hb hmap
      refine ⟨fun q hq hu hsq => (hup q hq hu hsq).imp fun s' h => ?_, hdown⟩
      obtain ⟨hpend, hmaps, ⟨hst, hr, hl⟩, hrep⟩ := h
      exact ⟨hpend, hmaps, hst, hl, hr, hrep⟩

end Sys2Proof.Machine
end
